-- ==== Sys2Proof/Word.lean ====
section
/-! DEFINITION. The word types of the Parbilek K9 and the one sparse table that large state is held in. -/

namespace Sys2Proof

/-- A byte of memory (R7: values of more than one byte are little-endian). -/
abbrev Byte := BitVec 8

/-- A 32-bit word: an instruction word (R18), a lane of a vector register (R159). -/
abbrev Word := BitVec 32

/-- A 64-bit scalar, address or control register (R96, R124). -/
abbrev DWord := BitVec 64

/-- A sparse table: keys strictly rising, and no key whose value is the table's default value.
The operations are in `Sys2Proof.Machine.Map`. -/
abbrev SMap (α : Type) := List (Nat × α)

/-- The 1,024 lanes of a vector register (R159), sparse: a lane not listed holds +0. -/
abbrev Lanes := SMap Word

/-- The 1,024 bits of a mask register (R159). -/
abbrev Mask := BitVec 1024

end Sys2Proof
end

