-- ==== Sys2Proof/Config.lean ====
section
/-! DEFINITION. What one K9 fixes, and the free values: constants without a body, which nothing can evaluate. -/

namespace Sys2Proof.Config

/-- Base of the launch window, a multiple of 4 MiB set by the system controller (R67).
DESIGN CHOICE (log 4): the spec gives no address. -/
def windowBase : Nat := 0x4000000000

/-- Base of the region of save areas, 4 MiB for each of the 1,152 contexts (R262).
DESIGN CHOICE (log 4): the spec gives no address. -/
def saveBase : Nat := 0x8000000000

/-- The bytes of memory of one package (R319). -/
def memBytes : Nat := 768000000000

/-- Free value (log 5): GTIME ticks that pass at a step of the model (R130). -/
opaque gtimeAdvance : Nat → Nat

/-- Free value (log 5): clock cycles of the running core that pass at a step (R130). -/
opaque cycleAdvance : Nat → Nat

/-- Free value (log 5): the power manager's charge for a bundle, in nanojoules (R276). -/
opaque energyCharge : Nat → Nat

/-- Free value (log 7): whether an operation within seven bundles of an `stset` uses the new state (R186). -/
opaque stsetEarly : Nat → Bool

/-- Free value (log 6): which of the old and the new entry a translation uses until an invalidation completes (R322). -/
opaque tlbChoice : Nat → Nat

/-- Free value (log 10): the index of this chip in the D5 group of a JOBTAG (R77). -/
opaque chipIndex : BitVec 32 → BitVec 16

/-- Free value (log 11): the scale code of `vquant` for a block whose largest quotient is n / d × 2^e above 31.5 (R143). -/
opaque scaleBeyond : Nat → Nat → Int → BitVec 8

/-- Free value (log 12): which of the claims that wait at a chain the slice controller answers first (R230, R235). -/
opaque claimPick : Nat → Nat

/-- Free value (log 14): the bits of the metadata fields that `tcomp` writes beyond those of the kept elements (R206, R207). -/
opaque metaPad : Nat → Nat → Bool

/-- Free value (log 16): the spare rows of a channel of a stack, and the 64 KiB page that a row lies in (R352). -/
opaque spareRows : Nat → Nat → Nat
opaque rowPage : Nat → Nat → Nat → Nat

/-- Free value (log 9): the ML-DSA-87 signature over a hash, by the package's identity key (R356). -/
opaque identitySign : List Byte → List Byte

/-- Free value (log 9): whether a signature over a hash checks against the Twimund root key (R355). -/
opaque rootVerify : List Byte → List Byte → Bool

/-- The part number of the K9 (R1). -/
def partNumber : String := "TWS-PK9-0768"

/-- Free value (log 9): the bytes in which a report gives a part number and this package's serial number (R356). -/
opaque identityByte : String → Nat → Byte

/-- Free value (log 53): whether the fill of a line at a step makes a cache drop the copy of another line, or a TLB the entry of a
place (R322, R323, R326). The first argument is the cache: 0 the L1, 1 the instruction cache, 2 L2, 3 the TLB of a core, 4 that of
a cluster. -/
opaque cacheDrops : Nat → Nat → Nat → Nat → Bool

/-- Free value (log 53): which copy a full cache gives up for a line at a step (R2, R322, R325, R326). -/
opaque cacheVictim : Nat → Nat → Nat → Nat

/-- Free value (log 8): the bytes that the core writes at an offset of a save area whose layout R263 does not give, by the step. -/
opaque saveImage : Nat → Nat → List Byte

end Sys2Proof.Config
end

