-- ==== Sys2Proof/Syntax.lean ====
section
/-! DEFINITION. The instruction set as syntax: one constructor for each row of the opcode table. A row with operands
carries the operand fields of its word and EXT word; a row without operands carries none. What the word holds besides
(the stop bit and the guard) stands in `SlotWord`. The rows that are events of the package carry nothing: the data that an
event brings from outside is an `Input`, which the machine holds while the event happens. -/

namespace Sys2Proof

/-- The operand fields of an instruction word (R18), with the payload of the EXT word that stands before it (R26).
The immediates are read from the same bits (R24): imm6 is B and MD, imm11 is A, B and MD, imm16 is D, A, B and MD. -/
structure Fields where
  d : BitVec 5
  a : BitVec 5
  b : BitVec 5
  md : Bool
  ext : Option (BitVec 28)
  deriving DecidableEq, Repr, Inhabited

/-- How the data of an access arrived (R110, R340). -/
inductive DataStatus where
  | good
  | uncorrectable
  | failed
  deriving DecidableEq, Repr, Inhabited

/-- The settings of a queue (R67, R320): CMASK, LEGMAX, TIMEOUT in nanoseconds, NOTIFY and TROOT. -/
structure QueueCfg where
  cmask : BitVec 144
  legmax : BitVec 32
  timeoutNs : Nat
  notify : Option DWord
  troot : Nat
  deriving DecidableEq, Repr, Inhabited

/-- The operations of an atomic (R114). -/
inductive AmoOp where
  | add | and | or | xor | min | max | xchg | cas | fadd
  deriving DecidableEq, Repr, Inhabited

/-- A remote access that arrives at this package (R330): a read, a write or an atomic of a peer. -/
inductive RemoteAccess where
  | load (off len : Nat)
  | store (pieces : List (Nat × List Byte))
  | atomic (op : AmoOp) (md : Bool) (off : Nat) (b cmp : DWord)
  deriving DecidableEq, Repr, Inhabited

/-- A unit of the package that a lasting fault is recorded for (R354): engines of a core by their SLOTMAP bits, a port, or a
256-byte block of memory. -/
inductive FaultUnit where
  | engines (core : Nat) (bits : BitVec 9)
  | port (n : Nat)
  | block (n : Nat)
  deriving DecidableEq, Repr, Inhabited

/-- The settings of the checkpoint unit (R342). -/
structure CkptCfg where
  ckjob : BitVec 32
  ckbase : Nat
  cklen : Nat
  buddy : Nat
  resv : Nat
  undobase : Nat
  undolen : Nat
  deriving DecidableEq, Repr, Inhabited

/-- What the system controller's recovery of a job brings (R347 to R349): the job, the recovery point, the pages that
the buddy returns when it is UP, the spare's reserve when the failed node was this chip's buddy, and whether this chip is the
spare that takes the failed node's number, with the image of the shard as `pages`. -/
structure Recovery where
  jobtag : BitVec 32
  point : Nat
  pages : SMap (List (Nat × Byte))
  newReserve : Option Nat
  spare : Bool := false
  deriving DecidableEq, Repr, Inhabited

/-- A firmware image (R355). -/
structure Firmware where
  bytes : List Byte
  signature : List Byte
  version : Nat
  deriving DecidableEq, Repr, Inhabited

/-- The instructions and events of the K9. -/
inductive Instr where
  /-- R97. Writes the 64-bit sum of two scalars. -/
  | add (f : Fields)
  /-- R97. Writes the 64-bit difference of two scalars. -/
  | sub (f : Fields)
  /-- R97. Writes the low 64 bits of the product, at distance 3. -/
  | mul (f : Fields)
  /-- R97. Writes the high 64 bits of the signed or unsigned 128-bit product. -/
  | mulh (f : Fields)
  /-- R98. Writes the truncated signed or unsigned quotient, or raises DIV0. -/
  | div (f : Fields)
  /-- R98. Writes the signed or unsigned remainder, or raises DIV0. -/
  | rem (f : Fields)
  /-- R97. Writes the bitwise AND of two scalars. -/
  | andS (f : Fields)
  /-- R97. Writes the bitwise OR of two scalars. -/
  | orS (f : Fields)
  /-- R97. Writes the bitwise XOR of two scalars. -/
  | xorS (f : Fields)
  /-- R97. Writes A AND NOT B. -/
  | andn (f : Fields)
  /-- R97. Shifts A left by B[5:0]. -/
  | shl (f : Fields)
  /-- R97. Shifts A right by B[5:0] with zero fill. -/
  | shr (f : Fields)
  /-- R97. Shifts A right by B[5:0] with sign fill. -/
  | sar (f : Fields)
  /-- R97. Writes the signed or unsigned lesser of two scalars. -/
  | minS (f : Fields)
  /-- R97. Writes the signed or unsigned greater of two scalars. -/
  | maxS (f : Fields)
  /-- R97. Writes the number of leading zero bits of A. -/
  | clz (f : Fields)
  /-- R97. Writes the number of trailing zero bits of A. -/
  | ctz (f : Fields)
  /-- R97. Writes the number of one bits of A. -/
  | popc (f : Fields)
  /-- R97. Sign-extends A from bit B[5:0]. -/
  | sext (f : Fields)
  /-- R97. Clears the bits of A above bit B[5:0]. -/
  | zext (f : Fields)
  /-- R97. Writes D + A × B, reading D as a source. -/
  | madd (f : Fields)
  /-- R97. Selects bits of A or B by the mask in D. -/
  | sel (f : Fields)
  /-- R97. Copies a scalar. -/
  | mov (f : Fields)
  /-- R99. Sets a predicate to A = B. -/
  | cmpEq (f : Fields)
  /-- R99. Sets a predicate to A ≠ B. -/
  | cmpNe (f : Fields)
  /-- R99. Sets a predicate to signed or unsigned A < B. -/
  | cmpLt (f : Fields)
  /-- R99. Sets a predicate to signed or unsigned A ≤ B. -/
  | cmpLe (f : Fields)
  /-- R99. Sets a predicate to the AND of two predicates. -/
  | plogAnd (f : Fields)
  /-- R99. Sets a predicate to A AND NOT B of two predicates. -/
  | plogAndn (f : Fields)
  /-- R100. Loads a sign-extended immediate into a scalar. -/
  | li (f : Fields)
  /-- R100. Adds a signed immediate to a scalar. -/
  | addi (f : Fields)
  /-- R100. ANDs a scalar with an immediate. -/
  | andi (f : Fields)
  /-- R100. ORs a scalar with an immediate. -/
  | ori (f : Fields)
  /-- R100. XORs a scalar with an immediate. -/
  | xori (f : Fields)
  /-- R100. Shifts a scalar left by an immediate. -/
  | shli (f : Fields)
  /-- R100. Shifts a scalar right by an immediate with zero fill. -/
  | shri (f : Fields)
  /-- R100. Shifts a scalar right by an immediate with sign fill. -/
  | sari (f : Fields)
  /-- R100. Sets a predicate to A = immediate. -/
  | cmpiEq (f : Fields)
  /-- R100. Sets a predicate to signed A < immediate. -/
  | cmpiLt (f : Fields)
  /-- R101. Branches to the bundle address plus a word offset. -/
  | br (f : Fields)
  /-- R101. Branches to the address in a scalar. -/
  | brr (f : Fields)
  /-- R101. Branches by offset and writes the next bundle address to s31. -/
  | call (f : Fields)
  /-- R101. Branches to a scalar address and writes the link to sD. -/
  | callr (f : Fields)
  /-- R101. Returns to the address in a scalar, as brr. -/
  | ret (f : Fields)
  /-- R104. Starts a plain hardware loop on a loop counter. -/
  | loop (f : Fields)
  /-- R104. Starts a software-pipelined hardware loop driving q1 to qS. -/
  | loopp (f : Fields)
  /-- R106. Ends a loop and every loop started after it. -/
  | lexit (f : Fields)
  /-- R117. Stalls until a counter's COUNT is at most A + v. -/
  | waitCnt (f : Fields)
  /-- R122. Raises CMPTRAP if two scalars differ. -/
  | cmptrap (f : Fields)
  /-- R122. Raises CMPTRAP if two vector registers differ in any lane. -/
  | cmptrapV (f : Fields)
  /-- R269. Raises TRAP with TADDR set to the immediate. -/
  | trap (f : Fields)
  /-- R269. Raises SYS with TADDR set to the immediate. -/
  | sys (f : Fields)
  /-- R123. Reads a control register into a scalar. -/
  | mfc (f : Fields)
  /-- R123. Writes a scalar to a control register that has no behaviour of its own. -/
  | mtc (f : Fields)
  /-- R125. Writes STATUS: EVTEN only in user privilege, all but DEGRED in system privilege. -/
  | mtcStatus (f : Fields)
  /-- R126. Replaces FFLAGS, ordered with the flags raised by other slots of the bundle. -/
  | mtcFflags (f : Fields)
  /-- R161. Selects the active element mask from the next bundle. -/
  | mtcEmask (f : Fields)
  /-- R311. Sets RNGKEY, resets QPOS and discards the prefetched random vectors. -/
  | mtcRngkey (f : Fields)
  /-- R93. Writes TBUDGET, clamped to 0 to 0xFFFF_FFFF. -/
  | mtcTbudget (f : Fields)
  /-- R209. Writes both XCNT counts; entries retiring later add to the written value. -/
  | mtcXcnt (f : Fields)
  /-- R44. Writes the live engine map, refusing a value that leaves a class empty. -/
  | mtcSlotmap (f : Fields)
  /-- R129. Requests an operating point for the core's domain and returns the settling time. -/
  | opsel (f : Fields)
  /-- R130. Reads the package reference time. -/
  | gtime (f : Fields)
  /-- R130. Reads the core's cycle counter. -/
  | ccyc (f : Fields)
  /-- R119. Arms a user event on a counter with a threshold. -/
  | evt (f : Fields)
  /-- R119. Disarms the event of a counter. -/
  | evtOff (f : Fields)
  /-- R87. Queues a launch record as the grid's tail launch. -/
  | tlaunch (f : Fields)
  /-- R83. Arrives at a barrier of a domain level and blocks until it releases. -/
  | bar (f : Fields)
  /-- R85. Starts a compute or communication domain phase and returns the phase count. -/
  | phase (f : Fields)
  /-- R86. Ends a buffer phase: issues held stores, commits deltas, snapshots and starts the input copy. -/
  | bswap (f : Fields)
  /-- R89. Reads a shape record into lc0–lc3 and p1–p7. -/
  | shapeLd (f : Fields)
  /-- R90. Inserts an entry into the request heap. -/
  | heapPush (f : Fields)
  /-- R15. Removes the heap head if its cost fits TBUDGET, or returns all ones. -/
  | heapPop (f : Fields)
  /-- R91. Returns the heap head's key without removing it. -/
  | heapPeek (f : Fields)
  /-- R91. Returns the heap head's deadline without removing it. -/
  | heapPeekDl (f : Fields)
  /-- R14. Adds a signed amount to TBUDGET with clamping and returns the new value. -/
  | budget (f : Fields)
  /-- R257. Writes an edge table entry of the issuing core. -/
  | erSet (f : Fields)
  /-- R253. Reads an edge table entry of the issuing core. -/
  | erGet (f : Fields)
  /-- R254. Reads the gang member status of the issuing context. -/
  | erGetS (f : Fields)
  /-- R256. Fires the member, then lets the edge unit pass its edges a given number of times. -/
  | erIdle (f : Fields)
  /-- R108. Loads a sign-extended byte, landing at its landing distance. -/
  | ldI8 (f : Fields)
  /-- R108. Loads a zero-extended byte. -/
  | ldN8 (f : Fields)
  /-- R108. Loads a sign-extended halfword. -/
  | ldI16 (f : Fields)
  /-- R108. Loads a zero-extended halfword. -/
  | ldN16 (f : Fields)
  /-- R108. Loads a sign-extended word. -/
  | ldI32 (f : Fields)
  /-- R108. Loads a zero-extended word. -/
  | ldN32 (f : Fields)
  /-- R108. Loads a doubleword. -/
  | ldI64 (f : Fields)
  /-- R112. Stores the low byte of a scalar. -/
  | st8 (f : Fields)
  /-- R112. Stores the low halfword of a scalar. -/
  | st16 (f : Fields)
  /-- R112. Stores the low word of a scalar. -/
  | st32 (f : Fields)
  /-- R112. Stores a scalar doubleword. -/
  | st64 (f : Fields)
  /-- R111. Loads a vector register's active lanes from memory. -/
  | ldV (f : Fields)
  /-- R111. Stores the active lanes of a vector to memory. -/
  | stV (f : Fields)
  /-- R113. Prefetches a line into L1 or its home L2 slice, never trapping. -/
  | pref (f : Fields)
  /-- R193. Copies one tile from memory into the tail slot of a stream's ring. -/
  | tld (f : Fields)
  /-- R194. Writes the oldest unclaimed tile of a stream to memory. -/
  | tst (f : Fields)
  /-- R195. Gathers tiles into a ring from rows indexed by vector lanes. -/
  | gld (f : Fields)
  /-- R196. Scatters the oldest unclaimed tiles to rows indexed by vector lanes. -/
  | gst (f : Fields)
  /-- R185. Loads a stream register from a descriptor in memory. -/
  | stset (f : Fields)
  /-- R187. Reads a stream's counts and ring indices. -/
  | stget (f : Fields)
  /-- R188. Makes tiles written by the program resident at the ring tail. -/
  | radv (f : Fields)
  /-- R188. Discards the oldest unclaimed tiles at the ring head. -/
  | radvH (f : Fields)
  /-- R199. Pushes a scalar token entry to a local pipe. -/
  | padv (f : Fields)
  /-- R199. Pops the head entry of a local pipe and writes lane 0 to a scalar. -/
  | pwait (f : Fields)
  /-- R115. Atomically adds at the home and returns the old value. -/
  | amoAdd (f : Fields)
  /-- R115. Atomically ANDs at the home. -/
  | amoAnd (f : Fields)
  /-- R115. Atomically ORs at the home. -/
  | amoOr (f : Fields)
  /-- R115. Atomically XORs at the home. -/
  | amoXor (f : Fields)
  /-- R115. Atomically takes the signed minimum at the home. -/
  | amoMin (f : Fields)
  /-- R115. Atomically takes the signed maximum at the home. -/
  | amoMax (f : Fields)
  /-- R115. Atomically exchanges at the home. -/
  | amoXchg (f : Fields)
  /-- R115. Atomically compares with D and swaps at the home. -/
  | amoCas (f : Fields)
  /-- R115. Atomically adds f32 or bf16x2 values at the home. -/
  | amoFadd (f : Fields)
  /-- R334. Maps a stash window of global memory into the scratchpad aperture. -/
  | stashMap (f : Fields)
  /-- R336. Recalls every filled line of a window and frees it. -/
  | stashUnmap (f : Fields)
  /-- R336. Recalls every filled line of a window, keeping it mapped. -/
  | stashFlush (f : Fields)
  /-- R234. Opens a slice chain from its descriptor. -/
  | slcOpen (f : Fields)
  /-- R235. Ends the current claim and claims the lowest claimable slice of a chain. -/
  | slcClaim (f : Fields)
  /-- R235. Returns the slice whose coarse task the issuing grid is. -/
  | slcClaimC (f : Fields)
  /-- R236. Reports a slice's start written, performing the settling step. -/
  | slcStart (f : Fields)
  /-- R236. Reports a jump partial of a slice, combined by maximum. -/
  | slcJump (f : Fields)
  /-- R238. Applies accept, reject and stop verdicts to a TOKEN chain. -/
  | slcAccept (f : Fields)
  /-- R240. Delivers a deferred fault or waits for the next walk end or completion. -/
  | slcWait (f : Fields)
  /-- R241. Reads the state of a slice. -/
  | slcStat (f : Fields)
  /-- R241. Reads the state of a chain. -/
  | slcStatC (f : Fields)
  /-- R242. Makes a settled slice RETIRED. -/
  | slcRetire (f : Fields)
  /-- R242. Passes a retired slice's context to slice n + W. -/
  | slcRecycle (f : Fields)
  /-- R243. Reads a word of a slice's deferred-fault record. -/
  | slcFault (f : Fields)
  /-- R243. Reads and drops a slice's deferred-fault record. -/
  | slcFaultClr (f : Fields)
  /-- R239. Registers a provisional page under a slice of a TOKEN chain. -/
  | slcPage (f : Fields)
  /-- R244. Closes a chain and frees its contexts. -/
  | slcClose (f : Fields)
  /-- R344. Opens checkpoint step n and returns LAST. -/
  | ckptBegin (f : Fields)
  /-- R344. Snapshots and copies every shard page to the buddy image. -/
  | ckptSeal (f : Fields)
  /-- R344. Snapshots and copies only dirty shard pages to the buddy image. -/
  | ckptDiff (f : Fields)
  /-- R164. Adds vector lanes with one rounding. -/
  | vadd (f : Fields)
  /-- R164. Subtracts vector lanes. -/
  | vsub (f : Fields)
  /-- R164. Multiplies vector lanes. -/
  | vmul (f : Fields)
  /-- R164. Computes D + A × B with one rounding. -/
  | vfma (f : Fields)
  /-- R164. Computes D − A × B with one rounding. -/
  | vfms (f : Fields)
  /-- R165. Takes the lesser lane value with NaN-avoiding rules. -/
  | vmin (f : Fields)
  /-- R165. Takes the greater lane value with NaN-avoiding rules. -/
  | vmax (f : Fields)
  /-- R165. Clears the sign of each lane value. -/
  | vabs (f : Fields)
  /-- R165. Inverts the sign of each lane value. -/
  | vneg (f : Fields)
  /-- R166. Sets mask bits where lanes are equal. -/
  | vcmpEq (f : Fields)
  /-- R166. Sets mask bits where A < B. -/
  | vcmpLt (f : Fields)
  /-- R166. Sets mask bits where A ≤ B. -/
  | vcmpLe (f : Fields)
  /-- R166. Sets mask bits where A or B is NaN. -/
  | vcmpUn (f : Fields)
  /-- R167. Adds 32-bit integer lanes. -/
  | vaddI32 (f : Fields)
  /-- R167. Subtracts 32-bit integer lanes. -/
  | vsubI32 (f : Fields)
  /-- R167. Multiplies 32-bit integer lanes, low bits. -/
  | vmulI32 (f : Fields)
  /-- R167. Takes the signed or unsigned lesser integer lane. -/
  | vminI32 (f : Fields)
  /-- R167. Takes the signed or unsigned greater integer lane. -/
  | vmaxI32 (f : Fields)
  /-- R167. Bitwise AND of lanes. -/
  | vand (f : Fields)
  /-- R167. Bitwise OR of lanes. -/
  | vor (f : Fields)
  /-- R167. Bitwise XOR of lanes. -/
  | vxor (f : Fields)
  /-- R167. Shifts lanes left by B[4:0]. -/
  | vshl (f : Fields)
  /-- R167. Shifts lanes right with zero or sign fill. -/
  | vshr (f : Fields)
  /-- R167. Sets mask bits where integer lanes are equal. -/
  | vcmpiEq (f : Fields)
  /-- R167. Sets mask bits where integer A < B, signed or unsigned. -/
  | vcmpiLt (f : Fields)
  /-- R167. Selects bits of A or B by the bits of D. -/
  | vsel (f : Fields)
  /-- R168. Copies a vector's active lanes. -/
  | vmov (f : Fields)
  /-- R168. Copies a scalar into every active lane. -/
  | vsplat (f : Fields)
  /-- R168. Extracts one lane into a scalar. -/
  | vext (f : Fields)
  /-- R168. Inserts a scalar into one lane. -/
  | vins (f : Fields)
  /-- R169. Rotates lanes along each row. -/
  | vrotR (f : Fields)
  /-- R169. Rotates lanes along each column. -/
  | vrotC (f : Fields)
  /-- R170. Broadcasts one column across each row. -/
  | vbcR (f : Fields)
  /-- R170. Broadcasts one row across each column. -/
  | vbcC (f : Fields)
  /-- R172. Sums the active lanes of each row with one rounding. -/
  | vsumR (f : Fields)
  /-- R172. Takes the greatest active lane of each row. -/
  | vmaxR (f : Fields)
  /-- R172. Takes the least active lane of each row. -/
  | vminR (f : Fields)
  /-- R172. Sums the active lanes of each column. -/
  | vsumC (f : Fields)
  /-- R172. Takes the greatest active lane of each column. -/
  | vmaxC (f : Fields)
  /-- R172. Takes the least active lane of each column. -/
  | vminC (f : Fields)
  /-- R171. Permutes lanes by indices in another vector. -/
  | vperm (f : Fields)
  /-- R171. Transposes each 16 × 16 block. -/
  | vtrn (f : Fields)
  /-- R173. Converts lanes between formats by kind and part. -/
  | vcvt (f : Fields)
  /-- R175. Quantises all lanes to a B4 or MX block format. -/
  | vquant (f : Fields)
  /-- R176. Dequantises a block-format register to f32. -/
  | vdeq (f : Fields)
  /-- R132. Splits 2,048 f32 values into three BF16 terms. -/
  | vsplit3 (f : Fields)
  /-- R174. Rounds f32 lanes to the grid of a format, keeping f32. -/
  | vround (f : Fields)
  /-- R177. Applies the time-parallel correction and writes the jump partial. -/
  | vcorr (f : Fields)
  /-- R178. ANDs two mask registers. -/
  | mand (f : Fields)
  /-- R178. ORs two mask registers. -/
  | mor (f : Fields)
  /-- R178. XORs two mask registers. -/
  | mxor (f : Fields)
  /-- R178. Inverts a mask register. -/
  | mnot (f : Fields)
  /-- R178. Counts the set bits of a mask. -/
  | mcnt (f : Fields)
  /-- R178. Writes the index of the lowest set mask bit to a scalar. -/
  | mfirst (f : Fields)
  /-- R178. Writes the mask of positions below the lowest set bit. -/
  | mfirstM (f : Fields)
  /-- R178. Sets the mask bits in a range. -/
  | mset (f : Fields)
  /-- R178. Makes a mask register the active element mask. -/
  | mact (f : Fields)
  /-- R179. Computes 2^A, correctly rounded. -/
  | vexp2 (f : Fields)
  /-- R179. Computes log2(A), correctly rounded. -/
  | vlog2 (f : Fields)
  /-- R179. Computes 1/A, correctly rounded. -/
  | vrcp (f : Fields)
  /-- R179. Computes 1/√A, correctly rounded. -/
  | vrsq (f : Fields)
  /-- R179. Computes √A, correctly rounded. -/
  | vsqrt (f : Fields)
  /-- R179. Computes tanh(A), correctly rounded. -/
  | vtanh (f : Fields)
  /-- R179. Computes the logistic function, correctly rounded. -/
  | vsig (f : Fields)
  /-- R131. Writes cos and sin of 2π·a to two registers. -/
  | vsincos (f : Fields)
  /-- R300. Merges a vector of logits into candidate rows under a control word. -/
  | cfMerge (f : Fields)
  /-- R301. Sets the control word of the candidate drain path. -/
  | cfMergeP (f : Fields)
  /-- R302. Sets a row's target normaliser MT and ST. -/
  | cfNorm (f : Fields)
  /-- R302. Sets a row's draft normaliser MDR and SDR. -/
  | cfNormD (f : Fields)
  /-- R285. Sets a label token of a candidate row. -/
  | cfLabel (f : Fields)
  /-- R291. Reads values, ids or statistics of 16 candidate rows into a vector. -/
  | cfRead (f : Fields)
  /-- R290. Merges spilled shard images into rows by a fixed binary tree. -/
  | cfXmerge (f : Fields)
  /-- R303. Filters a row to top k and top p and samples by exponential race. -/
  | cfTopp (f : Fields)
  /-- R304. Places a sampled result in a row. -/
  | cfToppSet (f : Fields)
  /-- R292. Arms a race mode on a row and resets its race state. -/
  | cfRace (f : Fields)
  /-- R296. Enables the grammar mask with a base and row stride. -/
  | cfMask (f : Fields)
  /-- R289. Writes candidate rows as 1,024-byte images to memory. -/
  | cfSpill (f : Fields)
  /-- R311. Sets RNGKEY, resets QPOS and discards prefetched random vectors. -/
  | rngKey (f : Fields)
  /-- R312. Returns QPOS and sets it for the next bundle. -/
  | rngPos (f : Fields)
  /-- R312. Returns QPOS without changing it. -/
  | rngPosR (f : Fields)
  /-- R247. Clears the extrapolation history and sets depth, method, tol and tau. -/
  | xaInit (f : Fields)
  /-- R247. Appends a vector as the newest iterate. -/
  | xaPush (f : Fields)
  /-- R248. Computes the extrapolated estimate and sets the lane flags. -/
  | xaEst (f : Fields)
  /-- R247. Writes a lane flag of the extrapolation state to a mask. -/
  | xaStat (f : Fields)
  /-- R202. Queues a tile product adding A·Bᵀ into an accumulator. -/
  | tmma (f : Fields)
  /-- R204. Queues a tile product using the latched cell pattern. -/
  | tmmaCell (f : Fields)
  /-- R205. Queues a 2:4 sparse tile product. -/
  | tspmma (f : Fields)
  /-- R205. Queues a 4:8 sparse tile product. -/
  | tspmma48 (f : Fields)
  /-- R207. Compresses two dense tiles to 2:4 form with metadata. -/
  | tcomp (f : Fields)
  /-- R207. Compresses two dense tiles to 4:8 form with metadata. -/
  | tcomp48 (f : Fields)
  /-- R208. Queues setting an accumulator to +0. -/
  | tzero (f : Fields)
  /-- R212. Drains an accumulator through the epilogue to registers, a ring or the candidate path. -/
  | tdrain (f : Fields)
  /-- R214. Adds an accumulator into FP32 rows of memory. -/
  | tdacc (f : Fields)
  /-- R214. Adds an accumulator into memory rows, saturating infinities. -/
  | tdaccClamp (f : Fields)
  /-- R213. Copies eight accumulator rows raw into a vector register. -/
  | tread (f : Fields)
  /-- R203. Sets the context's cell pattern. -/
  | tcellp (f : Fields)
  /-- R210. Loads the epilogue parameter block. -/
  | epiSet (f : Fields)
  /-- R217. Writes a matrix parameter register. -/
  | mpset (f : Fields)
  /-- R217. Adds to a matrix parameter register. -/
  | mpsetAdd (f : Fields)
  /-- R218. Queues a routine from the routine store. -/
  | tcall (f : Fields)
  /-- R219. Runs the next n routine words a parameter-given number of times. -/
  | tloop (f : Fields)
  /-- R298. Queues a single-model statistics or regeneration projection pass. -/
  | tvproj (f : Fields)
  /-- R299. Queues a single-model race pass. -/
  | tvprojR (f : Fields)
  /-- R287. Queues a paired target and draft statistics pass. -/
  | tvprojPair (f : Fields)
  /-- R288. Queues a paired race pass. -/
  | tvprojPairR (f : Fields)
  /-- R215. Copies words from memory into the core's routine store. -/
  | rstLoad (f : Fields)
  /-- R127. An mtc to FMODE is refused with ILLEGAL_OPERAND when it sets a reserved bit or a reserved RM value; otherwise it writes the trap enables, E4NAN, SEMPTY and the rounding mode. -/
  | mtcFmode (f : Fields)
  /-- R286. An mtc to RNGSRC is refused with ILLEGAL_OPERAND when it sets a reserved bit or a LOGW above 24; otherwise it selects the replay buffer or the keyed generator. -/
  | mtcRngsrc (f : Fields)
  /-- R97. Does nothing; uses no engine and counts towards no class limit. -/
  | nop
  /-- R81. Ends the context's leg and switches contexts. -/
  | yield
  /-- R80. Ends the task after its bundle commits. -/
  | exit
  /-- R268. Returns from the system handler, re-entering or resuming the trapped bundle. -/
  | rfe
  /-- R272. Returns from a user event handler to es0. -/
  | rfu
  /-- R255. Yields and fires the member, turning all its incident edges. -/
  | yieldEr
  /-- R284. Resets every candidate row, keeping labels and the grammar mask. -/
  | cfClear
  /-- R284. Resets every row, forgets labels and disables the grammar mask. -/
  | cfClearAll
  /-- R296. Disables the grammar mask. -/
  | cfMaskOff
  /-- R219. Ends a routine and retires its tcall entry. -/
  | tret
  /-- R220. Marks a point at which a routine may be pre-empted. -/
  | tstep
  /-- R339. A host or peer RMA write arrives and performs at its home. -/
  | hostRmaWrite
  /-- R339. A host RMA read arrives and reads at its home. -/
  | hostRmaRead
  /-- R70. A slot's TIMEOUT expires; the record is discarded with status TIMEOUT. -/
  | recordTimeout
  /-- R72. The dispatcher refills the on-chip ring from the window, re-checking each record. -/
  | onChipRingRefill
  /-- R67. The management interface enables a queue, resetting it. -/
  | queueEnable
  /-- R67. The management interface disables a queue, discarding unplaced work. -/
  | queueDisable
  /-- R67. The management interface changes a queue's QSIZE, resetting it. -/
  | queueSetQsize
  /-- R67. The management interface sets CMASK, LEGMAX, TIMEOUT, NOTIFY or TROOT of a queue. -/
  | queueSettings
  /-- R74. The dispatcher serves the next queue in round-robin order and takes its head entry. -/
  | dispatchHead
  /-- R75. A resource freed on a core of the mask makes a waiting head search again. -/
  | placementRetry
  /-- R80. An ended task's counters reach 0 and its context and resources are freed. -/
  | contextFree
  /-- R83. A barrier generation releases every arrived task and opens a new generation. -/
  | barrierRelease
  /-- R83. Barrier arrivals of a JOBTAG group arrive from another chip over the fabric. -/
  | barD5Exchange
  /-- R82. A unit answers a blocked bundle's requests and the bundle issues whole. -/
  | dispatchAnswer
  /-- R79. A blocked context's condition clears; an idle core starts issuing from it. -/
  | contextReady
  /-- R94. The leg count reaches LIMIT and raises a request. -/
  | legLimitReached
  /-- R94. GRACE cycles pass with no pre-emption point and the action is taken at the next bundle boundary. -/
  | graceExpiry
  /-- R275. A suspended task resumes on its core with registers marked absent. -/
  | taskResumption
  /-- R275. Absent registers are fetched from the save area, freezing the clock domain. -/
  | registerMissMicrotrap
  /-- R277. EUSED reaches EQUOTA and the context is suspended at its next point. -/
  | energyQuotaExhausted
  /-- R277. The system controller grants a new quota and the context resumes with the overdraft carried. -/
  | quotaGrant
  /-- R109. Data for a landing slot arrives, ending any freeze at its landing bundle. -/
  | loadDataArrival
  /-- R267. A DATA_UNCORR, REMOTE_FAIL or routine error is raised before the next bundle issues. -/
  | deferredTrap
  /-- R270. A pending user event is delivered to EVTVEC at a bundle boundary. -/
  | userEventDelivery
  /-- R112. A store performs at its home and leaves its counter. -/
  | storePerform
  /-- R115. An atomic performs as one step at its home L2 slice. -/
  | atomicPerform
  /-- R328. A local access reaches its home slice and takes its logical time. -/
  | homeAccess
  /-- R335. A first touch of a window line fetches it from its home with ownership. -/
  | stashFill
  /-- R325. An L2 slice evicts a line, writing it back and raising MEMT. -/
  | l2Eviction
  /-- R327. The core's logical time T rises by 1 every 128 running cycles. -/
  | logicalTimeTick
  /-- R330. A remote load, store or atomic arrives at the fabric interface and is stamped and performed. -/
  | remoteAccessArrival
  /-- R121. A remote store or atomic's answer arrives and it leaves CNTRM. -/
  | remoteCompletion
  /-- R201. The matrix engine starts executing the next queue entry. -/
  | matrixEntryExecute
  /-- R201. A matrix queue entry retires, popping tiles and adding XCNT counts. -/
  | matrixEntryRetire
  /-- R193. A tile load or gather finishes writing its slot and retires. -/
  | tileLoadComplete
  /-- R194. A tile store or scatter write performs and its tile is freed. -/
  | tileStorePerform
  /-- R86. The copy engine finishes a bswap input copy and it leaves CNTAS. -/
  | bswapCopyComplete
  /-- R279. Uncorrectable data cancels a buffer phase, restoring the snapshot and refetching input. -/
  | phaseCancel
  /-- R129. The settling time expires; CUR takes the target and SETTLE clears. -/
  | opselSettleEnd
  /-- R310. The core's generator adds one random vector to a context's queue. -/
  | rngQueueFill
  /-- R224. A NORM chain's walk begins over the live slices. -/
  | walkStart
  /-- R256. The edge unit passes an idle member's edges when they all return to it. -/
  | edgeIdlePass
  /-- R341. A remote operation exceeds FTIMEOUT; the node is marked FAILED and its operations fail. -/
  | fabricTimeout
  /-- R341. The management interface sets the fabric timeout. -/
  | ftimeoutSet
  /-- R349. The system controller recovers a job after a node fails. -/
  | nodeRecovery
  /-- R342. The management interface sets CKJOB, shard, buddy and undo area. -/
  | checkpointSettings
  /-- R342. A reserve is assigned, setting LAST 0 and all dirty bits. -/
  | reserveAssign
  /-- R345. A shard page is copied and its held writes are performed. -/
  | ckptPageCopied
  /-- R344. The buddy acknowledges every copy and LAST becomes n. -/
  | ckptCopyComplete
  /-- R344. A checkpoint copy fails; CNTRM.LOSS is set and dirty bits become all ones. -/
  | ckptCopyFail
  /-- R322. The management interface requests a TLB invalidation of a queue's range. -/
  | tlbInvalidate
  /-- R322. Every TLB has dropped the entries and their accesses have performed. -/
  | tlbInvalidateComplete
  /-- R350. The management interface sets the package power limit. -/
  | plimitSet
  /-- R350. The power manager clears PWRMASK bits on the cores that draw most. -/
  | powerOverBound
  /-- R350. The power manager lowers OPPT.CAP of cores over a longer period. -/
  | capLower
  /-- R350. The power manager raises CAP and restores PWRMASK bits as load falls. -/
  | capRaise
  /-- R351. A die passes its thermal threshold; CAP drops to OP5 and notices are sent. -/
  | thermalThreshold
  /-- R351. A slow-down notice arrives and replaces the job's earlier notice. -/
  | slowdownNotice
  /-- R351. 500 µs pass with no phase and the notice is applied. -/
  | slowdownTimer
  /-- R351. A notice lapses at its UNTIL time. -/
  | slowdownLapse
  /-- R352. A row passes its correction threshold and its pseudo-channel is quiesced for repair. -/
  | hbmSoftRepair
  /-- R352. The 200 µs quiesce ends and the channel resumes. -/
  | softRepairEnd
  /-- R354. A flit fails its link check and is retried; a second failure takes the port down. -/
  | flitCheckFailure
  /-- R353. A block fails its check value and is retried once, else marked uncorrectable. -/
  | blockCheckFailure
  /-- R44. Reset loads SLOTMAP, removes lasting faults, fuses repairs and clears state. -/
  | packageReset
  /-- R355. Installing a higher-version image raises the fused minimum. -/
  | firmwareInstall
  /-- R356. A host nonce is answered with a signed attestation report. -/
  | attestationRequest
  /-- R33. A fetched word of a reserved class or an unlisted opcode raises ILLEGAL_CLASS or ILLEGAL_OP when its bundle is decoded. -/
  | unlistedOpcode
  deriving DecidableEq, Repr

/-- A slot of a bundle as its words give it (R18): the stop bit, the guard and the instruction. -/
structure SlotWord where
  /-- S: the last word of a bundle. -/
  stop : Bool
  /-- N: the guard is inverted. -/
  neg : Bool
  /-- BK: the guard is a q predicate. -/
  bank : Bool
  /-- GN: the guard's number. -/
  gn : BitVec 3
  instr : Instr
  deriving DecidableEq, Repr

/-- What an event brings: the parts of the package it concerns and the data from outside. -/
inductive Input where
  | none
  /-- `node` is the sender, where a peer and not the host sends. -/
  | hostRmaWrite (node : Option Nat) (off : Nat) (data : List Byte)
  | hostRmaRead (off len : Nat)
  | recordTimeout (q : Nat)
  | onChipRingRefill (q : Nat)
  | queueEnable (q : Nat)
  | queueDisable (q : Nat)
  | queueSetQsize (q n : Nat)
  | queueSettings (q : Nat) (cfg : QueueCfg)
  | placementRetry (q : Nat)
  | contextFree (core ctx : Nat)
  | barrierRelease (grid level dom n : Nat)
  | barD5Exchange (node jobtag n : Nat)
  | dispatchAnswer (core ctx : Nat)
  | contextReady (core ctx : Nat)
  | legLimitReached (core : Nat)
  | graceExpiry (core : Nat)
  | taskResumption (core task : Nat)
  | registerMissMicrotrap (core ctx : Nat)
  | energyQuotaExhausted (core ctx : Nat)
  | quotaGrant (core task : Nat) (quota : DWord)
  /-- Data marked uncorrectable are the bytes before the first one marked. -/
  | loadDataArrival (core ctx : Nat) (addr : Nat) (data : List Byte) (st : DataStatus)
  | deferredTrap (core ctx : Nat)
  | userEventDelivery (core ctx : Nat)
  | storePerform (core : Nat)
  | atomicPerform (core : Nat)
  | homeAccess (core : Nat)
  | stashFill (core ctx : Nat) (off : Nat)
  | l2Eviction (line : Nat)
  | logicalTimeTick (core : Nat)
  | remoteAccessArrival (node : Nat) (acc : RemoteAccess)
  /-- The next line of an access of several lines that has arrived (R313). -/
  | remoteAccessLine (id : Nat)
  | remoteCompletion (id : Nat) (old : DWord)
  | matrixEntryExecute (core : Nat)
  | matrixEntryRetire (core : Nat)
  | tileLoadComplete (core id : Nat) (bad : List Nat)
  | tileStorePerform (core id : Nat)
  | bswapCopyComplete (core id : Nat)
  | phaseCancel (core ctx : Nat)
  | opselSettleEnd (core : Nat)
  | rngQueueFill (core ctx : Nat)
  | walkStart (chain : Nat)
  | edgeIdlePass (core ctx : Nat)
  | fabricTimeout (node : Nat)
  | ftimeoutSet (ns : Nat)
  | nodeRecovery (node : Nat) (plan : Recovery)
  | checkpointSettings (cfg : CkptCfg)
  | reserveAssign (buddy resv : Nat)
  | ckptPageCopied (page : Nat)
  | tlbInvalidate (q base len : Nat)
  | tlbInvalidateComplete (q base len : Nat)
  | plimitSet (watts : Nat)
  | powerOverBound (core : Nat) (clear : BitVec 9)
  | capLower (core : Nat) (cap : BitVec 3)
  | capRaise (core : Nat) (cap : BitVec 3) (restore : BitVec 9)
  | thermalThreshold (die : Nat) (point : BitVec 8) (until_ : DWord)
  | slowdownNotice (node : Nat) (jobtag : BitVec 32) (point : BitVec 8) (until_ : DWord)
  | slowdownTimer (jobtag : BitVec 32)
  | slowdownLapse (jobtag : BitVec 32)
  | hbmSoftRepair (stack channel row : Nat)
  | softRepairEnd (stack channel : Nat)
  | flitCheckFailure (port : Nat) (retryFails : Bool)
  /-- A block of local memory, or of the scratchpad of `core`; `source` is the unit that the transfer came from. -/
  | blockCheckFailure (core : Option Nat) (block : Nat) (source : FaultUnit) (retryFails : Bool)
  /-- The engines that the system software has reported, as dead SLOTMAP bits by core, and the node number of this package. -/
  | packageReset (dead : SMap (BitVec 9)) (node : Nat)
  | firmwareInstall (img : Firmware)
  | attestationRequest (nonce : List Byte)
  deriving DecidableEq, Repr, Inhabited

end Sys2Proof
end

