-- ==== Sys2Proof/Machine/OpTable.lean ====
section
/-! DEFINITION. The operation table (R34 to R38) with the operand kinds of every entry (R21, R22), its form (R24), its
visibility distance (R40) and its use of the modifier. The checks of a bundle, the encoder and the placing of results
all read this one table. -/

namespace Sys2Proof.Machine

/-- The kinds of an operand field (R21, R22, and the entries that narrow them). -/
inductive Kind where
  /-- The entry does not use the field: it must be 0 (R25). -/
  | none
  /-- Part of an immediate or a code: any value, checked by its own rule. -/
  | imm
  | scalar | pred
  /-- A vector source or destination by R22. -/
  | vec
  /-- v0 to v15 or 17 only. -/
  | vecReg
  /-- The first of `n` registers that must lie within v0 to v15. -/
  | vecSpan (n : Nat)
  | mask | stream
  /-- The first of `n` streams that must lie within st0 to st15. -/
  | streamSpan (n : Nat)
  | mpar | loopc | acc
  /-- An even accumulator; the next one belongs to it too. -/
  | accPair
  | ctl | counter | domain
  /-- A local pipe, 0 to 3. -/
  | pipe
  /-- A number from 0 to `n`. -/
  | upTo (n : Nat)
  /-- A number from 1 to 31 (R219). -/
  | count31
  /-- A format of `vround` (R174). -/
  | roundFmt
  deriving DecidableEq, Repr

/-- What an entry does with an operand field. -/
structure Operand where
  kind : Kind
  reads : Bool
  writes : Bool
  deriving DecidableEq, Repr

def opNone : Operand := ⟨.none, false, false⟩
def opImm : Operand := ⟨.imm, false, false⟩
def opRd (k : Kind) : Operand := ⟨k, true, false⟩
def opWr (k : Kind) : Operand := ⟨k, false, true⟩
def opRw (k : Kind) : Operand := ⟨k, true, true⟩

/-- The forms of bits [15:0] (R24). -/
inductive Form where
  | reg | ri | i11 | i16 | ld | la | ma
  deriving DecidableEq, Repr

/-- What MD may be: any value, 0 only, or 1 only (the second of two instructions of one opcode). -/
inductive MdRule where
  | free | zero | one
  deriving DecidableEq, Repr

/-- One row of the operation table. -/
structure OpInfo where
  cls : Nat
  op : Nat
  md : MdRule
  form : Form
  d : Operand
  a : Operand
  b : Operand
  lat : Nat
  rep : Bool
  deriving DecidableEq, Repr

/-- Kind and part of `vcvt` (R173). -/
def cvtKind (f : Fields) : Nat := f.b.toNat / 2
def cvtPart (f : Fields) : Nat := f.b.toNat % 2 * 2 + f.md.toNat

/-- The kinds of `vcvt` that read D (R173). -/
def cvtReadsD (k : Nat) : Bool := k = 4 || k = 5 || (8 ≤ k && k ≤ 12)

/-- The fields of a word without operands. -/
def noFields (md : Bool) : Fields := ⟨0, 0, 0, md, none⟩

/-- The fields of a slot and its row; events have none. `tld`, `tst`, `gld`, `gst`, `radv` and `radv.h` only read the stream of D for
R30, though they move its TAIL, HEAD or CNT (DESIGN CHOICE, log 58). -/
def entry : Instr → Option (Fields × OpInfo)
  | .nop => some (noFields false, ⟨0, 0x00, .zero, .reg, opNone, opNone, opNone, 0, false⟩)
  | .add f => some (f, ⟨0, 0x01, .zero, .reg, (opWr .scalar), (opRd .scalar), (opRd .scalar), 1, false⟩)
  | .sub f => some (f, ⟨0, 0x02, .zero, .reg, (opWr .scalar), (opRd .scalar), (opRd .scalar), 1, false⟩)
  | .mul f => some (f, ⟨0, 0x03, .zero, .reg, (opWr .scalar), (opRd .scalar), (opRd .scalar), 3, false⟩)
  | .mulh f => some (f, ⟨0, 0x04, .free, .reg, (opWr .scalar), (opRd .scalar), (opRd .scalar), 3, false⟩)
  | .div f => some (f, ⟨0, 0x05, .free, .reg, (opWr .scalar), (opRd .scalar), (opRd .scalar), 20, false⟩)
  | .rem f => some (f, ⟨0, 0x06, .free, .reg, (opWr .scalar), (opRd .scalar), (opRd .scalar), 20, false⟩)
  | .andS f => some (f, ⟨0, 0x07, .zero, .reg, (opWr .scalar), (opRd .scalar), (opRd .scalar), 1, false⟩)
  | .orS f => some (f, ⟨0, 0x08, .zero, .reg, (opWr .scalar), (opRd .scalar), (opRd .scalar), 1, false⟩)
  | .xorS f => some (f, ⟨0, 0x09, .zero, .reg, (opWr .scalar), (opRd .scalar), (opRd .scalar), 1, false⟩)
  | .andn f => some (f, ⟨0, 0x0A, .zero, .reg, (opWr .scalar), (opRd .scalar), (opRd .scalar), 1, false⟩)
  | .shl f => some (f, ⟨0, 0x0B, .zero, .reg, (opWr .scalar), (opRd .scalar), (opRd .scalar), 1, false⟩)
  | .shr f => some (f, ⟨0, 0x0C, .zero, .reg, (opWr .scalar), (opRd .scalar), (opRd .scalar), 1, false⟩)
  | .sar f => some (f, ⟨0, 0x0D, .zero, .reg, (opWr .scalar), (opRd .scalar), (opRd .scalar), 1, false⟩)
  | .minS f => some (f, ⟨0, 0x0E, .free, .reg, (opWr .scalar), (opRd .scalar), (opRd .scalar), 1, false⟩)
  | .maxS f => some (f, ⟨0, 0x0F, .free, .reg, (opWr .scalar), (opRd .scalar), (opRd .scalar), 1, false⟩)
  | .clz f => some (f, ⟨0, 0x10, .zero, .reg, (opWr .scalar), (opRd .scalar), opNone, 1, false⟩)
  | .ctz f => some (f, ⟨0, 0x11, .zero, .reg, (opWr .scalar), (opRd .scalar), opNone, 1, false⟩)
  | .popc f => some (f, ⟨0, 0x12, .zero, .reg, (opWr .scalar), (opRd .scalar), opNone, 1, false⟩)
  | .sext f => some (f, ⟨0, 0x13, .zero, .reg, (opWr .scalar), (opRd .scalar), (opRd .scalar), 1, false⟩)
  | .zext f => some (f, ⟨0, 0x14, .zero, .reg, (opWr .scalar), (opRd .scalar), (opRd .scalar), 1, false⟩)
  | .madd f => some (f, ⟨0, 0x15, .zero, .reg, (opRw .scalar), (opRd .scalar), (opRd .scalar), 3, false⟩)
  | .sel f => some (f, ⟨0, 0x16, .zero, .reg, (opRw .scalar), (opRd .scalar), (opRd .scalar), 1, false⟩)
  | .mov f => some (f, ⟨0, 0x17, .zero, .reg, (opWr .scalar), (opRd .scalar), opNone, 1, false⟩)
  | .cmpEq f => some (f, ⟨0, 0x18, .zero, .reg, (opWr .pred), (opRd .scalar), (opRd .scalar), 1, false⟩)
  | .cmpNe f => some (f, ⟨0, 0x19, .zero, .reg, (opWr .pred), (opRd .scalar), (opRd .scalar), 1, false⟩)
  | .cmpLt f => some (f, ⟨0, 0x1A, .free, .reg, (opWr .pred), (opRd .scalar), (opRd .scalar), 1, false⟩)
  | .cmpLe f => some (f, ⟨0, 0x1B, .free, .reg, (opWr .pred), (opRd .scalar), (opRd .scalar), 1, false⟩)
  | .plogAnd f => some (f, ⟨0, 0x1C, .zero, .reg, (opWr .pred), (opRd .pred), (opRd .pred), 1, false⟩)
  | .plogAndn f => some (f, ⟨0, 0x1C, .one, .reg, (opWr .pred), (opRd .pred), (opRd .pred), 1, false⟩)
  | .li f => some (f, ⟨0, 0x1D, .free, .i11, (opWr .scalar), opImm, opImm, 1, false⟩)
  | .addi f => some (f, ⟨0, 0x20, .free, .ri, (opWr .scalar), (opRd .scalar), opImm, 1, false⟩)
  | .andi f => some (f, ⟨0, 0x21, .free, .ri, (opWr .scalar), (opRd .scalar), opImm, 1, false⟩)
  | .ori f => some (f, ⟨0, 0x22, .free, .ri, (opWr .scalar), (opRd .scalar), opImm, 1, false⟩)
  | .xori f => some (f, ⟨0, 0x23, .free, .ri, (opWr .scalar), (opRd .scalar), opImm, 1, false⟩)
  | .shli f => some (f, ⟨0, 0x24, .free, .ri, (opWr .scalar), (opRd .scalar), opImm, 1, false⟩)
  | .shri f => some (f, ⟨0, 0x25, .free, .ri, (opWr .scalar), (opRd .scalar), opImm, 1, false⟩)
  | .sari f => some (f, ⟨0, 0x26, .free, .ri, (opWr .scalar), (opRd .scalar), opImm, 1, false⟩)
  | .cmpiEq f => some (f, ⟨0, 0x27, .free, .ri, (opWr .pred), (opRd .scalar), opImm, 1, false⟩)
  | .cmpiLt f => some (f, ⟨0, 0x28, .free, .ri, (opWr .pred), (opRd .scalar), opImm, 1, false⟩)
  | .br f => some (f, ⟨0, 0x40, .free, .i16, opImm, opImm, opImm, 0, false⟩)
  | .brr f => some (f, ⟨0, 0x41, .zero, .reg, opNone, (opRd .scalar), opNone, 0, false⟩)
  | .call f => some (f, ⟨0, 0x42, .free, .i16, opImm, opImm, opImm, 1, false⟩)
  | .callr f => some (f, ⟨0, 0x43, .zero, .reg, (opWr .scalar), (opRd .scalar), opNone, 1, false⟩)
  | .ret f => some (f, ⟨0, 0x44, .zero, .reg, opNone, (opRd .scalar), opNone, 0, false⟩)
  | .loop f => some (f, ⟨0, 0x45, .free, .ri, (opWr .loopc), (opRd .scalar), opImm, 1, false⟩)
  | .loopp f => some (f, ⟨0, 0x46, .free, .ri, (opWr .loopc), (opRd .scalar), opImm, 1, false⟩)
  | .lexit f => some (f, ⟨0, 0x47, .zero, .reg, (opWr .loopc), opNone, opNone, 1, false⟩)
  | .yield => some (noFields false, ⟨0, 0x48, .zero, .reg, opNone, opNone, opNone, 0, false⟩)
  | .exit => some (noFields false, ⟨0, 0x49, .zero, .reg, opNone, opNone, opNone, 0, false⟩)
  | .waitCnt f => some (f, ⟨0, 0x4A, .free, .ri, (opRd .counter), (opRd .scalar), opImm, 0, false⟩)
  | .cmptrap f => some (f, ⟨0, 0x4B, .zero, .reg, opNone, (opRd .scalar), (opRd .scalar), 0, false⟩)
  | .cmptrapV f => some (f, ⟨0, 0x4B, .one, .reg, opNone, (opRd .vecReg), (opRd .vecReg), 0, false⟩)
  | .trap f => some (f, ⟨0, 0x4C, .free, .i16, opImm, opImm, opImm, 0, false⟩)
  | .sys f => some (f, ⟨0, 0x4D, .free, .i16, opImm, opImm, opImm, 0, false⟩)
  | .rfe => some (noFields false, ⟨0, 0x4E, .zero, .reg, opNone, opNone, opNone, 0, false⟩)
  | .rfu => some (noFields false, ⟨0, 0x4F, .zero, .reg, opNone, opNone, opNone, 0, false⟩)
  | .mfc f => some (f, ⟨0, 0x50, .zero, .reg, (opWr .scalar), (opRd .ctl), opNone, 1, false⟩)
  | .mtc f => some (f, ⟨0, 0x51, .zero, .reg, (opWr .ctl), (opRd .scalar), opNone, 1, false⟩)
  | .mtcStatus f => some (f, ⟨0, 0x51, .zero, .reg, (opWr .ctl), (opRd .scalar), opNone, 1, false⟩)
  | .mtcFflags f => some (f, ⟨0, 0x51, .zero, .reg, (opWr .ctl), (opRd .scalar), opNone, 1, false⟩)
  | .mtcEmask f => some (f, ⟨0, 0x51, .zero, .reg, (opWr .ctl), (opRd .scalar), opNone, 1, false⟩)
  | .mtcRngkey f => some (f, ⟨0, 0x51, .zero, .reg, (opWr .ctl), (opRd .scalar), opNone, 1, false⟩)
  | .mtcTbudget f => some (f, ⟨0, 0x51, .zero, .reg, (opWr .ctl), (opRd .scalar), opNone, 1, false⟩)
  | .mtcXcnt f => some (f, ⟨0, 0x51, .zero, .reg, (opWr .ctl), (opRd .scalar), opNone, 1, false⟩)
  | .mtcSlotmap f => some (f, ⟨0, 0x51, .zero, .reg, (opWr .ctl), (opRd .scalar), opNone, 1, false⟩)
  | .opsel f => some (f, ⟨0, 0x52, .zero, .reg, (opWr .scalar), (opRd .scalar), opNone, 1, false⟩)
  | .gtime f => some (f, ⟨0, 0x53, .zero, .reg, (opWr .scalar), opNone, opNone, 1, false⟩)
  | .ccyc f => some (f, ⟨0, 0x54, .zero, .reg, (opWr .scalar), opNone, opNone, 1, false⟩)
  | .evt f => some (f, ⟨0, 0x55, .zero, .reg, (opRd .counter), (opRd .scalar), opNone, 0, false⟩)
  | .evtOff f => some (f, ⟨0, 0x55, .one, .reg, (opRd .counter), opNone, opNone, 0, false⟩)
  | .tlaunch f => some (f, ⟨0, 0x58, .zero, .reg, opNone, (opRd .scalar), opNone, 0, false⟩)
  | .bar f => some (f, ⟨0, 0x59, .zero, .reg, (opRd .domain), (opRd (.upTo 3)), opNone, 0, false⟩)
  | .phase f => some (f, ⟨0, 0x5A, .zero, .reg, (opWr .scalar), (opRd .scalar), opNone, 1, false⟩)
  | .bswap f => some (f, ⟨0, 0x5B, .zero, .reg, (opWr .scalar), (opRd .scalar), opNone, 1, false⟩)
  | .shapeLd f => some (f, ⟨0, 0x5C, .zero, .reg, opNone, (opRd .scalar), opNone, 1, false⟩)
  | .heapPush f => some (f, ⟨0, 0x5D, .zero, .reg, opNone, (opRd .scalar), (opRd .scalar), 0, false⟩)
  | .heapPop f => some (f, ⟨0, 0x5E, .zero, .reg, (opWr .scalar), opNone, opNone, 1, false⟩)
  | .heapPeek f => some (f, ⟨0, 0x5F, .zero, .reg, (opWr .scalar), opNone, opNone, 1, false⟩)
  | .heapPeekDl f => some (f, ⟨0, 0x5F, .one, .reg, (opWr .scalar), opNone, opNone, 1, false⟩)
  | .budget f => some (f, ⟨0, 0x60, .zero, .reg, (opWr .scalar), (opRd .scalar), opNone, 1, false⟩)
  | .erSet f => some (f, ⟨0, 0x64, .zero, .reg, opNone, (opRd .scalar), (opRd .scalar), 0, false⟩)
  | .erGet f => some (f, ⟨0, 0x65, .zero, .reg, (opWr .scalar), (opRd .scalar), opNone, 1, false⟩)
  | .erGetS f => some (f, ⟨0, 0x65, .one, .reg, (opWr .scalar), opNone, opNone, 1, false⟩)
  | .yieldEr => some (noFields false, ⟨0, 0x66, .zero, .reg, opNone, opNone, opNone, 0, false⟩)
  | .erIdle f => some (f, ⟨0, 0x67, .zero, .reg, opNone, (opRd .scalar), opNone, 0, false⟩)
  | .ldI8 f => some (f, ⟨3, 0x00, .free, .ld, (opWr .scalar), (opRd .scalar), opImm, 0, false⟩)
  | .ldN8 f => some (f, ⟨3, 0x01, .free, .ld, (opWr .scalar), (opRd .scalar), opImm, 0, false⟩)
  | .ldI16 f => some (f, ⟨3, 0x02, .free, .ld, (opWr .scalar), (opRd .scalar), opImm, 0, false⟩)
  | .ldN16 f => some (f, ⟨3, 0x03, .free, .ld, (opWr .scalar), (opRd .scalar), opImm, 0, false⟩)
  | .ldI32 f => some (f, ⟨3, 0x04, .free, .ld, (opWr .scalar), (opRd .scalar), opImm, 0, false⟩)
  | .ldN32 f => some (f, ⟨3, 0x05, .free, .ld, (opWr .scalar), (opRd .scalar), opImm, 0, false⟩)
  | .ldI64 f => some (f, ⟨3, 0x06, .free, .ld, (opWr .scalar), (opRd .scalar), opImm, 0, false⟩)
  | .st8 f => some (f, ⟨3, 0x08, .zero, .ma, opNone, (opRd .scalar), (opRd .scalar), 0, false⟩)
  | .st16 f => some (f, ⟨3, 0x09, .zero, .ma, opNone, (opRd .scalar), (opRd .scalar), 0, false⟩)
  | .st32 f => some (f, ⟨3, 0x0A, .zero, .ma, opNone, (opRd .scalar), (opRd .scalar), 0, false⟩)
  | .st64 f => some (f, ⟨3, 0x0B, .zero, .ma, opNone, (opRd .scalar), (opRd .scalar), 0, false⟩)
  | .ldV f => some (f, ⟨3, 0x0C, .zero, .ld, (opWr .vecReg), (opRd .scalar), opImm, 0, false⟩)
  | .stV f => some (f, ⟨3, 0x0D, .zero, .ma, opNone, (opRd .scalar), (opRd .vec), 0, false⟩)
  | .pref f => some (f, ⟨3, 0x0E, .free, .ma, opNone, (opRd .scalar), opNone, 0, false⟩)
  | .tld f => some (f, ⟨3, 0x10, .zero, .reg, (opRd .stream), (opRd .scalar), (opRd .scalar), 0, false⟩)
  | .tst f => some (f, ⟨3, 0x11, .zero, .reg, (opRd .stream), (opRd .scalar), (opRd .scalar), 0, false⟩)
  | .gld f => some (f, ⟨3, 0x12, .zero, .reg, (opRd .stream), (opRd .vecReg), (opRd .scalar), 0, false⟩)
  | .gst f => some (f, ⟨3, 0x13, .zero, .reg, (opRd .stream), (opRd .vecReg), (opRd .scalar), 0, false⟩)
  | .stset f => some (f, ⟨3, 0x14, .zero, .reg, (opWr .stream), (opRd .scalar), opNone, 8, false⟩)
  | .stget f => some (f, ⟨3, 0x15, .zero, .reg, (opWr .scalar), (opRd .stream), opNone, 1, false⟩)
  | .radv f => some (f, ⟨3, 0x16, .zero, .reg, (opRd .stream), (opRd .scalar), opNone, 0, false⟩)
  | .radvH f => some (f, ⟨3, 0x16, .one, .reg, (opRd .stream), (opRd .scalar), opNone, 0, false⟩)
  | .padv f => some (f, ⟨3, 0x17, .zero, .reg, (opWr .pipe), (opRd .scalar), opNone, 0, false⟩)
  | .pwait f => some (f, ⟨3, 0x18, .zero, .reg, (opWr .scalar), (opRd .pipe), opNone, 1, false⟩)
  | .amoAdd f => some (f, ⟨3, 0x20, .free, .la, (opWr .scalar), (opRd .scalar), (opRd .scalar), 0, false⟩)
  | .amoAnd f => some (f, ⟨3, 0x21, .free, .la, (opWr .scalar), (opRd .scalar), (opRd .scalar), 0, false⟩)
  | .amoOr f => some (f, ⟨3, 0x22, .free, .la, (opWr .scalar), (opRd .scalar), (opRd .scalar), 0, false⟩)
  | .amoXor f => some (f, ⟨3, 0x23, .free, .la, (opWr .scalar), (opRd .scalar), (opRd .scalar), 0, false⟩)
  | .amoMin f => some (f, ⟨3, 0x24, .free, .la, (opWr .scalar), (opRd .scalar), (opRd .scalar), 0, false⟩)
  | .amoMax f => some (f, ⟨3, 0x25, .free, .la, (opWr .scalar), (opRd .scalar), (opRd .scalar), 0, false⟩)
  | .amoXchg f => some (f, ⟨3, 0x26, .free, .la, (opWr .scalar), (opRd .scalar), (opRd .scalar), 0, false⟩)
  | .amoCas f => some (f, ⟨3, 0x27, .free, .la, (opRw .scalar), (opRd .scalar), (opRd .scalar), 0, false⟩)
  | .amoFadd f => some (f, ⟨3, 0x28, .free, .la, (opWr .scalar), (opRd .scalar), (opRd .scalar), 0, false⟩)
  | .stashMap f => some (f, ⟨3, 0x2C, .zero, .reg, (opWr .scalar), (opRd .scalar), (opRd .scalar), 1, false⟩)
  | .stashUnmap f => some (f, ⟨3, 0x2D, .zero, .reg, opNone, (opRd .scalar), opNone, 0, false⟩)
  | .stashFlush f => some (f, ⟨3, 0x2E, .zero, .reg, opNone, (opRd .scalar), opNone, 0, false⟩)
  | .slcOpen f => some (f, ⟨3, 0x30, .zero, .reg, (opWr .scalar), (opRd .scalar), opNone, 1, false⟩)
  | .slcClaim f => some (f, ⟨3, 0x31, .zero, .reg, (opWr .scalar), (opRd .scalar), opNone, 1, false⟩)
  | .slcClaimC f => some (f, ⟨3, 0x31, .one, .reg, (opWr .scalar), (opRd .scalar), opNone, 1, false⟩)
  | .slcStart f => some (f, ⟨3, 0x32, .zero, .reg, opNone, (opRd .scalar), opNone, 0, false⟩)
  | .slcJump f => some (f, ⟨3, 0x33, .zero, .reg, opNone, (opRd .scalar), (opRd .scalar), 0, false⟩)
  | .slcAccept f => some (f, ⟨3, 0x34, .zero, .reg, (opWr .scalar), (opRd .scalar), (opRd .scalar), 1, false⟩)
  | .slcWait f => some (f, ⟨3, 0x35, .zero, .reg, (opWr .scalar), (opRd .scalar), opNone, 1, false⟩)
  | .slcStat f => some (f, ⟨3, 0x36, .zero, .reg, (opWr .scalar), (opRd .scalar), opNone, 1, false⟩)
  | .slcStatC f => some (f, ⟨3, 0x36, .one, .reg, (opWr .scalar), (opRd .scalar), opNone, 1, false⟩)
  | .slcRetire f => some (f, ⟨3, 0x37, .zero, .reg, opNone, (opRd .scalar), opNone, 0, false⟩)
  | .slcRecycle f => some (f, ⟨3, 0x38, .zero, .reg, opNone, (opRd .scalar), opNone, 0, false⟩)
  | .slcFault f => some (f, ⟨3, 0x39, .zero, .reg, (opWr .scalar), (opRd .scalar), (opRd (.upTo 2)), 1, false⟩)
  | .slcFaultClr f => some (f, ⟨3, 0x39, .one, .reg, (opWr .scalar), (opRd .scalar), (opRd (.upTo 2)), 1, false⟩)
  | .slcPage f => some (f, ⟨3, 0x3A, .zero, .reg, opNone, (opRd .scalar), (opRd .scalar), 0, false⟩)
  | .slcClose f => some (f, ⟨3, 0x3B, .zero, .reg, opNone, (opRd .scalar), opNone, 0, false⟩)
  | .ckptBegin f => some (f, ⟨3, 0x3C, .zero, .reg, (opWr .scalar), (opRd .scalar), opNone, 1, false⟩)
  | .ckptSeal f => some (f, ⟨3, 0x3D, .zero, .reg, opNone, (opRd .scalar), opNone, 0, false⟩)
  | .ckptDiff f => some (f, ⟨3, 0x3E, .zero, .reg, opNone, (opRd .scalar), opNone, 0, false⟩)
  | .vadd f => some (f, ⟨1, 0x00, .free, .reg, (opWr .vec), (opRd .vec), (opRd .vec), 4, true⟩)
  | .vsub f => some (f, ⟨1, 0x01, .free, .reg, (opWr .vec), (opRd .vec), (opRd .vec), 4, true⟩)
  | .vmul f => some (f, ⟨1, 0x02, .free, .reg, (opWr .vec), (opRd .vec), (opRd .vec), 4, true⟩)
  | .vfma f => some (f, ⟨1, 0x03, .free, .reg, (opRw .vecReg), (opRd .vec), (opRd .vec), 4, true⟩)
  | .vfms f => some (f, ⟨1, 0x04, .free, .reg, (opRw .vecReg), (opRd .vec), (opRd .vec), 4, true⟩)
  | .vmin f => some (f, ⟨1, 0x05, .free, .reg, (opWr .vec), (opRd .vec), (opRd .vec), 4, true⟩)
  | .vmax f => some (f, ⟨1, 0x06, .free, .reg, (opWr .vec), (opRd .vec), (opRd .vec), 4, true⟩)
  | .vabs f => some (f, ⟨1, 0x07, .free, .reg, (opWr .vec), (opRd .vec), opNone, 4, true⟩)
  | .vneg f => some (f, ⟨1, 0x08, .free, .reg, (opWr .vec), (opRd .vec), opNone, 4, true⟩)
  | .vcmpEq f => some (f, ⟨1, 0x09, .free, .reg, (opWr .mask), (opRd .vec), (opRd .vec), 4, false⟩)
  | .vcmpLt f => some (f, ⟨1, 0x0A, .free, .reg, (opWr .mask), (opRd .vec), (opRd .vec), 4, false⟩)
  | .vcmpLe f => some (f, ⟨1, 0x0B, .free, .reg, (opWr .mask), (opRd .vec), (opRd .vec), 4, false⟩)
  | .vcmpUn f => some (f, ⟨1, 0x0C, .free, .reg, (opWr .mask), (opRd .vec), (opRd .vec), 4, false⟩)
  | .vaddI32 f => some (f, ⟨1, 0x20, .zero, .reg, (opWr .vec), (opRd .vec), (opRd .vec), 2, true⟩)
  | .vsubI32 f => some (f, ⟨1, 0x21, .zero, .reg, (opWr .vec), (opRd .vec), (opRd .vec), 2, true⟩)
  | .vmulI32 f => some (f, ⟨1, 0x22, .zero, .reg, (opWr .vec), (opRd .vec), (opRd .vec), 2, true⟩)
  | .vminI32 f => some (f, ⟨1, 0x23, .free, .reg, (opWr .vec), (opRd .vec), (opRd .vec), 2, true⟩)
  | .vmaxI32 f => some (f, ⟨1, 0x24, .free, .reg, (opWr .vec), (opRd .vec), (opRd .vec), 2, true⟩)
  | .vand f => some (f, ⟨1, 0x25, .zero, .reg, (opWr .vec), (opRd .vec), (opRd .vec), 2, true⟩)
  | .vor f => some (f, ⟨1, 0x26, .zero, .reg, (opWr .vec), (opRd .vec), (opRd .vec), 2, true⟩)
  | .vxor f => some (f, ⟨1, 0x27, .zero, .reg, (opWr .vec), (opRd .vec), (opRd .vec), 2, true⟩)
  | .vshl f => some (f, ⟨1, 0x28, .zero, .reg, (opWr .vec), (opRd .vec), (opRd .vec), 2, true⟩)
  | .vshr f => some (f, ⟨1, 0x29, .free, .reg, (opWr .vec), (opRd .vec), (opRd .vec), 2, true⟩)
  | .vcmpiEq f => some (f, ⟨1, 0x2A, .zero, .reg, (opWr .mask), (opRd .vec), (opRd .vec), 2, false⟩)
  | .vcmpiLt f => some (f, ⟨1, 0x2B, .free, .reg, (opWr .mask), (opRd .vec), (opRd .vec), 2, false⟩)
  | .vsel f => some (f, ⟨1, 0x2C, .zero, .reg, (opRw .vecReg), (opRd .vec), (opRd .vec), 2, true⟩)
  | .vmov f => some (f, ⟨1, 0x30, .zero, .reg, (opWr .vec), (opRd .vec), opNone, 2, true⟩)
  | .vsplat f => some (f, ⟨1, 0x31, .free, .reg, (opWr .vec), (opRd .scalar), opNone, 2, false⟩)
  | .vext f => some (f, ⟨1, 0x32, .free, .reg, (opWr .scalar), (opRd .vec), (opRd .scalar), 2, false⟩)
  | .vins f => some (f, ⟨1, 0x33, .zero, .reg, (opRw .vecReg), (opRd .scalar), (opRd .scalar), 2, false⟩)
  | .vrotR f => some (f, ⟨1, 0x34, .free, .ri, (opWr .vec), (opRd .vec), opImm, 2, false⟩)
  | .vrotC f => some (f, ⟨1, 0x35, .free, .ri, (opWr .vec), (opRd .vec), opImm, 3, false⟩)
  | .vbcR f => some (f, ⟨1, 0x36, .zero, .reg, (opWr .vec), (opRd .vec), (opRd .scalar), 2, false⟩)
  | .vbcC f => some (f, ⟨1, 0x37, .zero, .reg, (opWr .vec), (opRd .vec), (opRd .scalar), 3, false⟩)
  | .vsumR f => some (f, ⟨1, 0x38, .free, .reg, (opWr .vec), (opRd .vec), opNone, 6, false⟩)
  | .vmaxR f => some (f, ⟨1, 0x39, .free, .reg, (opWr .vec), (opRd .vec), opNone, 6, false⟩)
  | .vminR f => some (f, ⟨1, 0x3A, .free, .reg, (opWr .vec), (opRd .vec), opNone, 6, false⟩)
  | .vsumC f => some (f, ⟨1, 0x3B, .free, .reg, (opWr .vec), (opRd .vec), opNone, 5, false⟩)
  | .vmaxC f => some (f, ⟨1, 0x3C, .free, .reg, (opWr .vec), (opRd .vec), opNone, 5, false⟩)
  | .vminC f => some (f, ⟨1, 0x3D, .free, .reg, (opWr .vec), (opRd .vec), opNone, 5, false⟩)
  | .vperm f => some (f, ⟨1, 0x3E, .zero, .reg, (opWr .vec), (opRd .vec), (opRd .vec), 2, false⟩)
  | .vtrn f => some (f, ⟨1, 0x3F, .zero, .reg, (opWr .vec), (opRd .vec), opNone, 5, false⟩)
  | .vcvt f =>
    some (f, ⟨1, 0x40, .free, .reg, if cvtReadsD (cvtKind f) then opRw .vecReg else opWr .vec, (opRd .vec), opImm, 4, true⟩)
  | .vquant f => some (f, ⟨1, 0x41, .zero, .reg, (opWr .vecReg), (opRd .vec), (opRd .scalar), 4, false⟩)
  | .vdeq f => some (f, ⟨1, 0x42, .zero, .reg, (opWr .vec), (opRd .vec), (opRd .scalar), 4, true⟩)
  | .vsplit3 f => some (f, ⟨1, 0x43, .zero, .reg, (opWr (.vecSpan 3)), (opRd .vec), (opRd .vec), 4, false⟩)
  | .vround f => some (f, ⟨1, 0x44, .zero, .reg, (opWr .vec), (opRd .vec), (opRd .roundFmt), 4, true⟩)
  | .vcorr f => some (f, ⟨1, 0x45, .free, .reg, (opRw (.vecSpan 2)), (opRd .vec), (opRd .vec), 4, false⟩)
  | .mand f => some (f, ⟨1, 0x50, .zero, .reg, (opWr .mask), (opRd .mask), (opRd .mask), 1, false⟩)
  | .mor f => some (f, ⟨1, 0x51, .zero, .reg, (opWr .mask), (opRd .mask), (opRd .mask), 1, false⟩)
  | .mxor f => some (f, ⟨1, 0x52, .zero, .reg, (opWr .mask), (opRd .mask), (opRd .mask), 1, false⟩)
  | .mnot f => some (f, ⟨1, 0x53, .zero, .reg, (opWr .mask), (opRd .mask), opNone, 1, false⟩)
  | .mcnt f => some (f, ⟨1, 0x54, .zero, .reg, (opWr .scalar), (opRd .mask), opNone, 1, false⟩)
  | .mfirst f => some (f, ⟨1, 0x55, .zero, .reg, (opWr .scalar), (opRd .mask), opNone, 1, false⟩)
  | .mfirstM f => some (f, ⟨1, 0x55, .one, .reg, (opWr .mask), (opRd .mask), opNone, 1, false⟩)
  | .mset f => some (f, ⟨1, 0x56, .zero, .reg, (opWr .mask), (opRd .scalar), (opRd .scalar), 1, false⟩)
  | .mact f => some (f, ⟨1, 0x57, .zero, .reg, opNone, (opRd .mask), opNone, 1, false⟩)
  | .vexp2 f => some (f, ⟨2, 0x00, .free, .reg, (opWr .vec), (opRd .vec), opNone, 8, false⟩)
  | .vlog2 f => some (f, ⟨2, 0x01, .free, .reg, (opWr .vec), (opRd .vec), opNone, 8, false⟩)
  | .vrcp f => some (f, ⟨2, 0x02, .free, .reg, (opWr .vec), (opRd .vec), opNone, 8, false⟩)
  | .vrsq f => some (f, ⟨2, 0x03, .free, .reg, (opWr .vec), (opRd .vec), opNone, 8, false⟩)
  | .vsqrt f => some (f, ⟨2, 0x04, .free, .reg, (opWr .vec), (opRd .vec), opNone, 8, false⟩)
  | .vtanh f => some (f, ⟨2, 0x05, .free, .reg, (opWr .vec), (opRd .vec), opNone, 8, false⟩)
  | .vsig f => some (f, ⟨2, 0x06, .free, .reg, (opWr .vec), (opRd .vec), opNone, 8, false⟩)
  | .vsincos f => some (f, ⟨2, 0x07, .zero, .reg, (opWr (.vecSpan 2)), (opRd .vec), opNone, 8, false⟩)
  | .cfClear => some (noFields false, ⟨2, 0x10, .zero, .reg, opNone, opNone, opNone, 0, false⟩)
  | .cfClearAll => some (noFields true, ⟨2, 0x10, .one, .reg, opNone, opNone, opNone, 0, false⟩)
  | .cfMerge f => some (f, ⟨2, 0x11, .zero, .reg, opNone, (opRd .vec), (opRd .scalar), 0, false⟩)
  | .cfMergeP f => some (f, ⟨2, 0x11, .one, .reg, opNone, opNone, (opRd .scalar), 0, false⟩)
  | .cfNorm f => some (f, ⟨2, 0x12, .zero, .reg, opNone, (opRd .scalar), (opRd .scalar), 0, false⟩)
  | .cfNormD f => some (f, ⟨2, 0x12, .one, .reg, opNone, (opRd .scalar), (opRd .scalar), 0, false⟩)
  | .cfLabel f => some (f, ⟨2, 0x13, .zero, .reg, opNone, (opRd .scalar), (opRd .scalar), 0, false⟩)
  | .cfRead f => some (f, ⟨2, 0x14, .zero, .reg, (opWr .vecReg), (opRd .scalar), (opRd (.upTo 2)), 12, false⟩)
  | .cfXmerge f => some (f, ⟨2, 0x15, .zero, .reg, opNone, (opRd .scalar), (opRd .scalar), 0, false⟩)
  | .cfTopp f => some (f, ⟨2, 0x16, .zero, .reg, (opWr .pred), (opRd .scalar), (opRd .scalar), 12, false⟩)
  | .cfToppSet f => some (f, ⟨2, 0x16, .one, .reg, (opWr .pred), (opRd .scalar), (opRd .scalar), 12, false⟩)
  | .cfRace f => some (f, ⟨2, 0x17, .zero, .reg, opNone, (opRd .scalar), (opRd .scalar), 0, false⟩)
  | .cfMask f => some (f, ⟨2, 0x18, .zero, .reg, opNone, (opRd .scalar), (opRd .scalar), 0, false⟩)
  | .cfMaskOff => some (noFields true, ⟨2, 0x18, .one, .reg, opNone, opNone, opNone, 0, false⟩)
  | .cfSpill f => some (f, ⟨2, 0x19, .zero, .reg, opNone, (opRd .scalar), (opRd .scalar), 0, false⟩)
  | .rngKey f => some (f, ⟨2, 0x20, .zero, .reg, opNone, (opRd .scalar), opNone, 1, false⟩)
  | .rngPos f => some (f, ⟨2, 0x21, .zero, .reg, (opWr .scalar), (opRd .scalar), opNone, 1, false⟩)
  | .rngPosR f => some (f, ⟨2, 0x21, .one, .reg, (opWr .scalar), opNone, opNone, 1, false⟩)
  | .xaInit f => some (f, ⟨2, 0x30, .zero, .reg, opNone, (opRd .scalar), (opRd .scalar), 1, false⟩)
  | .xaPush f => some (f, ⟨2, 0x31, .zero, .reg, opNone, (opRd .vec), opNone, 1, false⟩)
  | .xaEst f => some (f, ⟨2, 0x32, .zero, .reg, (opWr .vecReg), opNone, opNone, 16, false⟩)
  | .xaStat f => some (f, ⟨2, 0x33, .zero, .reg, (opWr .mask), opNone, (opRd (.upTo 2)), 1, false⟩)
  | .tmma f => some (f, ⟨4, 0x00, .zero, .reg, (opRd .acc), (opRd .stream), (opRd .stream), 0, false⟩)
  | .tmmaCell f => some (f, ⟨4, 0x00, .one, .reg, (opRd .acc), (opRd .stream), (opRd .stream), 0, false⟩)
  | .tspmma f => some (f, ⟨4, 0x01, .zero, .reg, (opRd .acc), (opRd (.streamSpan 2)), (opRd (.vecSpan 2)), 0, false⟩)
  | .tspmma48 f => some (f, ⟨4, 0x01, .one, .reg, (opRd .acc), (opRd (.streamSpan 2)), (opRd (.vecSpan 3)), 0, false⟩)
  | .tcomp f => some (f, ⟨4, 0x02, .zero, .reg, (opWr (.vecSpan 2)), (opRd .stream), (opRd .stream), 1, false⟩)
  | .tcomp48 f => some (f, ⟨4, 0x02, .one, .reg, (opWr (.vecSpan 3)), (opRd .stream), (opRd .stream), 1, false⟩)
  | .tzero f => some (f, ⟨4, 0x03, .zero, .reg, (opRd .acc), opNone, opNone, 0, false⟩)
  | .tdrain f => some (f, ⟨4, 0x04, .zero, .reg, (opRd .acc), (opRd .scalar), opNone, 1, false⟩)
  | .tdacc f => some (f, ⟨4, 0x05, .zero, .reg, (opRd .acc), (opRd .scalar), (opRd .scalar), 0, false⟩)
  | .tdaccClamp f => some (f, ⟨4, 0x05, .one, .reg, (opRd .acc), (opRd .scalar), (opRd .scalar), 0, false⟩)
  | .tread f => some (f, ⟨4, 0x06, .zero, .reg, (opWr .vecReg), (opRd .acc), (opRd .scalar), 1, false⟩)
  | .tcellp f => some (f, ⟨4, 0x07, .zero, .reg, opNone, (opRd .scalar), (opRd .scalar), 0, false⟩)
  | .epiSet f => some (f, ⟨4, 0x08, .zero, .reg, opNone, (opRd .scalar), opNone, 0, false⟩)
  | .mpset f => some (f, ⟨4, 0x09, .zero, .reg, (opWr .mpar), (opRd .scalar), opNone, 1, false⟩)
  | .mpsetAdd f => some (f, ⟨4, 0x09, .one, .reg, (opWr .mpar), (opRd .scalar), opNone, 1, false⟩)
  | .tcall f => some (f, ⟨4, 0x0A, .zero, .reg, opNone, (opRd .scalar), opNone, 0, false⟩)
  | .tret => some (noFields false, ⟨4, 0x0B, .zero, .reg, opNone, opNone, opNone, 0, false⟩)
  | .tloop f => some (f, ⟨4, 0x0C, .zero, .reg, (opRd .count31), (opRd .mpar), opNone, 0, false⟩)
  | .tstep => some (noFields false, ⟨4, 0x0D, .zero, .reg, opNone, opNone, opNone, 0, false⟩)
  | .tvproj f => some (f, ⟨4, 0x0E, .zero, .reg, (opRd .acc), (opRd (.streamSpan 2)), (opRd .scalar), 0, false⟩)
  | .tvprojR f => some (f, ⟨4, 0x0E, .one, .reg, (opRd .acc), (opRd (.streamSpan 2)), (opRd .scalar), 0, false⟩)
  | .tvprojPair f => some (f, ⟨4, 0x0F, .zero, .reg, (opRd .accPair), (opRd (.streamSpan 4)), (opRd .scalar), 0, false⟩)
  | .tvprojPairR f => some (f, ⟨4, 0x0F, .one, .reg, (opRd .accPair), (opRd (.streamSpan 4)), (opRd .scalar), 0, false⟩)
  | .rstLoad f => some (f, ⟨4, 0x10, .zero, .reg, opNone, (opRd .scalar), (opRd .scalar), 0, false⟩)
  | .mtcFmode f => some (f, ⟨0, 0x51, .zero, .reg, (opWr .ctl), (opRd .scalar), opNone, 1, false⟩)
  | .mtcRngsrc f => some (f, ⟨0, 0x51, .zero, .reg, (opWr .ctl), (opRd .scalar), opNone, 1, false⟩)
  | .hostRmaWrite => none
  | .hostRmaRead => none
  | .recordTimeout => none
  | .onChipRingRefill => none
  | .queueEnable => none
  | .queueDisable => none
  | .queueSetQsize => none
  | .queueSettings => none
  | .dispatchHead => none
  | .placementRetry => none
  | .contextFree => none
  | .barrierRelease => none
  | .barD5Exchange => none
  | .dispatchAnswer => none
  | .contextReady => none
  | .legLimitReached => none
  | .graceExpiry => none
  | .taskResumption => none
  | .registerMissMicrotrap => none
  | .energyQuotaExhausted => none
  | .quotaGrant => none
  | .loadDataArrival => none
  | .deferredTrap => none
  | .userEventDelivery => none
  | .storePerform => none
  | .atomicPerform => none
  | .homeAccess => none
  | .stashFill => none
  | .l2Eviction => none
  | .logicalTimeTick => none
  | .remoteAccessArrival => none
  | .remoteCompletion => none
  | .matrixEntryExecute => none
  | .matrixEntryRetire => none
  | .tileLoadComplete => none
  | .tileStorePerform => none
  | .bswapCopyComplete => none
  | .phaseCancel => none
  | .opselSettleEnd => none
  | .rngQueueFill => none
  | .walkStart => none
  | .edgeIdlePass => none
  | .fabricTimeout => none
  | .ftimeoutSet => none
  | .nodeRecovery => none
  | .checkpointSettings => none
  | .reserveAssign => none
  | .ckptPageCopied => none
  | .ckptCopyComplete => none
  | .ckptCopyFail => none
  | .tlbInvalidate => none
  | .tlbInvalidateComplete => none
  | .plimitSet => none
  | .powerOverBound => none
  | .capLower => none
  | .capRaise => none
  | .thermalThreshold => none
  | .slowdownNotice => none
  | .slowdownTimer => none
  | .slowdownLapse => none
  | .hbmSoftRepair => none
  | .softRepairEnd => none
  | .flitCheckFailure => none
  | .blockCheckFailure => none
  | .packageReset => none
  | .firmwareInstall => none
  | .attestationRequest => none
  | .unlistedOpcode => none

/-- The fields of a slot. -/
def slotOf (i : Instr) : Option Fields := (entry i).map (·.1)

/-- The control register that the row of an `mtc` of its own names (R124). -/
def mtcReg : Instr → Option Nat
  | .mtcFmode _ => some 0x0C
  | .mtcRngsrc _ => some 0x0F
  | .mtcStatus _ => some 0x00
  | .mtcFflags _ => some 0x0B
  | .mtcEmask _ => some 0x0D
  | .mtcRngkey _ => some 0x0E
  | .mtcTbudget _ => some 0x11
  | .mtcXcnt _ => some 0x16
  | .mtcSlotmap _ => some 0x17
  | _ => none

end Sys2Proof.Machine
end

