-- ==== Sys2Proof/Machine/Forms.lean ====
section
/-! DEFINITION. The operand forms (R24, R26, R28) and the checks that a word and its EXT word alone fix (R21, R22, R25,
R27, R359). -/

namespace Sys2Proof.Machine

/-- The payload of the EXT word, 0 without one. -/
def payload (f : Fields) : BitVec 28 := f.ext.getD 0

/-- imm6 (R24). -/
def imm6 (f : Fields) : BitVec 6 := f.b ++ BitVec.ofBool f.md

/-- imm11 (R24). -/
def imm11 (f : Fields) : BitVec 11 := f.a ++ imm6 f

/-- imm16 (R24). -/
def imm16 (f : Fields) : BitVec 16 := f.d ++ imm11 f

/-- SignExtend64(P × 2^w + imm), imm taken unsigned, or the sign-extended immediate without an EXT word (R24, R26). -/
def immValue {w : Nat} (ext : Option (BitVec 28)) (i : BitVec w) : DWord :=
  match ext with
  | none => i.signExtend 64
  | some p => (p ++ i).signExtend 64

/-- The immediate of an RI slot. -/
def riValue (f : Fields) : DWord := immValue f.ext (imm6 f)

/-- The immediate of an I11 slot. -/
def i11Value (f : Fields) : DWord := immValue f.ext (imm11 f)

/-- The immediate of an I16 slot. -/
def i16Value (f : Fields) : DWord := immValue f.ext (imm16 f)

/-- The byte offset of an LD or LA slot; in `ld.v` it counts units of 64 bytes (R26). -/
def ldOffset (vector : Bool) (f : Fields) : DWord :=
  let o := ((payload f).extractLsb' 16 12).signExtend 64
  if vector then o <<< 6 else o

/-- The byte offset of an MA slot (R26). -/
def maOffset (f : Fields) : DWord := (payload f).signExtend 64

/-- The distance in P[15:0], or `own` where it is 0 (R26). -/
def extDistance (own : Nat) (f : Fields) : Nat :=
  let p := ((payload f).extractLsb' 0 16).toNat
  if p = 0 then own else p

/-- The landing distance of an LD slot (R24). -/
def ldDistance (f : Fields) : Nat := extDistance (4 * (f.b.toNat + 1)) f

/-- The landing distance of an LA slot (R24). -/
def laDistance (f : Fields) : Nat := extDistance 4 f

/-- NREP of the repeat word (R28). -/
def nrep (f : Fields) : Nat := ((payload f).extractLsb' 0 4).toNat

def dstep (f : Fields) : Nat := ((payload f).extractLsb' 4 4).toNat
def astep (f : Fields) : Nat := ((payload f).extractLsb' 8 4).toNat
def bstep (f : Fields) : Nat := ((payload f).extractLsb' 12 4).toNat

/-- A field after `n` steps; a field naming 16 to 25 does not step (R28). -/
def stepField (v n : Nat) : Nat := if v < 16 then v + n else v

/-- The number of parts of a `vcvt` kind (R173). -/
def cvtParts (k : Nat) : Nat := if k < 4 then 1 else if k < 8 then 2 else 4

/-- A field's value is one of its kind (R21, R22, R25). -/
def kindOk (o : Operand) (v : Nat) : Bool :=
  match o.kind with
  | .none => v = 0
  | .imm | .scalar => true
  | .pred | .stream => v < 16
  | .vec => (!o.reads || v ≤ 21) && (!o.writes || v < 16 || v = 17 || (22 ≤ v && v ≤ 25))
  | .vecReg => v < 16 || v = 17
  | .vecSpan n | .streamSpan n => v + n ≤ 16
  | .mask | .mpar => v < 8
  | .loopc | .acc | .pipe => v < 4
  | .accPair => v < 4 && v % 2 = 0
  | .ctl => v ≤ 24
  | .counter => v ≤ 2
  | .domain => v ≤ 5
  | .upTo n => v ≤ n
  | .count31 => 1 ≤ v
  | .roundFmt => v ≤ 6 || v = 10

/-- A stepped register number stays within v0 to v15 (R28). A step of a field that the form does not use is no register number, and
is ignored (DESIGN CHOICE, log 56). -/
def stepOk (o : Operand) (v n : Nat) : Bool :=
  match o.kind with
  | .vec | .vecReg => stepField v n < 26 && (v ≥ 16 || v + n < 16)
  | _ => true

/-- MD is one that the entry gives a meaning (R25). -/
def mdOk (r : MdRule) (md : Bool) : Bool :=
  match r with
  | .free => true
  | .zero => !md
  | .one => md

/-- The limits that single entries add and that the words alone fix (R104, R173, R174, R176). -/
def entryOk (i : Instr) : Bool :=
  match i with
  | .loop f | .loopp f => (1 : Int) ≤ (riValue f).toInt
  | .vcvt f => cvtPart f < cvtParts (cvtKind f) && bstep f = 0
  | .vround f | .vdeq f => bstep f = 0
  | _ => true

/-- An EXT word may stand before the slot (R27). -/
def extOk (i : Instr) : Bool :=
  match entry i with
  | none => true
  | some (f, o) => f.ext.isNone || o.form != .reg || o.rep

/-- The fields are of their kinds and the unused ones 0 (R21, R25, R28): no ILLEGAL_OPERAND when decoded. -/
def fieldsOk (i : Instr) : Bool :=
  match entry i with
  | none => i != .unlistedOpcode
  | some (f, o) =>
    mdOk o.md f.md && kindOk o.d f.d.toNat && kindOk o.a f.a.toNat && kindOk o.b f.b.toNat && entryOk i
      && (match mtcReg i with | some r => f.d.toNat = r | none => true)
      && (!o.rep || ((payload f).extractLsb' 16 12 = 0 && stepOk o.d f.d.toNat (nrep f * dstep f)
        && stepOk o.a f.a.toNat (nrep f * astep f) && stepOk o.b f.b.toNat (nrep f * bstep f)))

/-- The row of `mtc` that a control register number has (R124): an `mtc` of a register with a row of its own is that row. -/
def plainMtc (i : Instr) : Bool :=
  match i with
  | .mtc f => !([0x00, 0x0B, 0x0C, 0x0D, 0x0E, 0x0F, 0x11, 0x16, 0x17].contains f.d.toNat)
  | _ => true

/-- What a slot writes, as R30 counts it. -/
inductive Written where
  | s (n : Nat) | p (n : Nat) | v (n : Nat) | m (n : Nat) | lc (n : Nat) | mp (n : Nat) | st (n : Nat) | c (n : Nat)
  deriving DecidableEq, Repr

/-- The registers that a written field names; pushes and discarded writes are not counted (R30). -/
def fieldWrites (o : Operand) (v : Nat) (f : Fields) : List Written :=
  if !o.writes then [] else
  match o.kind with
  | .scalar => if v = 0 then [] else [.s v]
  | .pred => if v = 0 || v = 8 then [] else [.p v]
  | .mask => if v = 0 then [] else [.m v]
  | .vec | .vecReg => if v < 16 then (List.range (nrep f + 1)).map fun j => .v (v + j * dstep f) else []
  | .vecSpan n => (List.range n).map fun j => .v (v + j)
  | .loopc => [.lc v]
  | .mpar => [.mp v]
  | .stream => [.st v]
  | .ctl => if [0x0A, 0x0B, 0x13, 0x14, 0x15, 0x16].contains v then [] else [.c v]
  | _ => []

/-- The implied writes of the entries (R30, R89, R101, R178, R311). The entries of `loopp` and `lexit` (the stage predicates), of
`opsel` (OPPT) and of `rng.pos` (RNGPOS and the position of the queue) give no implied write, and none is counted (DESIGN CHOICE,
log 58). -/
def impliedWrites : Instr → List Written
  | .call _ => [.s 31]
  | .heapPop _ | .budget _ => [.c 0x11]
  | .mact _ => [.c 0x0D]
  | .rngKey _ => [.c 0x0E]
  | .shapeLd _ => [.lc 0, .lc 1, .lc 2, .lc 3] ++ (List.range 7).map fun j => .p (j + 1)
  | _ => []

/-- Every register that a slot writes, as R30 counts them. -/
def slotWrites (i : Instr) : List Written :=
  match entry i with
  | none => []
  | some (f, o) => fieldWrites o.d f.d.toNat (if o.rep then f else { f with ext := none }) ++ impliedWrites i

end Sys2Proof.Machine
end

