-- ==== Sys2Proof/WellFormed.lean ====
section
/-! DEFINITION. Which terms of the syntax stand for an encodable, legal instruction. The checks themselves are in
Sys2Proof/Machine/Forms.lean: the fields of every word (R21, R22, R25, R28), the placing of an EXT word (R27), and an
`mtc` of a register that has a row of its own. -/

namespace Sys2Proof

/-- The words of the instruction pass the checks that depend on nothing else (R359). -/
def Instr.wellFormed (i : Instr) : Bool := Machine.fieldsOk i && Machine.extOk i && Machine.plainMtc i

end Sys2Proof
end

