-- ==== Sys2Proof/Decode.lean ====
section
/-! DEFINITION. Decoding of words (R18 to R38), total on every word, and the encoder written from the same tables. -/

namespace Sys2Proof

open Machine

/-- S, the stop bit (R18). -/
def wordStop (w : Word) : Bool := w.getLsbD 31

/-- CL, the class (R19). -/
def wordClass (w : Word) : Nat := (w.extractLsb' 28 3).toNat

/-- OP, the opcode within the class (R18). -/
def wordOp (w : Word) : Nat := (w.extractLsb' 21 7).toNat

/-- The payload of an EXT word (R26). -/
def wordPayload (w : Word) : BitVec 28 := w.extractLsb' 0 28

/-- The fields of a word (R18) with the payload of its EXT word. -/
def wordFields (ext : Option (BitVec 28)) (w : Word) : Fields where
  d := w.extractLsb' 11 5
  a := w.extractLsb' 6 5
  b := w.extractLsb' 1 5
  md := w.getLsbD 0
  ext := ext

/-- The row of an `mtc`, by the control register that D numbers (R124). -/
def mtcRow (f : Fields) : Instr :=
  match f.d.toNat with
  | 0x00 => .mtcStatus f
  | 0x0B => .mtcFflags f
  | 0x0C => .mtcFmode f
  | 0x0D => .mtcEmask f
  | 0x0E => .mtcRngkey f
  | 0x0F => .mtcRngsrc f
  | 0x11 => .mtcTbudget f
  | 0x16 => .mtcXcnt f
  | 0x17 => .mtcSlotmap f
  | _ => .mtc f

/-- Class S (R34): the instruction of an opcode, `none` for an unlisted one (R33). -/
def sClass (op : Nat) (f : Fields) : Option Instr :=
  match op with
  | 0x00 => some .nop
  | 0x01 => some (.add f)
  | 0x02 => some (.sub f)
  | 0x03 => some (.mul f)
  | 0x04 => some (.mulh f)
  | 0x05 => some (.div f)
  | 0x06 => some (.rem f)
  | 0x07 => some (.andS f)
  | 0x08 => some (.orS f)
  | 0x09 => some (.xorS f)
  | 0x0A => some (.andn f)
  | 0x0B => some (.shl f)
  | 0x0C => some (.shr f)
  | 0x0D => some (.sar f)
  | 0x0E => some (.minS f)
  | 0x0F => some (.maxS f)
  | 0x10 => some (.clz f)
  | 0x11 => some (.ctz f)
  | 0x12 => some (.popc f)
  | 0x13 => some (.sext f)
  | 0x14 => some (.zext f)
  | 0x15 => some (.madd f)
  | 0x16 => some (.sel f)
  | 0x17 => some (.mov f)
  | 0x18 => some (.cmpEq f)
  | 0x19 => some (.cmpNe f)
  | 0x1A => some (.cmpLt f)
  | 0x1B => some (.cmpLe f)
  | 0x1C => some (if f.md then (.plogAndn f) else (.plogAnd f))
  | 0x1D => some (.li f)
  | 0x20 => some (.addi f)
  | 0x21 => some (.andi f)
  | 0x22 => some (.ori f)
  | 0x23 => some (.xori f)
  | 0x24 => some (.shli f)
  | 0x25 => some (.shri f)
  | 0x26 => some (.sari f)
  | 0x27 => some (.cmpiEq f)
  | 0x28 => some (.cmpiLt f)
  | 0x40 => some (.br f)
  | 0x41 => some (.brr f)
  | 0x42 => some (.call f)
  | 0x43 => some (.callr f)
  | 0x44 => some (.ret f)
  | 0x45 => some (.loop f)
  | 0x46 => some (.loopp f)
  | 0x47 => some (.lexit f)
  | 0x48 => some .yield
  | 0x49 => some .exit
  | 0x4A => some (.waitCnt f)
  | 0x4B => some (if f.md then (.cmptrapV f) else (.cmptrap f))
  | 0x4C => some (.trap f)
  | 0x4D => some (.sys f)
  | 0x4E => some .rfe
  | 0x4F => some .rfu
  | 0x50 => some (.mfc f)
  | 0x51 => some (mtcRow f)
  | 0x52 => some (.opsel f)
  | 0x53 => some (.gtime f)
  | 0x54 => some (.ccyc f)
  | 0x55 => some (if f.md then (.evtOff f) else (.evt f))
  | 0x58 => some (.tlaunch f)
  | 0x59 => some (.bar f)
  | 0x5A => some (.phase f)
  | 0x5B => some (.bswap f)
  | 0x5C => some (.shapeLd f)
  | 0x5D => some (.heapPush f)
  | 0x5E => some (.heapPop f)
  | 0x5F => some (if f.md then (.heapPeekDl f) else (.heapPeek f))
  | 0x60 => some (.budget f)
  | 0x64 => some (.erSet f)
  | 0x65 => some (if f.md then (.erGetS f) else (.erGet f))
  | 0x66 => some .yieldEr
  | 0x67 => some (.erIdle f)
  | _ => none

/-- Class V (R36): the instruction of an opcode, `none` for an unlisted one (R33). -/
def vClass (op : Nat) (f : Fields) : Option Instr :=
  match op with
  | 0x00 => some (.vadd f)
  | 0x01 => some (.vsub f)
  | 0x02 => some (.vmul f)
  | 0x03 => some (.vfma f)
  | 0x04 => some (.vfms f)
  | 0x05 => some (.vmin f)
  | 0x06 => some (.vmax f)
  | 0x07 => some (.vabs f)
  | 0x08 => some (.vneg f)
  | 0x09 => some (.vcmpEq f)
  | 0x0A => some (.vcmpLt f)
  | 0x0B => some (.vcmpLe f)
  | 0x0C => some (.vcmpUn f)
  | 0x20 => some (.vaddI32 f)
  | 0x21 => some (.vsubI32 f)
  | 0x22 => some (.vmulI32 f)
  | 0x23 => some (.vminI32 f)
  | 0x24 => some (.vmaxI32 f)
  | 0x25 => some (.vand f)
  | 0x26 => some (.vor f)
  | 0x27 => some (.vxor f)
  | 0x28 => some (.vshl f)
  | 0x29 => some (.vshr f)
  | 0x2A => some (.vcmpiEq f)
  | 0x2B => some (.vcmpiLt f)
  | 0x2C => some (.vsel f)
  | 0x30 => some (.vmov f)
  | 0x31 => some (.vsplat f)
  | 0x32 => some (.vext f)
  | 0x33 => some (.vins f)
  | 0x34 => some (.vrotR f)
  | 0x35 => some (.vrotC f)
  | 0x36 => some (.vbcR f)
  | 0x37 => some (.vbcC f)
  | 0x38 => some (.vsumR f)
  | 0x39 => some (.vmaxR f)
  | 0x3A => some (.vminR f)
  | 0x3B => some (.vsumC f)
  | 0x3C => some (.vmaxC f)
  | 0x3D => some (.vminC f)
  | 0x3E => some (.vperm f)
  | 0x3F => some (.vtrn f)
  | 0x40 => some (.vcvt f)
  | 0x41 => some (.vquant f)
  | 0x42 => some (.vdeq f)
  | 0x43 => some (.vsplit3 f)
  | 0x44 => some (.vround f)
  | 0x45 => some (.vcorr f)
  | 0x50 => some (.mand f)
  | 0x51 => some (.mor f)
  | 0x52 => some (.mxor f)
  | 0x53 => some (.mnot f)
  | 0x54 => some (.mcnt f)
  | 0x55 => some (if f.md then (.mfirstM f) else (.mfirst f))
  | 0x56 => some (.mset f)
  | 0x57 => some (.mact f)
  | _ => none

/-- Class X (R37): the instruction of an opcode, `none` for an unlisted one (R33). -/
def xClass (op : Nat) (f : Fields) : Option Instr :=
  match op with
  | 0x00 => some (.vexp2 f)
  | 0x01 => some (.vlog2 f)
  | 0x02 => some (.vrcp f)
  | 0x03 => some (.vrsq f)
  | 0x04 => some (.vsqrt f)
  | 0x05 => some (.vtanh f)
  | 0x06 => some (.vsig f)
  | 0x07 => some (.vsincos f)
  | 0x10 => some (if f.md then .cfClearAll else .cfClear)
  | 0x11 => some (if f.md then (.cfMergeP f) else (.cfMerge f))
  | 0x12 => some (if f.md then (.cfNormD f) else (.cfNorm f))
  | 0x13 => some (.cfLabel f)
  | 0x14 => some (.cfRead f)
  | 0x15 => some (.cfXmerge f)
  | 0x16 => some (if f.md then (.cfToppSet f) else (.cfTopp f))
  | 0x17 => some (.cfRace f)
  | 0x18 => some (if f.md then .cfMaskOff else (.cfMask f))
  | 0x19 => some (.cfSpill f)
  | 0x20 => some (.rngKey f)
  | 0x21 => some (if f.md then (.rngPosR f) else (.rngPos f))
  | 0x30 => some (.xaInit f)
  | 0x31 => some (.xaPush f)
  | 0x32 => some (.xaEst f)
  | 0x33 => some (.xaStat f)
  | _ => none

/-- Class M (R35): the instruction of an opcode, `none` for an unlisted one (R33). -/
def mClass (op : Nat) (f : Fields) : Option Instr :=
  match op with
  | 0x00 => some (.ldI8 f)
  | 0x01 => some (.ldN8 f)
  | 0x02 => some (.ldI16 f)
  | 0x03 => some (.ldN16 f)
  | 0x04 => some (.ldI32 f)
  | 0x05 => some (.ldN32 f)
  | 0x06 => some (.ldI64 f)
  | 0x08 => some (.st8 f)
  | 0x09 => some (.st16 f)
  | 0x0A => some (.st32 f)
  | 0x0B => some (.st64 f)
  | 0x0C => some (.ldV f)
  | 0x0D => some (.stV f)
  | 0x0E => some (.pref f)
  | 0x10 => some (.tld f)
  | 0x11 => some (.tst f)
  | 0x12 => some (.gld f)
  | 0x13 => some (.gst f)
  | 0x14 => some (.stset f)
  | 0x15 => some (.stget f)
  | 0x16 => some (if f.md then (.radvH f) else (.radv f))
  | 0x17 => some (.padv f)
  | 0x18 => some (.pwait f)
  | 0x20 => some (.amoAdd f)
  | 0x21 => some (.amoAnd f)
  | 0x22 => some (.amoOr f)
  | 0x23 => some (.amoXor f)
  | 0x24 => some (.amoMin f)
  | 0x25 => some (.amoMax f)
  | 0x26 => some (.amoXchg f)
  | 0x27 => some (.amoCas f)
  | 0x28 => some (.amoFadd f)
  | 0x2C => some (.stashMap f)
  | 0x2D => some (.stashUnmap f)
  | 0x2E => some (.stashFlush f)
  | 0x30 => some (.slcOpen f)
  | 0x31 => some (if f.md then (.slcClaimC f) else (.slcClaim f))
  | 0x32 => some (.slcStart f)
  | 0x33 => some (.slcJump f)
  | 0x34 => some (.slcAccept f)
  | 0x35 => some (.slcWait f)
  | 0x36 => some (if f.md then (.slcStatC f) else (.slcStat f))
  | 0x37 => some (.slcRetire f)
  | 0x38 => some (.slcRecycle f)
  | 0x39 => some (if f.md then (.slcFaultClr f) else (.slcFault f))
  | 0x3A => some (.slcPage f)
  | 0x3B => some (.slcClose f)
  | 0x3C => some (.ckptBegin f)
  | 0x3D => some (.ckptSeal f)
  | 0x3E => some (.ckptDiff f)
  | _ => none

/-- Class T (R38): the instruction of an opcode, `none` for an unlisted one (R33). -/
def tClass (op : Nat) (f : Fields) : Option Instr :=
  match op with
  | 0x00 => some (if f.md then (.tmmaCell f) else (.tmma f))
  | 0x01 => some (if f.md then (.tspmma48 f) else (.tspmma f))
  | 0x02 => some (if f.md then (.tcomp48 f) else (.tcomp f))
  | 0x03 => some (.tzero f)
  | 0x04 => some (.tdrain f)
  | 0x05 => some (if f.md then (.tdaccClamp f) else (.tdacc f))
  | 0x06 => some (.tread f)
  | 0x07 => some (.tcellp f)
  | 0x08 => some (.epiSet f)
  | 0x09 => some (if f.md then (.mpsetAdd f) else (.mpset f))
  | 0x0A => some (.tcall f)
  | 0x0B => some .tret
  | 0x0C => some (.tloop f)
  | 0x0D => some .tstep
  | 0x0E => some (if f.md then (.tvprojR f) else (.tvproj f))
  | 0x0F => some (if f.md then (.tvprojPairR f) else (.tvprojPair f))
  | 0x10 => some (.rstLoad f)
  | _ => none

/-- Why the decoder refuses a word. -/
inductive WordError where
  /-- A class that is reserved (R19). -/
  | reservedClass
  /-- An opcode that its class does not list (R33). -/
  | unlistedOpcode
  /-- A field that an instruction without operands does not use is not 0 (R25). -/
  | unusedField
  /-- An EXT word with S set, or without a slot that it can join (R27). -/
  | misplacedExt
  /-- No word. -/
  | noWord
  deriving DecidableEq, Repr

/-- The instruction of a word and its EXT word, or why there is none. -/
def decodeInstr (ext : Option (BitVec 28)) (w : Word) : Except WordError Instr :=
  let f := wordFields ext w
  let r := match wordClass w with
    | 0 => sClass (wordOp w) f
    | 1 => vClass (wordOp w) f
    | 2 => xClass (wordOp w) f
    | 3 => mClass (wordOp w) f
    | 4 => tClass (wordOp w) f
    | _ => none
  match r with
  | none => .error (if wordClass w < 5 then .unlistedOpcode else .reservedClass)
  | some i =>
    match entry i with
    | some (g, o) =>
      if g = f then .ok i else if ext.isSome then .error .misplacedExt
      else if (o.d.kind, o.a.kind, o.b.kind) = (.none, .none, .none) then .error .unusedField else .ok i
    | none => .ok i

/-- The slot of a word and its EXT word (R18, R26). -/
def decodeWord (ext : Option (BitVec 28)) (w : Word) : Except WordError SlotWord :=
  match decodeInstr ext w with
  | .ok i => .ok ⟨w.getLsbD 31, w.getLsbD 20, w.getLsbD 19, w.extractLsb' 16 3, i⟩
  | .error e => .error e

/-- The slot at the head of a run of words and the words after it. An EXT word joins the slot that follows it (R26). -/
def decodeSlot : List Word → Except WordError (SlotWord × List Word)
  | [] => .error .noWord
  | w :: ws =>
    if wordClass w = 5 then
      match ws with
      | [] => .error .misplacedExt
      | w' :: ws' =>
        if wordStop w || wordClass w' = 5 then .error .misplacedExt
        else (decodeWord (some (wordPayload w)) w').map (·, ws')
    else (decodeWord none w).map (·, ws)

/-- The words, lowest first, of a number of `n` words. -/
def wordsOf : Nat → Nat → List Word
  | 0, _ => []
  | n + 1, w => BitVec.ofNat 32 w :: wordsOf n (w / 2 ^ 32)

/-- The instruction that the decoder reads from the bits of a row of the operation table. -/
def decodeTableWord (nbits w : Nat) : Option Instr :=
  match decodeSlot (wordsOf ((nbits + 31) / 32) w) with
  | .ok (x, _) => some x.instr
  | .error _ => none

/-! ### The encoder -/

/-- The word of the fields of a slot in a class and opcode (R18). -/
def fieldsWord (x : SlotWord) (cls : BitVec 3) (op : BitVec 7) (f : Fields) : Word :=
  BitVec.ofBool x.stop ++ cls ++ op ++ BitVec.ofBool x.neg ++ BitVec.ofBool x.bank ++ x.gn ++ f.d ++ f.a ++ f.b
    ++ BitVec.ofBool f.md

/-- The EXT word of a payload (R26). -/
def extWord (p : BitVec 28) : Word := 0b0101#4 ++ p

/-- The words of a slot: its EXT word, where it has one, and its word; none for an event. -/
def encode (x : SlotWord) : List Word :=
  match entry x.instr with
  | none => []
  | some (f, o) =>
    let w := fieldsWord x (BitVec.ofNat 3 o.cls) (BitVec.ofNat 7 o.op) f
    match f.ext with
    | none => [w]
    | some p => [extWord p, w]

end Sys2Proof
end

