-- ==== Sys2Proof/Machine/Map.lean ====
section
/-! DEFINITION. Sparse tables: `List (Nat × α)` with keys strictly rising. `tget`, `tset` and `tdel` are the table
itself; `mget` and `mset` are a table with a default value, which is never listed, so that equal contents are equal data. -/

namespace Sys2Proof.Machine

variable {α : Type}

/-- The value listed first at a key. -/
def tget : SMap α → Nat → Option α
  | [], _ => none
  | (j, a) :: m, k => if j = k then some a else tget m k

/-- The table with a key listed at a value. -/
def tset : SMap α → Nat → α → SMap α
  | [], k, a => [(k, a)]
  | (j, b) :: m, k, a =>
    if k < j then (k, a) :: (j, b) :: m else if j = k then (k, a) :: m else (j, b) :: tset m k a

/-- The table with a key not listed. -/
def tdel : SMap α → Nat → SMap α
  | [], _ => []
  | (j, b) :: m, k => if j = k then tdel m k else (j, b) :: tdel m k

/-- The value at a key, `d` where the key is not listed. -/
def mget (d : α) (m : SMap α) (k : Nat) : α := (tget m k).getD d

/-- The table with a value at a key; the default value is not listed. -/
def mset [DecidableEq α] (d : α) (m : SMap α) (k : Nat) (a : α) : SMap α :=
  if a = d then tdel m k else tset m k a

/-- The table with a value changed by a function. -/
def mmod [DecidableEq α] (d : α) (m : SMap α) (k : Nat) (g : α → α) : SMap α := mset d m k (g (mget d m k))

/-- The table with the value of a listed key changed by a function. -/
def tmod (m : SMap α) (k : Nat) (g : α → α) : SMap α := m.map fun e => if e.1 = k then (k, g e.2) else e

/-- Every key of a table is at least `lo`, and keys rise strictly. -/
def rising : Nat → SMap α → Bool
  | _, [] => true
  | lo, (k, _) :: m => decide (lo ≤ k) && rising (k + 1) m

/-- The canonical form of a table with a default: keys strictly rising, no value equal to the default. -/
def mwf [DecidableEq α] (d : α) (m : SMap α) : Bool := rising 0 m && m.all (fun e => decide (e.2 ≠ d))

/-- The lowest key from `lo` up to `lo + n - 1` that the table does not list. -/
def freshKey (m : SMap α) : Nat → Nat → Nat
  | lo, 0 => lo
  | lo, n + 1 => if (tget m lo).isNone then lo else freshKey m (lo + 1) n

/-- `g i` at every `i` below `n` that differs from the default. -/
def mtab [DecidableEq α] (d : α) (n : Nat) (g : Nat → α) : SMap α :=
  (List.range n).filterMap fun i => let a := g i; if a = d then none else some (i, a)

/-- The entries whose keys lie from `lo` to `lo + n - 1`. -/
def mslice (m : SMap α) (lo n : Nat) : SMap α := m.filter fun e => decide (lo ≤ e.1 ∧ e.1 < lo + n)

/-- The table without the keys from `lo` to `lo + n - 1`. -/
def mcut (m : SMap α) (lo n : Nat) : SMap α := m.filter fun e => !decide (lo ≤ e.1 ∧ e.1 < lo + n)

/-- Entries for the keys from `a` on, a key that has none not listed. -/
def runFrom : Nat → List (Option α) → SMap α
  | _, [] => []
  | a, x :: xs => (x.map fun v => (a, v)).toList ++ runFrom (a + 1) xs

/-- The table with a run of keys from `a` on replaced. -/
def mrun (m : SMap α) (a : Nat) (xs : List (Option α)) : SMap α :=
  m.filter (fun e => decide (e.1 < a)) ++ runFrom a xs ++ m.filter fun e => decide (a + xs.length ≤ e.1)

/-! ### Bytes -/

/-- `n` bytes from address `a` on. -/
def readBytes (m : SMap Byte) (a n : Nat) : List Byte := (List.range n).map fun i => mget 0 m (a + i)

/-- The bytes written one after another from address `a` on. -/
def writeBytes (m : SMap Byte) (a : Nat) : List Byte → SMap Byte
  | [] => m
  | b :: bs => writeBytes (mset 0 m a b) (a + 1) bs

/-- A little-endian number (R7). -/
def leNat : List Byte → Nat
  | [] => 0
  | b :: bs => b.toNat + 256 * leNat bs

/-- The little-endian bytes of a number (R7). -/
def natLe : Nat → Nat → List Byte
  | 0, _ => []
  | n + 1, v => BitVec.ofNat 8 v :: natLe n (v / 256)

/-- A word of `w` bits from its little-endian bytes (R7). -/
def leWord (w : Nat) (bs : List Byte) : BitVec w := BitVec.ofNat w (leNat bs)

/-- The first `n` little-endian bytes of a word (R7). -/
def wordLe (n : Nat) {w : Nat} (v : BitVec w) : List Byte := natLe n v.toNat

/-- The number of one bits. -/
def popCount {w : Nat} (v : BitVec w) : Nat := (List.range w).foldl (fun n i => n + (v.getLsbD i).toNat) 0

/-- The lowest one bit, `w` where there is none. -/
def lowBit {w : Nat} (v : BitVec w) : Nat := ((List.range w).find? fun i => v.getLsbD i).getD w

/-- A word of `w` bits, bit `i` being `g i`. -/
def bitsOf (w : Nat) (g : Nat → Bool) : BitVec w := BitVec.ofNat w ((List.range w).foldr (fun i n => (g i).toNat + 2 * n) 0)

/-- A bit of a word set or cleared. -/
def setBit {w : Nat} (v : BitVec w) (i : Nat) (b : Bool) : BitVec w :=
  if b then v ||| (1#w <<< i) else v &&& ~~~(1#w <<< i)

/-- Bits `hi` to `lo` of a number as a number. -/
def field (v hi lo : Nat) : Nat := v / 2 ^ lo % 2 ^ (hi + 1 - lo)

end Sys2Proof.Machine
end

