-- ==== Sys2Proof/Machine/State.lean ====
section
/-! DEFINITION. The state of a K9 package as plain data, what can stop a step, and the state after reset. -/

namespace Sys2Proof.Machine

/-- What a step of the model cannot go on from. -/
inductive Fault where
  /-- A meaning of a slot was asked for while no bundle of the acting context is in progress. Raised by `exec` on a state
  in which `step` never calls it. Safe: nothing happens. -/
  | noBundle
  /-- An event from outside names a byte above the package's 768,000,000,000 bytes (R319), or in a block that a reset has removed from
  the memory map (R354). Raised by the events that carry an address from outside. Safe: the machine stops. -/
  | noSuchAddress
  deriving DecidableEq, Repr

/-- Why there is no meaning for an instruction. -/
inductive Refusal where
  /-- The instruction has no meaning in the model yet. Raised by `exec` alone. Safe: the machine stops. -/
  | notModelled (mnemonic : String)
  deriving DecidableEq, Repr

/-- A set of pages or slots: those listed, or all but those listed. -/
structure PageSet where
  all : Bool := false
  except : SMap Unit := []
  deriving DecidableEq, Repr

/-- Membership of a page set. -/
def PageSet.has (p : PageSet) (n : Nat) : Bool := p.all ^^ (tget p.except n).isSome

/-! ### Registers of a context -/

/-- The registers that instructions name: s0–s31, p0–p7, q0–q7, v0–v15, m0–m7 (R21, R22, R159), es0–es3 (R271) and
mp0–mp7 (R217), as they are visible to the next bundle. A register not listed holds 0. -/
structure Regs where
  s : SMap DWord := []
  p : BitVec 8 := 0
  q : BitVec 8 := 0
  v : SMap Lanes := []
  m : SMap Mask := []
  es : SMap DWord := []
  mp : SMap DWord := []
  deriving DecidableEq, Repr

/-- The control registers of a context (R124), with QPOS (R310). -/
structure Ctl where
  /-- STATUS[6:0]: INEVT, EVTEN, PRIV, SPLIT, RSLOT (R125); DEGRED is computed (R48). -/
  status : BitVec 7 := 0
  /-- CAUSE[7:0] (R266). -/
  cause : BitVec 8 := 0
  taddr : DWord := 0
  tbun : DWord := 0
  /-- EVTVEC, bits [1:0] 0 (R124). -/
  evtvec : DWord := 0
  /-- EVTSRC[7:0] (R270). -/
  evtsrc : BitVec 8 := 0
  /-- SAVEBASE, bits [21:0] 0 (R262). -/
  savebase : DWord := 0
  /-- DMR (R77). -/
  dmr : DWord := 0
  /-- LEGLIM[47:0] (R94). -/
  leglim : BitVec 48 := 0
  equota : DWord := 0
  eused : DWord := 0
  /-- FFLAGS[4:0] (R126). -/
  fflags : BitVec 5 := 0
  /-- FMODE[10:0] (R127). -/
  fmode : BitVec 11 := 0
  /-- EMASK[2:0] (R161). -/
  emask : BitVec 3 := 0
  rngkey : DWord := 0
  rngsrc : DWord := 0
  rngpos : DWord := 0
  qpos : DWord := 0
  /-- TBUDGET[31:0] (R93). -/
  tbudget : BitVec 32 := 0
  /-- XCNT: OFCNT and NVCNT (R209). -/
  xcnt : DWord := 0
  deriving DecidableEq, Repr

/-- CNTST, CNTRM and CNTAS (R116), the loss recorded in CNTRM (R118) and the events armed on them (R119). -/
structure Counters where
  st : Nat := 0
  rm : Nat := 0
  as : Nat := 0
  /-- CNTRM.LOSS, with the address of the first operation lost. -/
  loss : Option DWord := none
  /-- Thresholds of the armed events, by counter. -/
  armed : SMap (BitVec 32) := []
  /-- Events that have fired and have not been delivered (R270). -/
  fired : BitVec 3 := 0
  deriving DecidableEq, Repr

/-- The state of one hardware loop (R103); `order` tells the order of the last starts (R104), 0 for a counter that has
started no loop. -/
structure LoopState where
  active : Bool := false
  pipe : Bool := false
  start : DWord := 0
  stop : DWord := 0
  q : BitVec 7 := 0
  drain : Bool := false
  order : Nat := 0
  deriving DecidableEq, Repr

/-- lc0–lc3 and their loop states (R103). -/
structure Loops where
  lc : SMap DWord := []
  state : SMap LoopState := []
  deriving DecidableEq, Repr

/-- A stream register (R183, R184). `claims` are the claimed tiles in ring order: the claimer and whether it has retired
(R189); CLM is their number. -/
structure Stream where
  base : BitVec 32 := 0
  size : BitVec 32 := 0
  head : BitVec 32 := 0
  tail : BitVec 32 := 0
  fmtw : BitVec 32 := 0
  sbase : BitVec 32 := 0
  sstride : BitVec 32 := 0
  sdelta : BitVec 32 := 0
  cnt : Nat := 0
  fill : Nat := 0
  claims : List (Nat × Bool) := []
  deriving DecidableEq, Repr

/-- A row of the candidate file (R282). -/
structure Row where
  ent : List (Word × Word) := []
  rmode : Word := 0
  mt : Word := 0xFF800000
  st : Word := 0
  mdr : Word := 0xFF800000
  sdr : Word := 0
  key : Word := 0x7F800000
  rtok : Word := 0xFFFFFFFF
  ltok : List Word := List.replicate 8 0xFFFFFFFF
  lt : List Word := List.replicate 8 0xFF800000
  ld : List Word := List.replicate 8 0xFF800000
  lu : List Word := List.replicate 8 0
  lcap : BitVec 8 := 0
  deriving DecidableEq, Repr

/-- The candidate file (R282), PATH (R301) and the grammar mask (R296). -/
structure Cand where
  rows : SMap Row := []
  path : DWord := 0
  mask : Option (DWord × BitVec 32) := none
  deriving DecidableEq, Repr

/-- The extrapolation state (R246); METHOD is LSQ when `lsq`. -/
structure Xa where
  history : List Lanes := []
  depth : Nat := 2
  lsq : Bool := false
  tol : Word := 0
  tau : Word := 0
  prev : Option Lanes := none
  divz : Mask := 0
  stag : Mask := 0
  conv : Mask := 0
  deriving DecidableEq, Repr

/-- The units of a context beside its registers: accumulators (R133), streams (R184), cell pattern (R203), epilogue state
(R210), candidate file and extrapolation state. -/
structure Units where
  acc : SMap (SMap Word) := []
  st : SMap Stream := []
  cell : BitVec 128 := 0
  epi : SMap Byte := []
  cand : Cand := {}
  xa : Xa := {}
  deriving DecidableEq, Repr

/-! ### Writes that are not yet visible -/

/-- The destination and the value of a pending write (R39). -/
inductive RegWrite where
  | s (n : Nat) (x : DWord)
  | es (n : Nat) (x : DWord)
  | p (n : Nat) (b : Bool)
  | q (n : Nat) (b : Bool)
  /-- The lanes of `sel` take those of `x`. -/
  | v (n : Nat) (sel : Mask) (x : Lanes)
  /-- The bits `bits` of the lanes of `sel` take those of `x` (R173). -/
  | vBits (n : Nat) (bits : Word) (sel : Mask) (x : Lanes)
  /-- The bits of `sel` take those of `x`. -/
  | m (n : Nat) (sel x : Mask)
  | mp (n : Nat) (x : DWord)
  /-- A stream that takes effect at distance 8 (R185). -/
  | st (n : Nat) (x : Stream)
  /-- The lane flags of the extrapolation state (R247). -/
  | xa (divz stag conv : Mask)
  /-- The grammar mask (R296) and PATH (R301), which take effect at the next bundle. -/
  | grammar (m : Option (DWord × BitVec 32))
  | path (w : DWord)
  deriving DecidableEq, Repr

/-- How far the data of a landing slot has come (R109, R110). -/
inductive Arrival where
  | waiting | arrived | uncorrectable | failed
  deriving DecidableEq, Repr

/-- How the bytes of a landing become the value of its destination (R108, R111, R115). -/
inductive LandKind where
  | signed | unsigned | lanes
  deriving DecidableEq, Repr

/-- A landing slot's entry of the vestibule (R109), with the address of its access and that of the slot (R110), and whether the
slot is an atomic. -/
structure Landing where
  id : Nat
  addr : DWord
  slot : DWord
  kind : LandKind
  size : Nat
  status : Arrival
  atomic : Bool := false
  deriving DecidableEq, Repr

/-- An entry of the pending-write queue: the write, the bundle at which it becomes visible, and, for a landing slot, its
landing. -/
structure PWrite where
  due : Nat
  dest : RegWrite
  landing : Option Landing := none
  deriving DecidableEq, Repr

/-! ### The bundle in progress -/

/-- A slot and its position in the bundle, that of its EXT word when it has one (R31). -/
structure Placed where
  pos : Nat
  word : SlotWord
  deriving DecidableEq, Repr

/-- The operand latch (R42): the registers, control registers and counters as they stood when the bundle reached issue,
and the registers shared by the contexts of the core (R123). -/
structure Latch where
  regs : Regs := {}
  ctl : Ctl := {}
  cnt : Counters := {}
  oppt : BitVec 10 := 0
  slotmap : BitVec 9 := 0
  pwrmask : BitVec 9 := 0
  deriving DecidableEq, Repr

/-- The answer of a unit to the request of a slot (R82). -/
inductive Answer where
  | waiting
  /-- The slice controller holds a `slc.claim`, or a `slc.wait`, of a chain (R230). -/
  | slice (chain : Nat) (wait : Bool)
  /-- The checkpoint unit holds a `ckpt.begin` of a step (R344). -/
  | ckpt (step : DWord)
  | value (x : DWord)
  /-- The words of a record that has been read (R89). -/
  | words (ws : List DWord)
  /-- A copy whose descriptor has passed its checks (R86): source, scratchpad offset, length, and the places of the source: the
  peer's node, none for local memory, with the address there and the number of bytes. -/
  | copy (src : DWord) (dst len : Nat) (runs : List (Option Nat × Nat × Nat))
  /-- The unit refused the request with a trap, raised when the slots before it have committed. -/
  | refused (cause : BitVec 8) (taddr : Option DWord)
  deriving DecidableEq, Repr

/-- Where a bundle stands: it has not reached issue or is sending its requests, its requests are all sent and it has
blocked for the answers, or it has issued whole (R82). -/
inductive Stage where
  | asking | answered | issued
  deriving DecidableEq, Repr

/-- The next bundle: at an address, or the one after the bundle at an address (After of R104). -/
inductive NextPc where
  | at (a : DWord)
  | after (e : DWord)
  deriving DecidableEq, Repr

/-- What a slot makes happen after its whole bundle has committed (R80, R81, R255, R256, R268, R272); the snapshot of a
buffer phase holds what the bundle of its `bswap` leaves (R278, R279). -/
inductive EndAct where
  | yield | exit | rfe | rfu | yieldEr | erIdle (passes : Nat) | snap
  deriving DecidableEq, Repr

/-- A bundle in progress. `cur` counts the slots that have committed, `ask` those whose requests have been sent or that
make none, `popped` those whose pops have been made; `pipeFail` names the position of a slot whose pop or push can never
be served (R198). -/
structure Bundle where
  addr : DWord
  size : Nat
  slots : List Placed
  cur : Nat := 0
  ask : Nat := 0
  stage : Stage := .asking
  popped : Nat := 0
  /-- The slots that are left have been re-entered by `rfe` (R268). -/
  reentry : Bool := false
  pipeFail : Option Nat := none
  latch : Latch := {}
  /-- The popped values, by 64 × position + 4 × application + field (0 A, 1 B, 2 D, 3 the random vector of RS). -/
  pops : SMap Lanes := []
  /-- The answers, by position. -/
  answers : SMap Answer := []
  /-- Where a transfer slot that acted leads (R102). -/
  transfer : Option NextPc := none
  acts : List EndAct := []
  split : Bool := false
  deriving DecidableEq, Repr

/-- What a trap freezes (R265): the core's own copy of the bundle, the pending writes and the loops. `next` is the bundle
after the trapped one. -/
structure Frame where
  bundle : Option Bundle := none
  pend : List PWrite := []
  count : Nat := 0
  loops : Loops := {}
  noissue : Bool := false
  next : NextPc := .at 0
  deriving DecidableEq, Repr

/-- What the delivery of a user event freezes (R270). -/
structure EventFrame where
  pend : List PWrite := []
  count : Nat := 0
  deriving DecidableEq, Repr

/-- A trap to be raised before the next bundle (R267); `id` tells the order of the causes' issue. -/
structure Deferred where
  id : Nat
  cause : BitVec 8
  taddr : DWord
  /-- The word's index that trap entry writes for a routine error (R221). -/
  word : Option Nat := none
  deriving DecidableEq, Repr

/-! ### Tasks -/

/-- A kernel header record (R73). -/
structure Header where
  code : DWord := 0
  ns : Nat := 1
  nv : Nat := 0
  nm : Nat := 0
  nacc : Nat := 0
  nst : Nat := 0
  nmp : Nat := 0
  nbar : Nat := 0
  npipe : Nat := 0
  scratch : Nat := 0
  ctx : Nat := 1
  level : Nat := 0
  cf : Bool := false
  role : Nat := 0
  deriving DecidableEq, Repr

/-- A launch record (R68). -/
structure Record where
  kind : Nat := 0
  notify : Bool := false
  prot : Bool := false
  grid : Nat := 0
  kaddr : DWord := 0
  param : DWord := 0
  kaddr2 : DWord := 0
  kaddr3 : DWord := 0
  pipemap : BitVec 32 := 0
  jobtag : BitVec 32 := 0
  leglim : DWord := 0
  equota : DWord := 0
  ibuf : DWord := 0
  deadline : DWord := 0
  key : DWord := 0
  seq : BitVec 32 := 0
  deriving DecidableEq, Repr

/-- A stash window (R333): the physical page and the W permission of each 64 KiB, and the lines that are FILLED and OWNED
with their W and R. -/
structure Window where
  gbase : DWord
  spg : Nat
  npg : Nat
  pages : List (Nat × Bool)
  lines : SMap (Nat × Nat) := []
  deriving DecidableEq, Repr

/-- What a bundle that blocks waits for. -/
inductive Wait where
  /-- The conditions of issue: pops, room for pushes, random vectors, room in the matrix queue (R23, R198, R201, R310). -/
  | issue
  /-- Answers to its requests (R82). -/
  | answer
  /-- A matrix queue entry has retired (R207, R212). -/
  | entry (id : Nat)
  /-- An accumulator is not busy (R212, R213). -/
  | acc (n : Nat)
  /-- A ring has room for `n` tiles, or no tile of it is claimed (R190). -/
  | room (st n : Nat)
  /-- The operations of the context that claim or fill tiles of a stream have retired (R185). -/
  | stream (st : Nat)
  /-- The `stset` of a stream by an earlier bundle has taken effect (R187). -/
  | stset (st : Nat)
  /-- Earlier asynchronous writes to a range of the scratchpad have retired (R194). -/
  | written (a len : Nat)
  /-- No routine of the core is running or suspended (R215). -/
  | routine
  /-- No routine of the context is queued or running (R217). -/
  | ownRoutine
  /-- The peer data of a blocking read has come (R360). -/
  | read
  /-- The context has no outstanding landing or pending write (R272, R278). -/
  | landings
  /-- The cancel of a phase (R279). -/
  | cancel
  deriving DecidableEq, Repr

/-- Where a context stands on its core (R79, R80, R94). -/
inductive RunState where
  | ready
  /-- A bundle of the context blocks. -/
  | blocked (why : Wait)
  /-- A gang member that is not ready for edges; `passes` are the firings still to be made on its behalf (R255, R256). -/
  | edges (passes : Nat)
  /-- The task has ended; the context waits for its counters. -/
  | ended
  deriving DecidableEq, Repr

/-- A tile store held in a buffer phase (R86, R194): the memory writes, lowest row first, and the operation. -/
structure HeldStore where
  id : Nat
  writes : List (Nat × List Byte)
  deriving DecidableEq, Repr

/-- Who a task is (R11, R73, R75 to R78). -/
structure Task where
  /-- The number of the placement, different for every task. -/
  uid : Nat := 0
  grid : Nat := 0
  index : Nat := 0
  hdr : Header := {}
  record : Record := {}
  queue : Nat := 0
  /-- The scratchpad allocation: its start and size on the core (R182). -/
  spBase : Nat := 0
  spSize : Nat := 0
  /-- The gang slot, for a member of a gang (R251). -/
  gslot : Option Nat := none
  /-- The uids of loader, computer and storer of the instance. -/
  mates : List Nat := []
  /-- Pipe of the core that each local pipe is bound to, as the popping and as the pushing end (R78). -/
  popEnd : SMap Nat := []
  pushEnd : SMap Nat := []
  deriving DecidableEq, Repr

/-- The leg of a context: the cycles for which it has held the core, a request, with the count at which it was raised (R94), a
suspension due for energy (R277), and a drain in progress (R273). -/
structure Leg where
  count : Nat := 0
  request : Option Nat := none
  energy : Bool := false
  draining : Bool := false
  deriving DecidableEq, Repr

/-- A set of the registers that a kernel header declares (R73): s, v, m, mp and st. -/
structure Absent where
  s : BitVec 32 := 0
  v : BitVec 16 := 0
  m : BitVec 8 := 0
  mp : BitVec 8 := 0
  st : BitVec 16 := 0
  deriving DecidableEq, Repr

/-- A tile of a ring as an operation takes it: the scratchpad addresses of its slot and scale slot, the format and CMP
(R182, R183). -/
structure Tile where
  stream : Nat
  base : Nat
  scale : Nat
  fmt : Nat
  cmp : Bool
  deriving DecidableEq, Repr

/-- Where a row of a `tdacc` lies: in the scratchpad, or at a physical address, with the address that it came from (R214). -/
inductive RowPlace where
  | spad (a : Nat)
  | mem (pa : Nat) (va : DWord)
  deriving DecidableEq, Repr

/-- The destination of a `tdrain` (R212). -/
inductive DrainDest where
  /-- Registers F to F + n − 1 from output row FROW; done with the slot. -/
  | regs (f n frow : Nat)
  /-- Ring slots, the first from byte FILL of every row; `bands` is where B4 writes its band values. -/
  | ring (ts : List Tile) (fill bands : Nat)
  /-- The candidate path, with PATH. -/
  | cand (path : DWord)
  deriving DecidableEq, Repr

/-- What a pass over candidate rows latched at issue (R286, R296, R297): the masked tokens of each row, the replay words,
and the generator. Rows and tokens count from the first that the control word names; a replay word has the number
128 × row + token. -/
structure PassLatch where
  masked : SMap (BitVec 128) := []
  replay : Option (SMap Word) := none
  rngkey : DWord := 0
  rngpos : DWord := 0
  deriving DecidableEq, Repr

/-- An entry of the matrix queue with what it latched at issue (R201). -/
inductive MatOp where
  | mma (acc : Nat) (a b : Tile) (cell : Option (BitVec 128))
  | spmma (fine : Bool) (acc : Nat) (a b0 b1 : Tile) (info : List Lanes)
  | comp (fine : Bool) (d : Nat) (a0 a1 out : Tile)
  | zero (acc : Nat)
  | drain (acc : Nat) (epi : SMap Byte) (e4nan : Bool) (bias : Nat) (dest : DrainDest) (pass : PassLatch)
  | dacc (clamp : Bool) (acc : Nat) (rows : List RowPlace)
  /-- A routine from a word on, with the STATUS of the bundle that called it. -/
  | call (word : Nat) (status : BitVec 7)
  | vproj (race regen : Bool) (acc : Nat) (a b : Tile) (ctl : DWord) (pass : PassLatch)
  | vprojPair (race : Bool) (acc : Nat) (ts : List Tile) (ctl : DWord) (pass : PassLatch)
  deriving DecidableEq, Repr

/-- A matrix queue entry of a context (R201): whether it has executed, its exception counts so far, and the metadata that
a `tcomp` has made. -/
structure MatEntry where
  id : Nat
  uid : Nat
  ctx : Nat
  op : MatOp
  done : Bool := false
  xof : Nat := 0
  xnv : Nat := 0
  reads : List (Nat × Nat) := []
  writes : List (Nat × Nat) := []
  deriving DecidableEq, Repr

/-- A loop of a routine (R219): its first word, the word after its last, and the passes that remain. -/
structure RLoop where
  first : Nat
  stop : Nat
  left : Nat
  deriving DecidableEq, Repr

/-- A routine that the engine runs, or that was pre-empted at a `tstep` (R218 to R220). -/
structure Routine where
  uid : Nat
  entry : Nat
  word : Nat
  status : BitVec 7 := 0
  loops : List RLoop := []
  deriving DecidableEq, Repr

/-- The part of a context's state that a phase snapshot holds (R278). -/
structure Snapshot where
  regs : Regs := {}
  ctl : Ctl := {}
  loops : Loops := {}
  st : SMap Stream := []
  epi : SMap Byte := []
  xa : Xa := {}
  pend : List PWrite := []
  count : Nat := 0
  pc : NextPc := .at 0
  routine : Option Routine := none
  parked : List MatEntry := []
  deriving DecidableEq, Repr

/-- The buffer phase of a task (R86, R278 to R280): its number, the descriptor that opened it, the stores and the XCNT
deltas held, the snapshot, and whether an irrevocable act or a cancel has happened in it. -/
structure PhaseBuf where
  k : Nat := 0
  desc : Option DWord := none
  held : List HeldStore := []
  xof : Nat := 0
  xnv : Nat := 0
  snap : Option Snapshot := none
  irrevocable : Bool := false
  cancelled : Bool := false
  /-- A cancel is due and waits for the asynchronous operations (R279). -/
  cancel : Bool := false
  deriving DecidableEq, Repr

/-- A hardware context and the task on it. -/
structure Ctx where
  task : Task := {}
  run : RunState := .ready
  regs : Regs := {}
  ctl : Ctl := {}
  cnt : Counters := {}
  loops : Loops := {}
  units : Units := {}
  pc : NextPc := .at 0
  /-- Bundles issued so far: the number of the next bundle (R39). -/
  count : Nat := 0
  pend : List PWrite := []
  bundle : Option Bundle := none
  frame : Option Frame := none
  eframe : Option EventFrame := none
  deferred : List Deferred := []
  windows : SMap Window := []
  buf : PhaseBuf := {}
  /-- `phase` instructions committed, and whether the phase is a communication phase (R85). -/
  phases : Nat := 0
  comm : Bool := false
  leg : Leg := {}
  /-- FIRES of a gang member (R254). -/
  fires : BitVec 32 := 0
  /-- Registers absent after a resumption (R275). -/
  absent : Absent := {}
  /-- Registers written since the context last came onto its core (R274). -/
  dirty : Absent := {}
  /-- Data of peer reads that a blocked slot waits for (R360). -/
  peerBuf : SMap Byte := []
  /-- The address of a byte of such a read that came marked uncorrectable. -/
  peerBad : Option DWord := none
  /-- Vectors that the generator has made ahead (R310). -/
  rqAhead : Nat := 0
  /-- Whether the task ended by a trap that no handler took (R71). -/
  trapped : Bool := false
  /-- Whether the open phase has its input and its snapshot (R86, R279). -/
  opened : Bool := false
  /-- The last slot that ran has stalled (R191): the model's own, so that something else goes on first (log 1). -/
  stalled : Bool := false
  /-- A routine pre-empted at a `tstep`, its `tcall` entry and the entries behind it, which have left the queue (R220). -/
  parkedRoutine : Option Routine := none
  parked : List MatEntry := []
  deriving DecidableEq, Repr

/-! ### A core -/

/-- The operations of an atomic with its operands (R114). -/
structure Amo where
  op : AmoOp
  md : Bool
  b : DWord
  cmp : DWord
  deriving DecidableEq, Repr

/-- A store or atomic of a context that has not left its counter (R112, R115, R327): the bytes of each 64-byte line, and
whether it has taken its place in the order. -/
structure Access where
  id : Nat
  uid : Nat
  ctx : Nat
  pieces : List (Nat × List Byte)
  amo : Option Amo := none
  placed : Bool := false
  deriving DecidableEq, Repr

/-- An asynchronous operation outside the matrix queue (R192), with its scratchpad footprint (R191) and the stream that it
fills. -/
structure Async where
  id : Nat
  uid : Nat
  ctx : Nat
  reads : List (Nat × Nat) := []
  writes : List (Nat × Nat) := []
  /-- The rows of a load or copy: where each lies in the scratchpad, the address that it came from, and its length. -/
  rows : List (Nat × DWord × Nat) := []
  /-- The rows whose data was marked uncorrectable (R197). -/
  bad : List Nat := []
  stream : Option Nat := none
  load : Bool := false
  copy : Bool := false
  deriving DecidableEq, Repr

/-- A pipe (R198): its entries, oldest first, each with the pusher's T (R331), and the tasks at its ends. -/
structure Pipe where
  entries : List (Lanes × Nat) := []
  pusher : Nat := 0
  popper : Nat := 0
  deriving DecidableEq, Repr

/-- A copy of a line in L1 (R326). -/
structure L1Line where
  data : List Byte
  w : Nat
  e : Nat
  deriving DecidableEq, Repr

/-- A task that was suspended: its context and the slot that it left (R94, R274). `quota` holds a task whose energy quota is
used up, and `grant` a further quota that it takes at resumption (R277); `since` is the step at which it was suspended. -/
structure Suspended where
  ctx : Ctx
  slot : Nat
  quota : Bool := false
  grant : Option DWord := none
  since : Nat := 0
  deriving DecidableEq, Repr

/-- A core (R2) with its scratchpad, matrix engine and edge entries. -/
structure Core where
  ctxs : SMap Ctx := []
  suspended : SMap Suspended := []
  /-- The context that holds the core, and the one that ran last (R79). -/
  running : Option Nat := none
  last : Nat := 7
  rstore : SMap Word := []
  queue : List MatEntry := []
  routine : Option Routine := none
  spad : SMap Byte := []
  pipes : SMap Pipe := []
  outq : List Access := []
  async : List Async := []
  slotmap : BitVec 9 := 0x1FF
  pwrmask : BitVec 9 := 0x1FF
  /-- OPPT: CAP, SETTLE, TGT, CUR (R128). -/
  oppt : BitVec 10 := 0
  ccyc : DWord := 0
  /-- T (R327), and the ticks of 128 running cycles that have been counted in it. -/
  t : Nat := 0
  ticks : Nat := 0
  l1 : SMap L1Line := []
  /-- The instruction cache: copies of local lines as they stood when they were fetched (R323). -/
  icache : SMap (List Byte) := []
  /-- Blocks of 256 bytes of the scratchpad that are marked uncorrectable (R353). -/
  spadBad : SMap Unit := []
  /-- The 64 edge entries of the core (R251, R252). -/
  edges : SMap DWord := []
  /-- GTIME as this core reads it, in ticks from the true time (R130): 0 to 4 for −2 to 2. -/
  skew : Fin 5 := 2
  /-- Out of every core mask for a lasting fault of its matrix engine or special-function unit (R44). -/
  removed : Bool := false
  deriving DecidableEq, Repr

/-! ### The package -/

/-- A step of a walk (R224): chain, slice, the step at which the chain was opened, and the number of the walk. -/
structure WalkStep where
  chain : Nat
  slice : Nat
  opened : Nat
  walk : Nat
  deriving DecidableEq, Repr

/-- An accepted entry of a queue, in order (R72, R224): on chip, still in the window, or queued by a walk for a slice. -/
inductive QItem where
  | onChip (bytes : List Byte)
  | inWindow (seq : BitVec 32)
  | walk (bytes : List Byte) (step : WalkStep)
  deriving DecidableEq, Repr

/-- A launch queue (R67 to R72). -/
structure Queue where
  enable : Bool := false
  qsize : Nat := 16
  cfg : QueueCfg := ⟨0, 0, 100000, none, 0⟩
  expected : BitVec 32 := 0
  consumed : BitVec 32 := 0
  cdone : BitVec 32 := 0
  items : List QItem := []
  /-- GTIME at which the TIMEOUT timer of the watched slot started (R70). -/
  timer : Option Nat := none
  /-- The grid that runs, and one that waits at the head unplaced or partly placed (R74, R75). -/
  running : Option Nat := none
  waiting : Option Nat := none
  /-- A tail launch to run next: the record, read at its parent's retirement, and the parent's SEQ (R87). -/
  tail : Option (List Byte × BitVec 32) := none
  deriving DecidableEq, Repr

/-- A grid or gang (R74, R75, R80). -/
structure Grid where
  queue : Nat
  record : Record
  hdrs : List Header
  seq : BitVec 32
  /-- The walk step that queued it (R224). -/
  walk : Option WalkStep := none
  /-- Instances placed so far; unplaced ones are discarded when `cut` (R67). -/
  placed : Nat := 0
  cut : Bool := false
  done : Nat := 0
  ended : Nat := 0
  /-- Contexts not yet freed. -/
  live : Nat := 0
  tail : Option DWord := none
  /-- The core from which the next task searches (R75). -/
  from_ : Nat := 0
  /-- The step at which its first task was placed (R235), and that at which the dispatcher took it from the head (R94). -/
  born : Nat := 0
  taken : Nat := 0
  deriving DecidableEq, Repr

/-- A generation of a barrier (R83): who has arrived, by uid, and, at level 5, how many chips of the group. -/
structure Barrier where
  grid : Nat
  level : Nat
  dom : Nat
  n : Nat
  arrived : List Nat := []
  peers : Nat := 0
  sent : Bool := false
  deriving DecidableEq, Repr

/-- An entry of the request heap (R15). -/
structure HeapEntry where
  deadline : DWord
  id : BitVec 32
  cost : BitVec 16
  deriving DecidableEq, Repr

/-- STATE of a slice context (R229). -/
inductive SliceState where
  | free | provisional | settled | faulted | retired
  deriving DecidableEq, Repr

/-- A deferred-fault record (R228, R243). -/
structure FRec where
  cause : BitVec 8
  taddr : DWord
  tbun : DWord
  rslot : BitVec 3
  gen : Nat
  coarse : Bool
  delivered : Bool := false
  deriving DecidableEq, Repr

/-- A slice context (R229). `again` lets a settled slice whose record was cleared be claimed once more (R235); `passed`
says that its context serves slice n + W (R242). -/
structure Slice where
  state : SliceState := .free
  gen : Nat := 0
  jump : Word := 0x7F800000
  part : Option Word := none
  claim : Option Nat := none
  lastClaim : Nat := 0
  due : Bool := false
  again : Bool := false
  frec : Option FRec := none
  pages : List Nat := []
  passed : Bool := false
  deriving DecidableEq, Repr

/-- The phase of a chain (R224, R241): a walk at a slice, a hold, a fine phase, complete. -/
inductive ChainPhase where
  | walk (next : Nat) (awaits : Option Nat)
  | hold | fine | complete
  deriving DecidableEq, Repr

/-- An open chain (R223, R229). -/
structure Chain where
  token : Bool
  n : Nat
  w : Nat
  tol : Word
  rbase : DWord
  rstride : Nat
  offsets : List Nat
  crec : DWord
  cq : Nat
  pgmax : Nat
  pool : List Nat
  owner : Nat
  ownerQueue : Nat
  phase : ChainPhase
  /-- The step at which it was opened (R235). -/
  opened : Nat
  walks : Nat := 0
  cairn : Nat := 0
  slices : SMap Slice := []
  /-- Whether a walk has ended, the chain has completed, or an `slc.accept` was performed since the owner's last `slc.wait`
  was answered (R225, R240). -/
  news : Bool := false
  deriving DecidableEq, Repr

/-- A line at its home in L2 (R328). -/
structure HomeLine where
  w : Nat := 0
  r : Nat := 0
  own : Option Nat := none
  deriving DecidableEq, Repr

/-- A translation that the TLBs hold (R322): queue, size in address bits, physical base and the leaf's bits [5:2]. -/
structure TlbEntry where
  queue : Nat
  base : Nat
  bits : Nat
  pa : Nat
  perm : BitVec 4
  deriving DecidableEq, Repr

/-- A remote operation that has not been answered (R118, R341). -/
structure Remote where
  core : Nat
  ctx : Nat
  uid : Nat
  node : Nat
  addr : DWord
  len : Nat
  /-- The landing that it answers, for a load or an atomic with a destination. -/
  landing : Option Nat
  /-- Whether it counts in CNTRM (a store or atomic). -/
  counts : Bool
  /-- The copy that it is part of, and where its data goes in the scratchpad (R86). -/
  copy : Option (Nat × Nat) := none
  /-- Not 0 for a part of a store that is sent to several homes: the number that its parts share (R112). -/
  group : Nat := 0
  /-- The bytes at the home: offsets and lengths (R121). -/
  spans : List (Nat × Nat) := []
  issued : Nat
  deriving DecidableEq, Repr

/-- A read at an address for which a blocked slot of a task waits (R360). -/
def Remote.awaited (r : Remote) (uid : Nat) (a : DWord) : Bool :=
  r.uid = uid && r.addr = a && r.landing.isNone && !r.counts && r.copy.isNone

/-- An entry of the node table (R340). -/
structure Node where
  ports : BitVec 16 := 0xFFFF
  failed : Bool := false
  deriving DecidableEq, Repr

/-- A seal or diff whose copy has not been acknowledged (R344): the step, the image, the pages still to be copied, and the
task that issued it. -/
structure CkptCopy where
  step : DWord
  image : Nat
  left : PageSet
  core : Nat
  uid : Nat
  issued : Nat
  deriving DecidableEq, Repr

/-- A generation of pre-images (R346): those of the snapshot of a step, and the 64 KiB of the undo area that each is in. -/
structure UndoGen where
  step : DWord := 0
  pages : SMap (SMap Byte) := []
  places : SMap Nat := []
  incomplete : Bool := false
  active : Bool := false
  deriving DecidableEq, Repr

/-- The checkpoint unit (R342 to R346). -/
structure Ckpt where
  cfg : CkptCfg := ⟨0, 0, 0, 0, 0, 0, 0⟩
  opened : Option DWord := none
  last : DWord := 0
  ds0 : PageSet := {}
  ds1 : PageSet := {}
  copy : Option CkptCopy := none
  undo0 : UndoGen := {}
  undo1 : UndoGen := {}
  deriving DecidableEq, Repr

/-- A slow-down notice (R351): the point, when it lapses, when it arrived, the cores that it has been applied to, and the CAP of
each before and after. -/
structure Notice where
  point : BitVec 8
  until_ : DWord
  arrived : Nat
  applied : List Nat := []
  saved : SMap (BitVec 3) := []
  given : SMap (BitVec 3) := []
  deriving DecidableEq, Repr

/-- What the package has sent through its ports or to the host, oldest first. -/
inductive Message where
  /-- A copy of a completion entry (R71). -/
  | notify (addr : DWord) (entry : List Byte)
  | load (id node off len : Nat)
  | store (id node : Nat) (pieces : List (Nat × List Byte))
  | atomic (id node off : Nat) (amo : Amo)
  /-- The answer to a read or an atomic of a peer or of the host (R330), and whether it is marked uncorrectable (R353). -/
  | data (bytes : List Byte) (bad : Bool)
  | ack
  /-- Arrivals at a level 5 barrier (R83). -/
  | arrival (jobtag : BitVec 32) (n : Nat)
  /-- A page of a checkpoint image (R344). -/
  | ckptPage (addr : Nat) (data : SMap Byte)
  | slowdown (jobtag : BitVec 32) (point : BitVec 8) (until_ : DWord)
  /-- A page that the host is to remove (R352), a shard lost (R348), a job lost and a stage of a recovery (R349). -/
  | pageWorn (page : Nat)
  | shardLost
  | jobLost (jobtag : BitVec 32)
  | recovery (stage : Nat)
  /-- A signed attestation report (R356). -/
  | report (bytes : List Byte)
  deriving DecidableEq, Repr

/-- The memory system of the package (R319 to R336). -/
structure Memory where
  /-- Physical memory: the bytes that differ from 0 (log 2). -/
  bytes : SMap Byte := []
  lines : SMap HomeLine := []
  /-- MEMT of each slice (R325). -/
  memt : SMap Nat := []
  /-- The fabric interface's RT (R330). -/
  rt : Nat := 0
  /-- The TLBs: that of core n at n, that of cluster k at 144 + k (R322). -/
  tlbs : SMap (List TlbEntry) := []
  /-- Invalidations requested and not complete: queue, base and length (R322). -/
  invals : List (Nat × Nat × Nat) := []
  /-- Blocks marked uncorrectable (R353), and those that a reset has removed from the memory map (R354). -/
  bad : SMap Unit := []
  gone : SMap Unit := []
  deriving DecidableEq, Repr

/-- An access of several lines that has arrived and is not wholly performed (R313): the lines that are left, lowest first, all the
pieces of a write, and, for a read, the bytes read so far, up to the first of a marked block, and whether there was one. -/
structure Arriving where
  reads : List (Nat × Nat) := []
  writes : List (Nat × List (Nat × List Byte)) := []
  pieces : List (Nat × List Byte) := []
  data : Option (List Byte) := none
  bad : Bool := false
  deriving DecidableEq, Repr

/-- The fabric (R339 to R341). -/
structure Fabric where
  nodes : SMap Node := []
  /-- The node number of this package, which the system controller gives at reset (R319, log 54). -/
  own : Nat := 0
  ftimeout : Nat := 10000000
  remotes : SMap Remote := []
  /-- Ports that are down (R354). -/
  portsDown : BitVec 16 := 0
  arriving : SMap Arriving := []
  /-- The recoveries under way (R349): by job, the node that failed, and whether the job is lost. -/
  recovering : SMap (Nat × Bool) := []
  deriving DecidableEq, Repr

/-- Power, repair and firmware (R350 to R356). -/
structure Board where
  plimit : Nat := 3400
  notices : SMap Notice := []
  /-- Quiesced channels by stack, rows recorded for fusing, and rows fused (R352). -/
  quiesced : SMap Nat := []
  repairs : List (Nat × Nat × Nat) := []
  fused : List (Nat × Nat × Nat) := []
  /-- The record of lasting faults (R354): ports, blocks, and the dead engines of each core as SLOTMAP bits. -/
  faultPorts : BitVec 16 := 0
  faultBlocks : SMap Unit := []
  faultEngines : SMap (BitVec 9) := []
  /-- The images installed, those that run, the fused minimum version and whether the package is in its recovery loader
  (R355). -/
  images : List Firmware := []
  running : List Firmware := []
  minVersion : Nat := 0
  recovery : Bool := false
  deriving DecidableEq, Repr

/-- Who makes the next step: the running context of a core, or the routine of its matrix engine. -/
inductive Actor where
  | core (n : Nat)
  | engine (n : Nat)
  deriving DecidableEq, Repr

/-- A turn of the agenda (log 1): an event with what it brings, or a step of an actor. -/
inductive Turn where
  | event (i : Instr) (x : Input)
  | actor (a : Actor)
  deriving DecidableEq, Repr

/-- The K9 package. The last six fields are the model's own (log 1): who acts, the turns to come, what the present event
brings, the number of steps made, the next number for operations and tasks, and the chains opened and closed. -/
structure State where
  cores : SMap Core := []
  queues : SMap Queue := []
  /-- The queue that the dispatcher served last (R74). -/
  served : Nat := 63
  grids : SMap Grid := []
  barriers : List Barrier := []
  heap : List HeapEntry := []
  /-- The greatest T that the dispatcher has heard, and that of the edge unit of each cluster (R331). -/
  dispT : Nat := 0
  edgeT : SMap Nat := []
  chains : SMap Chain := []
  /-- The time of the slice controller (R238, R331). -/
  slcT : Nat := 0
  mem : Memory := {}
  fabric : Fabric := {}
  ckpt : Ckpt := {}
  board : Board := {}
  gtime : DWord := 0
  sent : List Message := []
  actor : Actor := .core 0
  agenda : List Turn := []
  input : Input := .none
  clock : Nat := 0
  fresh : Nat := 1
  /-- The chains closed, with the step at which each had been opened (R235). -/
  chainLog : SMap Nat := []
  deriving DecidableEq, Repr

/-- The machine right after reset (R44, R129, R252, R327, and the values of log 2 and log 3). -/
def State.reset : State := {}

end Sys2Proof.Machine
end

