-- ==== Sys2Proof/Machine/Loops.lean ====
section
/-! DEFINITION. The hardware loops of a context (R103 to R106, R273). -/

namespace Sys2Proof.Machine

def Loops.counter (l : Loops) (n : Nat) : DWord := mget 0 l.lc n

def Loops.get (l : Loops) (n : Nat) : LoopState := mget {} l.state n

def Loops.set (l : Loops) (n : Nat) (x : LoopState) : Loops := { l with state := mset {} l.state n x }

def Loops.setCounter (l : Loops) (n : Nat) (x : DWord) : Loops := { l with lc := mset 0 l.lc n x }

/-- COUNT and STAGES of a loop counter (R103). -/
def countOf (x : DWord) : Nat := (x.extractLsb' 0 32).toNat
def stagesOf (x : DWord) : Nat := (x.extractLsb' 32 3).toNat

/-- The counter with COUNT replaced. -/
def withCount (x : DWord) (n : Nat) : DWord := x.extractLsb' 32 32 ++ BitVec.ofNat 32 n

/-- EndLoopsFrom(N) (R104): loop N and every active loop started after the last start of counter N. -/
def Loops.endFrom (l : Loops) (n : Nat) : Loops :=
  let o := (l.get n).order
  if o = 0 then l else
    { l with state := l.state.map fun e => if o ≤ e.2.order then (e.1, { e.2 with active := false }) else e }

/-- The order number of the next start. -/
def Loops.nextOrder (l : Loops) : Nat := (l.state.foldl (fun m e => max m e.2.order) 0) + 1

/-- PassStart(L) (R104): the loops, and the q predicates to be written. -/
def Loops.passStart (l : Loops) (n : Nat) : Loops × List (Nat × Bool) :=
  let x := l.get n
  let c := l.counter n
  let allow := countOf c ≠ 0 ∧ !x.drain
  let q := (2 * x.q.toNat + (decide allow).toNat) % 2 ^ stagesOf c
  let l := l.set n { x with q := BitVec.ofNat 7 q }
  let l := if allow then l.setCounter n (withCount c (countOf c - 1)) else l
  (l, (List.range (stagesOf c)).map fun i => (i + 1, q.testBit i))

/-- The active loop with END at an address that was started last (R105). -/
def Loops.lastAt (l : Loops) (a : DWord) : Option Nat :=
  ((List.range 4).filter fun n => (l.get n).active && (l.get n).stop = a).foldl (fun best n =>
    match best with
    | none => some n
    | some m => if (l.get m).order < (l.get n).order then some n else some m) none

/-- The end of a bundle at an address at which loops may end (R105, R273): the loops, the q predicates to be written, the
next bundle where a loop goes on, whether an iteration boundary was reached at which an action that is due is to be taken,
and whether a drain goes on. -/
structure LoopEnd where
  loops : Loops
  qs : List (Nat × Bool)
  next : Option DWord
  take : Bool
  draining : Bool
  deriving DecidableEq, Repr

/-- R105 with the drains of R273. `due` says that an action is due, `draining` that a drain has begun, amid which no
boundary of an inner loop takes the action. COUNT is a field of 32 bits and wraps below 0 (log 61). -/
def Loops.iterate (a : DWord) (due : Bool) : Nat → Loops → List (Nat × Bool) → Bool → Bool → LoopEnd
  | 0, l, qs, take, draining => ⟨l, qs, none, take, draining⟩
  | fuel + 1, l, qs, take, draining =>
    match l.lastAt a with
    | none => ⟨l, qs, none, take, draining⟩
    | some n =>
      let x := l.get n
      if !x.pipe then
        let c := (countOf (l.counter n) + (2 ^ 32 - 1)) % 2 ^ 32
        let l := l.setCounter n (withCount (l.counter n) c)
        if c ≠ 0 then ⟨l, qs, some x.start, due && !draining, draining⟩
        else Loops.iterate a due fuel (l.set n { x with active := false }) qs (due && !draining) draining
      else if due && !draining && 1 < popCount x.q then
        let (l, ws) := (l.set n { x with drain := true }).passStart n
        ⟨l, qs ++ ws, some x.start, false, true⟩
      else
        let (l, ws) := l.passStart n
        let y := l.get n
        if y.drain then
          if y.q ≠ 0 then ⟨l, qs ++ ws, some x.start, false, true⟩
          else if countOf (l.counter n) ≠ 0 then ⟨l, qs ++ ws, some x.start, true, false⟩
          else Loops.iterate a due fuel (l.set n { y with active := false, drain := false }) (qs ++ ws) true false
        else if y.q ≠ 0 then ⟨l, qs ++ ws, some x.start, due && !draining, draining⟩
        else Loops.iterate a due fuel (l.set n { y with active := false }) (qs ++ ws) (due && !draining) draining

/-- The loops at the end of a bundle (R105). -/
def Loops.endOf (l : Loops) (a : DWord) (due draining : Bool) : LoopEnd :=
  Loops.iterate a due 4 l [] false draining

/-- The loop that a drain has parked (R273). -/
def Loops.parked (l : Loops) : Option Nat :=
  (List.range 4).find? fun n => (l.get n).active && (l.get n).drain

end Sys2Proof.Machine
end

