-- ==== Sys2Proof/Machine/Float.lean ====
section
/-! DEFINITION. Number formats, exact values, and rounding with its flags (R134 to R152). Every operation computes the
exact value and rounds it once. -/

namespace Sys2Proof.Machine

/-! ### Formats -/

/-- A floating-point or scale format (R135). `p` is the number of mantissa bits, `width` the number of bits of a code. -/
structure Fmt where
  width : Nat
  p : Nat
  bias : Nat
  /-- The magnitude of the code of the largest finite value. -/
  maxCode : Nat
  /-- Whether the code after the largest finite one is an infinity. -/
  infinite : Bool
  /-- The canonical NaN (R136), where the format has one. -/
  nan : Option Nat
  signed : Bool
  deriving DecidableEq, Repr

def fmtE2M1 : Fmt := ⟨4, 1, 1, 0x7, false, none, true⟩
def fmtE2M3 : Fmt := ⟨6, 3, 1, 0x1F, false, none, true⟩
def fmtE3M2 : Fmt := ⟨6, 2, 3, 0x1F, false, none, true⟩
def fmtE4M3 : Fmt := ⟨8, 3, 7, 0x7E, false, some 0x7F, true⟩
def fmtE5M2 : Fmt := ⟨8, 2, 15, 0x7B, true, some 0x7E, true⟩
def fmtF16 : Fmt := ⟨16, 10, 15, 0x7BFF, true, some 0x7E00, true⟩
def fmtBf16 : Fmt := ⟨16, 7, 127, 0x7F7F, true, some 0x7FC0, true⟩
def fmtF32 : Fmt := ⟨32, 23, 127, 0x7F7FFFFF, true, some 0x7FC00000, true⟩
def fmtE3M5 : Fmt := ⟨8, 5, 3, 0xFF, false, none, false⟩

/-- An exact value: `fin` is ± n / d × 2^e with d > 0, a zero having n = 0 and keeping its sign. -/
inductive Num where
  | nan
  | inf (neg : Bool)
  | fin (neg : Bool) (n d : Nat) (e : Int)
  deriving DecidableEq, Repr

/-- A zero of a sign. -/
def Num.zero (neg : Bool) : Num := .fin neg 0 1 0

/-- An integer as a value. -/
def Num.ofInt (i : Int) : Num := .fin (decide (i < 0)) i.natAbs 1 0

def Num.isZero : Num → Bool
  | .fin _ 0 _ _ => true
  | _ => false

def Num.isNan : Num → Bool
  | .nan => true
  | _ => false

def Num.isInf : Num → Bool
  | .inf _ => true
  | _ => false

def Num.isFinite : Num → Bool
  | .fin _ _ _ _ => true
  | _ => false

/-- The sign of a value. -/
def Num.neg : Num → Bool
  | .nan => false
  | .inf s => s
  | .fin s _ _ _ => s

def Num.negate : Num → Num
  | .nan => .nan
  | .inf s => .inf !s
  | .fin s n d e => .fin (!s) n d e

def Num.abs : Num → Num
  | .nan => .nan
  | .inf _ => .inf false
  | .fin _ n d e => .fin false n d e

/-- The magnitude of a finite code (R136). -/
def Fmt.magnitude (f : Fmt) (c : Nat) : Nat × Int :=
  let m := c % 2 ^ f.p
  let e := c / 2 ^ f.p
  if e = 0 then (m, 1 - (f.bias : Int) - f.p) else (2 ^ f.p + m, (e : Int) - f.bias - f.p)

/-- The value of a code (R136). -/
def Fmt.value (f : Fmt) (code : Nat) : Num :=
  let s := f.signed && code.testBit (f.width - 1)
  let c := if f.signed then code % 2 ^ (f.width - 1) else code % 2 ^ f.width
  if c ≤ f.maxCode then let (n, e) := f.magnitude c; .fin s n 1 e
  else if f.infinite ∧ c = f.maxCode + 1 then .inf s
  else .nan

/-- The value of an E8M0 code (R136). -/
def e8m0Value (code : Nat) : Num := if code % 256 = 0xFF then .nan else .fin false 1 1 ((code % 256 : Nat) - 127)

/-- The value of a BF16, an FP16 or an FP32 code. -/
def f32 (w : Word) : Num := fmtF32.value w.toNat
def bf16 (w : BitVec 16) : Num := fmtBf16.value w.toNat

def canonicalNan : Word := 0x7FC00000
def f32Inf : Word := 0x7F800000
def f32NegInf : Word := 0xFF800000

/-! ### Exact arithmetic -/

/-- n × 2^e over d as a fraction of naturals. -/
def scaled (n d : Nat) (e : Int) : Nat × Nat := if e < 0 then (n, d * 2 ^ e.natAbs) else (n * 2 ^ e.natAbs, d)

/-- The comparison of two magnitudes: whether the first is below the second. -/
def magLt (n d : Nat) (e : Int) (n' d' : Nat) (e' : Int) : Bool :=
  let (a, b) := scaled (n * d') (n' * d) (e - e')
  decide (a < b)

/-- The flags of R126. -/
def flagNx : BitVec 5 := 1
def flagUf : BitVec 5 := 2
def flagOf : BitVec 5 := 4
def flagDz : BitVec 5 := 8
def flagNv : BitVec 5 := 16

/-- The sum of two values (R152): RDN makes a zero sum −0. -/
def Num.add (rdn : Bool) : Num → Num → Num × BitVec 5
  | .nan, _ => (.nan, 0)
  | _, .nan => (.nan, 0)
  | .inf s, .inf t => if s = t then (.inf s, 0) else (.nan, flagNv)
  | .inf s, _ => (.inf s, 0)
  | _, .inf t => (.inf t, 0)
  | .fin s n d e, .fin t n' d' e' =>
    if n = 0 ∧ n' = 0 then (.zero (if s = t then s else rdn), 0)
    else if n = 0 then (.fin t n' d' e', 0)
    else if n' = 0 then (.fin s n d e, 0)
    else
      let m := min e e'
      let x := n * d' * 2 ^ (e - m).natAbs
      let y := n' * d * 2 ^ (e' - m).natAbs
      if s = t then (.fin s (x + y) (d * d') m, 0)
      else if x = y then (.zero rdn, 0)
      else if y < x then (.fin s (x - y) (d * d') m, 0)
      else (.fin t (y - x) (d * d') m, 0)

/-- The product of two values (R152). -/
def Num.mul : Num → Num → Num × BitVec 5
  | .nan, _ => (.nan, 0)
  | _, .nan => (.nan, 0)
  | .inf s, .inf t => (.inf (s ^^ t), 0)
  | .inf s, .fin t n _ _ => if n = 0 then (.nan, flagNv) else (.inf (s ^^ t), 0)
  | .fin s n _ _, .inf t => if n = 0 then (.nan, flagNv) else (.inf (s ^^ t), 0)
  | .fin s n d e, .fin t n' d' e' => (.fin (s ^^ t) (n * n') (d * d') (e + e'), 0)

/-- The quotient of two finite values, the second not 0. -/
def Num.divFin : Num → Num → Num
  | .fin s n d e, .fin t n' d' e' => .fin (s ^^ t) (n * d') (d * n') (e - e')
  | _, _ => .nan

/-- The exact difference of two values. -/
def Num.sub (x y : Num) : Num := (x.add false y.negate).1

/-- The exact quotient of two values, with the quotients of infinities and zeros that IEEE 754 gives. -/
def Num.div (x y : Num) : Num :=
  match x, y with
  | .nan, _ | _, .nan | .inf _, .inf _ => .nan
  | .inf s, y => .inf (s ^^ y.neg)
  | x, .inf t => .zero (x.neg ^^ t)
  | x, y => if y.isZero then (if x.isZero then .nan else .inf (x.neg ^^ y.neg)) else x.divFin y

/-- D + A × B with one rounding to come; a product of 0 and ∞ is invalid whatever D is (R164). -/
def Num.fma (rdn : Bool) (d a b : Num) : Num × BitVec 5 :=
  let (p, fl) := a.mul b
  if fl ≠ 0 then (.nan, fl) else d.add rdn p

/-- A < B for values that are not NaN, −0 equal to +0. -/
def Num.lt : Num → Num → Bool
  | .nan, _ => false
  | _, .nan => false
  | .inf s, .inf t => s && !t
  | .inf s, _ => s
  | _, .inf t => !t
  | .fin s n d e, .fin t n' d' e' =>
    if n = 0 ∧ n' = 0 then false
    else
      let s := s && n != 0
      let t := t && n' != 0
      if s ≠ t then s else if s then magLt n' d' e' n d e else magLt n d e n' d' e'

/-- A = B for values, −0 equal to +0. -/
def Num.eq (x y : Num) : Bool := !x.isNan && !y.isNan && !x.lt y && !y.lt x

def Num.le (x y : Num) : Bool := x.lt y || x.eq y

/-! ### Rounding -/

/-- The rounding modes (R127). -/
inductive RMode where
  | rne | rz | rdn | rup | rs
  deriving DecidableEq, Repr

/-- FMODE.RM (R127). -/
def roundingMode : Nat → RMode
  | 1 => .rz
  | 2 => .rdn
  | 3 => .rup
  | 4 => .rs
  | _ => .rne

/-- How a conversion rounds: the mode, FMODE.E4NAN, and the random bits of RS (R148, R150, R151). -/
structure Rnd where
  mode : RMode
  e4nan : Bool
  r : Nat
  k : Nat
  deriving DecidableEq, Repr

/-- Nearest with ties to even. -/
def rne : Rnd := ⟨.rne, false, 0, 0⟩

def Rnd.rdn (r : Rnd) : Bool := r.mode = .rdn

/-- ⌊log2(n / d × 2^e)⌋ for n, d > 0. -/
def floorLog2 (n d : Nat) (e : Int) : Int :=
  let k : Int := (n.log2 : Int) - d.log2
  if magLt n d 0 1 1 k then k - 1 + e else k + e

/-- The rounding of the fraction n / d to an integer: the integer, and whether it is inexact (R148). -/
def roundInt (rm : Rnd) (neg : Bool) (n d : Nat) : Nat × Bool :=
  let a := n / d
  let rest := n % d
  let up := match rm.mode with
    | .rne => decide (d < 2 * rest) || (2 * rest = d && a % 2 = 1)
    | .rz => false
    | .rup => !neg && rest != 0
    | .rdn => neg && rest != 0
    | .rs => rest != 0 && decide (rm.r < rest * 2 ^ rm.k / d)
  (if up then a + 1 else a, rest != 0)

/-- The code of an overflow (R151). -/
def Fmt.overflow (f : Fmt) (rm : Rnd) (neg : Bool) : Nat :=
  if f.infinite then
    match rm.mode with
    | .rne | .rs => f.maxCode + 1
    | .rz => f.maxCode
    | .rup => if neg then f.maxCode else f.maxCode + 1
    | .rdn => if neg then f.maxCode + 1 else f.maxCode
  else match f.nan with
    | some c => if rm.e4nan then c else f.maxCode
    | none => f.maxCode

/-- A magnitude with a sign as a code; the NaN of a format has no sign. -/
def Fmt.signCode (f : Fmt) (neg : Bool) (c : Nat) : Nat :=
  if f.signed ∧ neg ∧ f.nan ≠ some c then 2 ^ (f.width - 1) + c else c

/-- Round of R148 with R151 and R152: the code and the flags. -/
def Fmt.round (f : Fmt) (rm : Rnd) : Num → Nat × BitVec 5
  | .nan => match f.nan with
    | some c => (c, 0)
    | none => (0, flagNv)
  | .inf s =>
    if f.infinite then (f.signCode s (f.maxCode + 1), 0)
    else (f.signCode s (match f.nan with
      | some c => if rm.e4nan then c else f.maxCode
      | none => f.maxCode), flagNv)
  | .fin s n d e =>
    if n = 0 then (f.signCode s 0, 0) else
    let q := max (floorLog2 n d e - f.p) (1 - (f.bias : Int) - f.p)
    let (x, y) := scaled n d (e - q)
    let (a, inexact) := roundInt rm s x y
    let c := ((q + f.p + f.bias - 1).toNat) * 2 ^ f.p + a
    let (mn, me) := f.magnitude f.maxCode
    if f.maxCode < c ∨ (rm.mode = .rs ∧ magLt mn 1 me n d e) then (f.signCode s (f.overflow rm s), flagOf ||| flagNx)
    else if inexact then
      (f.signCode s c, if magLt n d e 1 1 (1 - f.bias) then flagUf ||| flagNx else flagNx)
    else (f.signCode s c, 0)

/-- The result of an operation that may be invalid: the flags of the operation and of its rounding. -/
def Fmt.result (f : Fmt) (rm : Rnd) (x : Num × BitVec 5) : Nat × BitVec 5 :=
  let (c, fl) := f.round rm x.1
  (c, fl ||| x.2)

/-- A value rounded to nearest as an f32 code, without flags. -/
def toF32 (x : Num) : Word := BitVec.ofNat 32 (fmtF32.round rne x).1

def toBf16 (x : Num) : BitVec 16 := BitVec.ofNat 16 (fmtBf16.round rne x).1

/-- The conversion to an integer of a range (R151). -/
def roundToInt (rm : Rnd) (lo hi : Int) : Num → Int × BitVec 5
  | .nan => (0, flagNv)
  | .inf s => (if s then lo else hi, flagNv)
  | .fin s n d e =>
    let (x, y) := scaled n d e
    let (a, inexact) := roundInt rm s x y
    let i : Int := if s then -(a : Int) else a
    if i < lo then (lo, flagNv) else if hi < i then (hi, flagNv) else (i, if inexact then flagNx else 0)

/-- The smallest code of a format of positive values whose value is at least x (RoundUpBf16, RoundUpE3M5 of R143). -/
def Fmt.roundUp (f : Fmt) (x : Num) : Nat := (f.round ⟨.rup, false, 0, 0⟩ x).1

/-- The greater of two magnitudes that are not NaN. -/
def Num.max (x y : Num) : Num := if x.lt y then y else x

/-! ### Quantisation -/

/-- The largest finite magnitude of a block; 0 where it holds no finite value (DESIGN CHOICE, log 76). -/
def maxFinite (xs : List Num) : Num :=
  xs.foldl (fun m x => if x.isFinite then m.max x.abs else m) (.zero false)

/-- One element of QuantB4 (R143): the E2M1 code and the flags; `scale` is the value of the block's scale. Where that is 0 the quotient
has no value: a zero gives the zero of its sign and no flag (DESIGN CHOICE, log 64), and another element, which only the free code of
log 11 brings there, gives ±6 with NV (DESIGN CHOICE, log 63). -/
def quantB4Element (rm : Rnd) (scale y : Num) : Nat × BitVec 5 :=
  match y with
  | .nan => (0, flagNv)
  | .inf s => (fmtE2M1.signCode s 7, flagNv)
  | y => if y.isZero then (fmtE2M1.signCode y.neg 0, 0)
    else if scale.isZero then (fmtE2M1.signCode y.neg 7, flagNv)
    else fmtE2M1.round rm (y.divFin scale)

/-- RoundUpE3M5 (R143). Above the largest code's value, which no band that QuantB4 chooses gives, the code is a free value
(log 11). -/
def roundUpE3M5 (x : Num) : Nat :=
  match x with
  | .fin _ n d e => if (Num.ofInt 63).lt (.fin false n d (e + 1)) then (Config.scaleBeyond n d e).toNat else fmtE3M5.roundUp x
  | _ => 0

/-- A block of QuantB4 (R143): the scale code, and the E2M1 codes with their flags. `rm i` rounds element i. -/
def quantB4Block (rm : Nat → Rnd) (band : Num) (xs : List Num) : Nat × List (Nat × BitVec 5) :=
  let ys := xs.map fun x => if x.isFinite then x.divFin band else x
  let bm := maxFinite ys
  let code := if bm.isZero then 0 else roundUpE3M5 (bm.divFin (.ofInt 6))
  (code, ys.zipIdx.map fun (y, i) => quantB4Element (rm i) (fmtE3M5.value code) y)

/-- The band value of QuantB4 (R143). -/
def quantB4Band (xs : List Num) : Nat :=
  let a := maxFinite xs
  if a.isZero then 0x3F80 else fmtBf16.roundUp (a.divFin (.ofInt 189))

/-- emax of the element format of an MX target (R144). -/
def mxEmax : Nat → Int
  | 1 => 2
  | 2 => 4
  | 8 => 8
  | _ => 15

/-- The element format of a format code (R134); the codes of B4 and of the MX formats name their elements. -/
def elementFmt : Nat → Fmt
  | 0 => fmtE2M1
  | 1 => fmtE2M3
  | 2 => fmtE3M2
  | 3 | 8 => fmtE4M3
  | 4 | 9 => fmtE5M2
  | 5 => fmtBf16
  | _ => fmtF16

/-- A block of an MX target (R144): the E8M0 code, and the element codes with their flags. -/
def quantMxBlock (rm : Nat → Rnd) (target : Nat) (xs : List Num) : Nat × List (Nat × BitVec 5) :=
  let code : Nat := match maxFinite xs with
    | .fin _ n d e => if n = 0 then 0 else (min (max (floorLog2 n d e - mxEmax target + 127) 0) 254).toNat
    | _ => 0
  (code, xs.zipIdx.map fun (x, i) =>
    (elementFmt target).round (rm i) (x.mul (.fin false 1 1 (127 - code))).1)

end Sys2Proof.Machine
end

