-- ==== Sys2Proof/Machine/Memory.lean ====
section
/-! DEFINITION. The parts of the state, physical memory at its home slices with logical time (R324 to R330), stash
recalls (R336), and dirty bits and pre-images (R343 to R346). -/

namespace Sys2Proof.Machine

/-! ### The parts of the state -/

/-- Core `n`; one that nothing has touched is as after reset. -/
def State.core (s : State) (n : Nat) : Core := mget {} s.cores n

def State.setCore (s : State) (n : Nat) (k : Core) : State := { s with cores := mset {} s.cores n k }

/-- Context `c` of core `n`, where a task is on it. -/
def State.ctx? (s : State) (n c : Nat) : Option Ctx := tget (s.core n).ctxs c

/-- Context `c` of core `n`. -/
def State.ctx (s : State) (n c : Nat) : Ctx := (s.ctx? n c).getD {}

def State.setCtx (s : State) (n c : Nat) (x : Ctx) : State :=
  s.setCore n { s.core n with ctxs := tset (s.core n).ctxs c x }

/-- A context changed by a function. -/
def State.modCtx (s : State) (n c : Nat) (g : Ctx → Ctx) : State := s.setCtx n c (g (s.ctx n c))

/-- A core changed by a function. -/
def State.modCore (s : State) (n : Nat) (g : Core → Core) : State := s.setCore n (g (s.core n))

def State.queue (s : State) (q : Nat) : Queue := mget {} s.queues q

def State.setQueue (s : State) (q : Nat) (x : Queue) : State := { s with queues := mset {} s.queues q x }

def State.send (s : State) (m : Message) : State := { s with sent := s.sent ++ [m] }

/-- A number that nothing has used, and the state that has used it. -/
def State.takeId (s : State) : Nat × State := (s.fresh, { s with fresh := s.fresh + 1 })

/-- The core's logical time raised to at least `t` (R327). -/
def State.raiseT (s : State) (n t : Nat) : State := s.modCore n fun k => { k with t := max k.t t }

/-- The contexts of a core, those suspended included. -/
def Core.tasks (k : Core) : List Ctx := k.ctxs.map (·.2) ++ k.suspended.map (·.2.ctx)

/-- The tasks of a context of a core: the one on it, and those suspended from it. -/
def Core.tasksAt (k : Core) (c : Nat) : List Ctx :=
  (tget k.ctxs c).toList ++ (k.suspended.filter fun e => e.2.slot = c).map (·.2.ctx)

/-- The context of a core whose task has a number, whether it is on a context or suspended. -/
def Core.findTask (k : Core) (uid : Nat) : Option Ctx := k.tasks.find? fun x => x.task.uid = uid

/-- The context of a task changed by a function, whether it is on a context or suspended. -/
def Core.modTask (k : Core) (uid : Nat) (g : Ctx → Ctx) : Core :=
  { k with
    ctxs := k.ctxs.map fun e => if e.2.task.uid = uid then (e.1, g e.2) else e
    suspended := k.suspended.map fun e => if e.2.ctx.task.uid = uid then (e.1, { e.2 with ctx := g e.2.ctx }) else e }

/-- The dispatcher hears from a core (R331). -/
def State.hear (s : State) (n : Nat) : State := { s with dispT := max s.dispT (s.core n).t }

/-- STATUS.PRIV, INEVT and EVTEN (R125). -/
def Ctl.priv (c : Ctl) : Bool := c.status.getLsbD 4
def Ctl.evten (c : Ctl) : Bool := c.status.getLsbD 5
def Ctl.inevt (c : Ctl) : Bool := c.status.getLsbD 6

/-! ### What caches keep -/

/-- The copies that a cache of `cap` places keeps when it fills a line, with room for it: which ones it drops is free (log 53). -/
def keepCopies {α : Type} (cache clock line cap : Nat) (m : SMap α) : SMap α :=
  let kept := m.filter fun e => !Config.cacheDrops cache clock line e.1
  if kept.length < cap then kept
  else
    match kept[Config.cacheVictim cache clock line % kept.length]? with
    | some e => tdel kept e.1
    | none => kept

/-- The lines of the L1 data cache (1.5 MiB), of the instruction cache (256 KiB) and of an L2 slice (4 MiB) (R2). -/
def l1Lines : Nat := 24576
def icacheLines : Nat := 4096
def sliceLines : Nat := 65536

/-- A copy of a line enters the L1 of a core (R326); which others it drops is free (log 53). -/
def Core.keepL1 (k : Core) (clock l : Nat) (c : L1Line) : Core :=
  { k with l1 := tset (keepCopies 0 clock l l1Lines k.l1) l c }

/-! ### Lines at their home -/

/-- The 64-byte line of a local physical address (R324). -/
def lineOf (p : Nat) : Nat := p / 64

/-- The home slice of a local physical address (R324). -/
def homeSlice (p : Nat) : Nat := p / 256 % 96

/-- The stack of a local physical address (R325). -/
def homeStack (p : Nat) : Nat := p / 4096 % 8

/-- A line at its home; one that L2 does not hold is filled from HBM with W = R = MEMT (R325). -/
def Memory.line (m : Memory) (l : Nat) : HomeLine :=
  match tget m.lines l with
  | some x => x
  | none => let t := mget 0 m.memt (homeSlice (64 * l)); { w := t, r := t }

def Memory.setLine (m : Memory) (l : Nat) (x : HomeLine) : Memory := { m with lines := tset m.lines l x }

/-- A slice evicts a line that no stash owns (R325). -/
def Memory.evict (m : Memory) (l : Nat) : Option Memory :=
  (tget m.lines l).bind fun h =>
    if h.own.isSome then none
    else
      let n := homeSlice (64 * l)
      some { m with lines := tdel m.lines l, memt := mset 0 m.memt n (max (mget 0 m.memt n) h.r) }

/-- Room for a line in its slice: a full slice evicts one that no stash owns (R2, R325); which one is free (log 53). -/
def Memory.makeRoom (m : Memory) (clock l : Nat) : Memory :=
  let here := m.lines.filter fun e => homeSlice (64 * e.1) = homeSlice (64 * l)
  if (tget m.lines l).isSome ∨ here.length < sliceLines then m
  else
    let free := here.filter fun e => e.2.own.isNone
    match free[Config.cacheVictim 2 clock l % free.length]? with
    | some e => (m.evict e.1).getD m
    | none => m

/-- A slice that holds more lines than it has places evicts lines that no stash owns (R2, R325); which ones is free (log 53). -/
def Memory.fitSlice (m : Memory) (clock n : Nat) : Memory :=
  let here := m.lines.filter fun e => homeSlice (64 * e.1) = n
  let free := here.filter fun e => e.2.own.isNone
  let k := Config.cacheVictim 2 clock n % free.length
  ((free.drop k ++ free.take k).take (here.drop sliceLines).length).foldl (fun m e => (m.evict e.1).getD m) m

/-- Every slice keeps to its size after a write of many lines (R2). -/
def Memory.fit (m : Memory) (clock : Nat) : Memory :=
  if m.lines.length ≤ sliceLines then m else (List.range 96).foldl (fun m n => m.fitSlice clock n) m

/-- The filled line of a window that holds a physical line, by its index: 1,024 lines to a page (R333). Of several pages of a window
on one physical page only one holds the line FILLED, since a line has one owner. -/
def Window.lineIndex (w : Window) (l : Nat) : Option Nat :=
  (w.lines.find? fun e => ((w.pages.getD (e.1 / 1024) (0, false)).1 + 64 * (e.1 % 1024)) / 64 = l).map (·.1)

/-- The window of a core that owns a physical line, with the task, the window's number and the line's index in it. -/
def Core.stashOf (k : Core) (l : Nat) : Option (Ctx × Nat × Window × Nat) :=
  k.tasks.findSome? fun x => x.windows.findSome? fun e => (e.2.lineIndex l).map fun i => (x, e.1, e.2, i)

/-- The scratchpad address of a line of a window. -/
def Window.spad (w : Window) (x : Ctx) (i : Nat) : Nat := x.task.spBase + 65536 * w.spg + 64 * i

/-- The current 64 bytes of a line: those of its owner's stash, or those at the home (R335). -/
def State.lineData (s : State) (l : Nat) : List Byte :=
  match (s.mem.line l).own with
  | none => readBytes s.mem.bytes (64 * l) 64
  | some n =>
    match (s.core n).stashOf l with
    | some (x, _, w, i) => readBytes (s.core n).spad (w.spad x i) 64
    | none => readBytes s.mem.bytes (64 * l) 64

/-- The current bytes of memory, without an access. -/
def State.peek (s : State) (a len : Nat) : List Byte :=
  (List.range len).map fun i =>
    match tget s.mem.lines (lineOf (a + i)) with
    | some ⟨_, _, some _⟩ => (s.lineData (lineOf (a + i))).getD ((a + i) % 64) 0
    | _ => mget 0 s.mem.bytes (a + i)

/-! ### Checkpointing (R343 to R346) -/

/-- The page of the shard that a local address lies in (R342). -/
def Ckpt.page (k : Ckpt) (a : Nat) : Option Nat :=
  if k.cfg.ckbase ≤ a ∧ a < k.cfg.ckbase + k.cfg.cklen then some ((a - k.cfg.ckbase) / 65536) else none

/-- A page set with a page put in or taken out. -/
def PageSet.put (p : PageSet) (n : Nat) (b : Bool) : PageSet :=
  if b = p.all then { p with except := tdel p.except n } else { p with except := tset p.except n () }

/-- The current contents of a page of the shard, by offset within the page. -/
def State.pageData (s : State) (page : Nat) : SMap Byte :=
  let a := s.ckpt.cfg.ckbase + 65536 * page
  (mslice s.mem.bytes a 65536).map fun e => (e.1 - a, e.2)

/-- A page of a seal or diff is copied to the buddy (R345). -/
def State.copyPage (s : State) (page : Nat) : State :=
  match s.ckpt.copy with
  | none => s
  | some c =>
    if c.left.has page then
      let a := s.ckpt.cfg.resv + s.ckpt.cfg.cklen * c.image + 65536 * page
      { s with ckpt := { s.ckpt with copy := some { c with left := c.left.put page false } } }.send
        (.ckptPage a (s.pageData page))
    else s

/-- The undo generation of image 0 or 1. -/
def Ckpt.undo (k : Ckpt) (x : Nat) : UndoGen := if x = 0 then k.undo0 else k.undo1

def Ckpt.setUndo (k : Ckpt) (x : Nat) (u : UndoGen) : Ckpt := if x = 0 then { k with undo0 := u } else { k with undo1 := u }

/-- The first 64 KiB of the undo area that holds no pre-image (log 55). -/
def Ckpt.undoRoom (k : Ckpt) : Option Nat :=
  let used := (k.undo0.places ++ k.undo1.places).map (·.2)
  ((List.range (used.length + 1)).find? fun i => !used.contains i).filter fun i => i < k.cfg.undolen / 65536

/-- The bytes of a page put at an address. -/
def putBytes (m : SMap Byte) (a : Nat) (data : SMap Byte) : SMap Byte :=
  data.foldl (fun m e => mset 0 m (a + e.1 % 65536) e.2) (mcut m a 65536)

/-- Some bytes lie in a block that a reset has removed from the memory map (R354). -/
def Memory.anyGone (m : Memory) (a len : Nat) : Bool := m.gone.any fun e => 256 * e.1 < a + len && a < 256 * (e.1 + 1)

/-- Blocks that a reset has removed from the memory map hold nothing (R354). -/
def Memory.dropGone (m : Memory) : Memory :=
  if m.gone = [] then m else { m with bytes := m.bytes.filter fun e => (tget m.gone (e.1 / 256)).isNone }

/-- Every byte of a block of 256 bytes lies in one of some spans, each an address and a length. -/
def coversBlock (spans : List (Nat × Nat)) (block : Nat) : Bool :=
  (List.range 256).all fun i => spans.any fun p => p.1 ≤ 256 * block + i && 256 * block + i < p.1 + p.2

/-- The marks after a write of some spans: a block that they cover whole takes a new check value (R353). -/
def Memory.unmark (m : Memory) (spans : List (Nat × Nat)) : Memory :=
  { m with bad := m.bad.filter fun e => !coversBlock spans e.1 }

/-- 64 KiB of memory written whole by a unit of the package. -/
def Memory.putBlock (m : Memory) (a : Nat) (data : SMap Byte) : Memory :=
  ({ m with bytes := putBytes m.bytes a data } : Memory).dropGone.unmark [(a, 65536)]

/-- The pre-image of a page is copied into the generation of image `x` in the undo area, where that generation has none of it; it is
INCOMPLETE where the area has no room (R346). -/
def State.keepImage (s : State) (x page : Nat) : State :=
  let u := s.ckpt.undo x
  if !u.active || (tget u.pages page).isSome then s
  else
    match s.ckpt.undoRoom with
    | none => { s with ckpt := s.ckpt.setUndo x { u with incomplete := true } }
    | some i =>
      let d := s.pageData page
      { s with
        ckpt := s.ckpt.setUndo x { u with pages := tset u.pages page d, places := tset u.places page i }
        mem := s.mem.putBlock (s.ckpt.cfg.undobase + 65536 * i) d }

/-- What happens at the home of a page before a write of it performs: a page that a seal is still to copy is copied
(R345), and the pre-images of the page are kept (R346). Then DS0 and DS1 are set (R343). -/
def State.beforeWrite (s : State) (a : Nat) : State :=
  match s.ckpt.page a with
  | none => s
  | some p =>
    let s := ((s.copyPage p).keepImage 0 p).keepImage 1 p
    { s with ckpt := { s.ckpt with ds0 := s.ckpt.ds0.put p true, ds1 := s.ckpt.ds1.put p true } }

/-- Bytes written at their home: memory alone, with what R343 to R346 do before it. -/
def State.writeHome (s : State) (a : Nat) (bs : List Byte) : State :=
  let s := s.beforeWrite a
  { s with mem := { s.mem with bytes := writeBytes s.mem.bytes a bs } }

/-! ### Recalls, loads and stores by logical time -/

/-- A recall of a line from the stash that owns it: data, W and R go home (R336). -/
def State.recall (s : State) (l : Nat) : State :=
  match (s.mem.line l).own with
  | none => s
  | some n =>
    match (s.core n).stashOf l with
    | none => { s with mem := s.mem.setLine l { s.mem.line l with own := none } }
    | some (x, j, w, i) =>
      let (lw, lr) := (tget w.lines i).getD (0, 0)
      let s := s.writeHome (64 * l) (readBytes (s.core n).spad (w.spad x i) 64)
      let s := s.setCore n ((s.core n).modTask x.task.uid fun y =>
        { y with windows := tset y.windows j { w with lines := tdel w.lines i } })
      { s with mem := s.mem.setLine l { w := lw, r := lr, own := none } }

/-- The owner of a line is recalled, and its slice has room for it. -/
def State.reach (s : State) (l : Nat) : State :=
  let s := s.recall l
  { s with mem := s.mem.makeRoom s.clock l }

/-- A load of a line by core `n` (R328): the state and the line's data. The L1 has dropped what it pleased (log 53). -/
def State.loadLine (s : State) (n : Nat) (allocate : Bool) (l : Nat) : State × List Byte :=
  let t := (s.core n).t
  let miss : State × List Byte :=
    let s := s.reach l
    let h := s.mem.line l
    let t := max t (h.w + 1)
    let d := readBytes s.mem.bytes (64 * l) 64
    let s := { s with mem := s.mem.setLine l { h with r := max h.r (t + 32) } }
    let s := if allocate then s.modCore n fun k => k.keepL1 s.clock l ⟨d, h.w, t + 32⟩ else s
    (s.raiseT n t, d)
  match tget (s.core n).l1 l with
  | some c => if c.w < t ∧ t ≤ c.e then (s, c.data) else miss
  | none => miss

/-- The L1 copy of a line after the home has answered a store of the core (R326). -/
def Core.updateL1 (k : Core) (a t : Nat) (bs : List Byte) : Core :=
  match tget k.l1 (lineOf a) with
  | none => k
  | some c =>
    let d := (List.range 64).map fun i =>
      if a % 64 ≤ i ∧ i < a % 64 + bs.length then bs.getD (i - a % 64) 0 else c.data.getD i 0
    { k with l1 := tset k.l1 (lineOf a) ⟨d, t, t⟩ }

/-- Pieces that lie in one line performed at the home at time `t`, as core `n` sees it (R328). -/
def State.storeLine (s : State) (n t l : Nat) (ps : List (Nat × List Byte)) : State :=
  let h := s.mem.line l
  let s := ps.foldl (fun s p => s.writeHome p.1 p.2) s
  let s := { s with mem := s.mem.setLine l { h with w := t, r := t } }
  s.modCore n fun k => ps.foldl (fun k p => k.updateL1 p.1 t p.2) k

/-- A store by core `n` of pieces that lie in one line: one access (R328). -/
def State.storePieces (s : State) (n l : Nat) (ps : List (Nat × List Byte)) : State :=
  let s := s.reach l
  let t := max (s.core n).t ((s.mem.line l).r + 1)
  (s.storeLine n t l ps).raiseT n t

/-- Pieces, none of which crosses a line, by their lines. -/
def byLine (ps : List (Nat × List Byte)) : SMap (List (Nat × List Byte)) :=
  ps.foldl (fun m p => mmod [] m (lineOf p.1) (· ++ [p])) []

/-- Where pieces lie. -/
def spansOf (parts : List (Nat × List Byte)) : List (Nat × Nat) := parts.map fun p => (p.1, p.2.length)

/-- Pieces stored by core `n`, one access for each line in ascending address (R328). -/
def State.storeAll (s : State) (n : Nat) (ps : List (Nat × List Byte)) : State :=
  let s := (byLine ps).foldl (fun s e => s.storePieces n e.1 e.2) s
  { s with mem := s.mem.unmark (spansOf ps) }

/-- Pieces stored by core `n` in one indivisible step at the homes of their lines (R214): every line takes one time. -/
def State.storeTogether (s : State) (n : Nat) (ps : List (Nat × List Byte)) : State :=
  let ls := byLine ps
  let s := ls.foldl (fun s e => s.recall e.1) s
  let t := ls.foldl (fun t e => max t ((s.mem.line e.1).r + 1)) (s.core n).t
  let s := (ls.foldl (fun s e => s.storeLine n t e.1 e.2) s).raiseT n t
  { s with mem := (s.mem.unmark (spansOf ps)).fit s.clock }

/-- A read by the fabric interface (R330). -/
def State.remoteReadLine (s : State) (l : Nat) : State × List Byte :=
  let s := s.reach l
  let h := s.mem.line l
  let t := max s.mem.rt (h.w + 1)
  let m := s.mem.setLine l { h with r := max h.r t }
  ({ s with mem := { m with rt := max m.rt t } }, readBytes s.mem.bytes (64 * l) 64)

/-- A write of pieces that lie in one line by the fabric interface (R330). -/
def State.remotePieces (s : State) (l : Nat) (ps : List (Nat × List Byte)) : State :=
  let s := s.reach l
  let h := s.mem.line l
  let t := max s.mem.rt (h.r + 1)
  let s := ps.foldl (fun s p => s.writeHome p.1 p.2) s
  let m := s.mem.setLine l { h with w := t, r := t }
  { s with mem := { m with rt := max m.rt t } }

/-- A write within one line by the fabric interface (R330). -/
def State.remoteWriteLine (s : State) (a : Nat) (bs : List Byte) : State := s.remotePieces (lineOf a) [(a, bs)]

/-- The parts of a range that lie in different 64-byte lines, lowest first: address and length. -/
def splitLines : Nat → Nat → Nat → List (Nat × Nat)
  | 0, _, _ => []
  | fuel + 1, a, len =>
    if len = 0 then [] else
      let k := min len (64 - a % 64)
      (a, k) :: splitLines fuel (a + k) (len - k)

/-- The lines of a range, lowest first. -/
def lineParts (a len : Nat) : List (Nat × Nat) := splitLines (len / 64 + 2) a len

/-- A load of local memory by core `n`, one access for each line in ascending address (R328). -/
def State.loadMem (s : State) (n : Nat) (allocate : Bool) (a len : Nat) : State × List Byte :=
  (lineParts a len).foldl (fun (s, bs) (p, k) =>
    let (s, d) := s.loadLine n allocate (lineOf p)
    (s, bs ++ (d.drop (p % 64)).take k)) (s, [])

/-- The bytes of a range cut at the line boundaries. -/
def cutLines (a : Nat) (bs : List Byte) : List (Nat × List Byte) :=
  (lineParts a bs.length).map fun (p, k) => (p, (bs.drop (p - a)).take k)

/-- A store to local memory by core `n` (R328). -/
def State.storeMem (s : State) (n a : Nat) (bs : List Byte) : State := s.storeAll n (cutLines a bs)

/-- The data of lines that core `n` loads, one access for each line (R328). -/
def State.loadLines (s : State) (n : Nat) (allocate : Bool) (ls : List Nat) : State × SMap (List Byte) :=
  ls.foldl (fun (r : State × SMap (List Byte)) l =>
    let (s, d) := r.1.loadLine n allocate l
    (s, tset r.2 l d)) (s, [])

/-- The bytes of a run from the data of its lines. -/
def bytesFrom (tab : SMap (List Byte)) (a len : Nat) : List Byte :=
  (lineParts a len).flatMap fun p => (((tget tab (lineOf p.1)).getD []).drop (p.1 % 64)).take p.2

/-- Several runs loaded by core `n`, one access for each line in ascending address (R328). -/
def State.loadRuns (s : State) (n : Nat) (allocate : Bool) (rs : List (Nat × Nat)) : State × List (List Byte) :=
  let ls : SMap Unit := rs.foldl (fun m r => (lineParts r.1 r.2).foldl (fun m p => tset m (lineOf p.1) ()) m) []
  let (s, tab) := s.loadLines n allocate (ls.map (·.1))
  (s, rs.map fun r => bytesFrom tab r.1 r.2)

def State.remoteRead (s : State) (a len : Nat) : State × List Byte :=
  (lineParts a len).foldl (fun (s, bs) (p, k) =>
    let (s, d) := s.remoteReadLine (lineOf p)
    (s, bs ++ (d.drop (p % 64)).take k)) (s, [])

def State.remoteWrite (s : State) (a : Nat) (bs : List Byte) : State :=
  (cutLines a bs).foldl (fun s (p, d) => s.remoteWriteLine p d) s

end Sys2Proof.Machine
end

