-- ==== Sys2Proof/Machine/Records.lean ====
section
/-! DEFINITION. Launch records and kernel header records in memory (R68, R73, R78), and the line monitor with the on-chip
rings (R67 to R72). -/

namespace Sys2Proof.Machine

/-- One bit of the CRC-32C register (R68): the reflected polynomial 0x82F63B78. -/
def crcBit (c : BitVec 32) : BitVec 32 := if c.getLsbD 0 then (c >>> 1) ^^^ 0x82F63B78 else c >>> 1

/-- One byte of the CRC-32C register. -/
def crcByte (c : BitVec 32) (b : Byte) : BitVec 32 :=
  let c := c ^^^ b.setWidth 32
  crcBit (crcBit (crcBit (crcBit (crcBit (crcBit (crcBit (crcBit c)))))))

/-- CRC-32C of a run of bytes. -/
def crc32c (bs : List Byte) : BitVec 32 := ~~~(bs.foldl crcByte 0xFFFFFFFF)

/-- A little-endian field of a record. -/
def fieldAt (bs : List Byte) (off w : Nat) : Nat := leNat ((bs.drop off).take w)

/-- The fields of a launch record (R68). -/
def parseRecord (bs : List Byte) : Record :=
  { kind := fieldAt bs 0 2
    notify := (fieldAt bs 2 2).testBit 0
    prot := (fieldAt bs 2 2).testBit 1
    grid := fieldAt bs 4 4
    kaddr := BitVec.ofNat 64 (fieldAt bs 8 8)
    param := BitVec.ofNat 64 (fieldAt bs 16 8)
    kaddr2 := BitVec.ofNat 64 (fieldAt bs 24 8)
    kaddr3 := BitVec.ofNat 64 (fieldAt bs 32 8)
    pipemap := BitVec.ofNat 32 (fieldAt bs 40 4)
    jobtag := BitVec.ofNat 32 (fieldAt bs 44 4)
    leglim := BitVec.ofNat 64 (fieldAt bs 48 8)
    equota := BitVec.ofNat 64 (fieldAt bs 56 8)
    ibuf := BitVec.ofNat 64 (fieldAt bs 64 8)
    deadline := BitVec.ofNat 64 (fieldAt bs 72 8)
    key := BitVec.ofNat 64 (fieldAt bs 80 8)
    seq := BitVec.ofNat 32 (fieldAt bs 120 4) }

/-- The CRC of a record matches (R69). -/
def crcOk (bs : List Byte) : Bool := crc32c (bs.take 124) = BitVec.ofNat 32 (fieldAt bs 124 4)

/-- A record meets R68 but for its kernel's level and its PIPEMAP. Bits 63 to 48 of LEGLIM, which the register ignores (R94), may hold
anything (DESIGN CHOICE, log 72). -/
def recordOk (bs : List Byte) : Bool :=
  let r := parseRecord bs
  let flags := fieldAt bs 2 2
  flags < 4 && (bs.drop 88).take 32 = List.replicate 32 0 &&
  if r.kind = 1 then
    flags < 2 && r.grid = 0 && r.kaddr = 0 && r.param = 0 && r.kaddr2 = 0 && r.kaddr3 = 0 && r.pipemap = 0
      && r.jobtag = 0 && r.leglim = 0 && r.equota = 0 && r.ibuf = 0
  else if r.kind = 0 ∨ r.kind = 2 then
    1 ≤ r.grid && r.grid ≤ 1048576 && r.kaddr.toNat % 64 = 0 && r.kaddr2.toNat % 64 = 0 && r.kaddr3.toNat % 64 = 0
      && r.deadline = 0 && r.key = 0 && (r.prot || r.ibuf = 0)
      && (r.kind = 2 || (r.kaddr2 = 0 && r.kaddr3 = 0 && r.pipemap = 0))
  else false

/-- The fields of a kernel header record (R73). -/
def parseHeader (bs : List Byte) : Header :=
  let b i := fieldAt bs i 1
  { code := BitVec.ofNat 64 (fieldAt bs 0 8), ns := b 8, nv := b 9, nm := b 10, nacc := b 11, nst := b 12, nmp := b 13,
    nbar := b 14, npipe := b 15, scratch := fieldAt bs 16 4, ctx := b 20, level := b 21, cf := (b 22).testBit 0,
    role := b 22 / 2 % 4 }

/-- The values of a header are in their ranges and the reserved bytes 0 (R73). -/
def headerOk (bs : List Byte) : Bool :=
  let h := parseHeader bs
  h.code.toNat % 4 = 0 && 1 ≤ h.ns && h.ns ≤ 32 && h.nv ≤ 16 && h.nm ≤ 8 && h.nacc ≤ 4 && h.nst ≤ 16 && h.nmp ≤ 8
    && h.nbar ≤ 4 && h.npipe ≤ 4 && h.scratch ≤ 4194304 && h.scratch % 256 = 0 && 1 ≤ h.ctx && h.ctx ≤ 8 && h.level ≤ 5
    && fieldAt bs 22 1 < 8 && bs.drop 23 = List.replicate 41 0

/-- A used byte of PIPEMAP (R78): producer role and pipe, consumer role and pipe. -/
structure GangPipe where
  prole : Nat
  ppipe : Nat
  crole : Nat
  cpipe : Nat
  deriving DecidableEq, Repr

/-- The gang pipes of a PIPEMAP, by gang pipe number (R78). -/
def gangPipes (m : BitVec 32) : List GangPipe :=
  (List.range 4).filterMap fun g =>
    let b := field m.toNat (8 * g + 7) (8 * g)
    if b = 0 then none else some ⟨field b 1 0, field b 3 2, field b 5 4, field b 7 6⟩

/-- A PIPEMAP is valid for members with these numbers of pipes (R78): every used byte names two different roles, and every
local pipe below NPIPE is bound exactly once. -/
def pipemapOk (m : BitVec 32) (npipes : List Nat) : Bool :=
  let ps := gangPipes m
  let ends := ps.map (fun p => (p.prole, p.ppipe)) ++ ps.map fun p => (p.crole, p.cpipe)
  (List.range 4).all (fun g => field m.toNat (8 * g + 7) (8 * g) = 0 || field m.toNat (8 * g + 1) (8 * g) ≠ 0)
    && ps.all (fun p => p.prole ≠ 0 && p.crole ≠ 0 && p.prole ≠ p.crole)
    && ends.all (fun e => e.2 < npipes.getD (e.1 - 1) 0)
    && (List.range 3).all fun r => (List.range (npipes.getD r 0)).all fun k => ends.count (r + 1, k) = 1

/-! ### The launch window -/

/-- The address of a queue's part of the launch window (R67). -/
def windowOf (q : Nat) : Nat := Config.windowBase + 65536 * q

/-- A write by the dispatcher at its home. It takes a time as the fabric's do. A block that a reset has removed takes no write (R354). -/
def State.unitWrite (s : State) (a : Nat) (bs : List Byte) : State :=
  if s.mem.anyGone a bs.length then s else s.remoteWrite a bs

/-- The number of records of a queue on chip (R72). -/
def Queue.onChip (q : Queue) : Nat := (q.items.filter fun i => match i with | .onChip _ => true | _ => false).length

/-- Some accepted record of a queue is still in the window (R72). -/
def Queue.hasHeld (q : Queue) : Bool := q.items.any fun i => match i with | .inWindow _ => true | _ => false

/-- The bytes of the window slot of a SEQ (R69). -/
def State.slotBytes (s : State) (q : Nat) (seq : BitVec 32) : List Byte :=
  s.peek (windowOf q + 128 * (seq.toNat % (s.queue q).qsize)) 128

/-- A record is accepted (R69, R72): the expected SEQ advances; the record enters the on-chip ring if it has room, and its
SEQ goes to CONSUMED. -/
def State.acceptRecord (s : State) (q : Nat) (bs : List Byte) : State :=
  let x := s.queue q
  let seq := x.expected
  let x := { x with expected := seq + 1, timer := none }
  if x.onChip < 16 ∧ !x.hasHeld then
    (s.setQueue q { x with items := x.items ++ [.onChip bs], consumed := seq }).unitWrite (windowOf q + 0xA000) (wordLe 4 seq)
  else s.setQueue q { x with items := x.items ++ [.inWindow seq] }

/-- The line monitor's check of the watched slot, made again for each record that a write completes (R69, R70). -/
def State.monitor : Nat → State → Nat → State
  | 0, s, _ => s
  | fuel + 1, s, q =>
    let x := s.queue q
    if !x.enable then s else
    let bs := s.slotBytes q x.expected
    if fieldAt bs 120 4 = x.expected.toNat then
      if crcOk bs then State.monitor fuel (s.acceptRecord q bs) q
      else if x.timer.isSome then s else s.setQueue q { x with timer := some s.gtime.toNat }
    else s.setQueue q { x with timer := none }

/-- The line monitor after a write of memory (R69). -/
def State.monitorWrite (s : State) (a len : Nat) : State :=
  if len = 0 ∨ a + len ≤ Config.windowBase ∨ Config.windowBase + 4194304 ≤ a then s
  else
    (List.range 64).foldl (fun s q =>
      if a < windowOf q + 32768 ∧ windowOf q < a + len then State.monitor (s.queue q).qsize s q else s) s

/-- Stores of a core that take their places in the order now (R328), seen by the line monitor (R69). -/
def State.asyncWrites (s : State) (n : Nat) (ws : List (Nat × List Byte)) : State :=
  let ps := ws.flatMap fun w => cutLines w.1 w.2
  ps.foldl (fun s p => s.monitorWrite p.1 p.2.length) (s.storeAll n ps)

/-- A completion entry (R71). -/
structure Completion where
  seq : BitVec 32
  status : Nat
  done : Nat := 0
  ended : Nat := 0
  deriving DecidableEq, Repr

/-- The bytes of a completion entry of a queue at a time (R71). -/
def Completion.bytes (e : Completion) (q : Nat) (time : DWord) : List Byte :=
  wordLe 4 e.seq ++ natLe 2 q ++ natLe 2 e.status ++ wordLe 8 time ++ natLe 4 e.done ++ natLe 4 e.ended ++ natLe 8 0

/-- A completion entry is written, CDONE incremented, and a copy sent where the queue's NOTIFY is set (R71). -/
def State.complete (s : State) (q : Nat) (e : Completion) : State :=
  let x := s.queue q
  let bs := e.bytes q s.gtime
  let s := s.unitWrite (windowOf q + 0x8000 + 32 * (x.cdone.toNat % 256)) bs
  let s := s.unitWrite (windowOf q + 0xA004) (wordLe 4 (x.cdone + 1))
  let s := s.setQueue q { s.queue q with cdone := x.cdone + 1 }
  match x.cfg.notify with
  | some a => s.send (.notify a bs)
  | none => s

end Sys2Proof.Machine
end

