-- ==== Sys2Proof/Machine/Order.lean ====
section
/-! DEFINITION. Counters and their events (R116 to R119), landings (R109, R110), atomics (R114, R115), and the order in which
the accesses of a core take their places (R327, R328). -/

namespace Sys2Proof.Machine

/-! ### Counters (R116 to R119) -/

/-- COUNT of a counter. -/
def Counters.get (k : Counters) : Nat → Nat
  | 0 => k.st
  | 1 => k.rm
  | _ => k.as

/-- The events whose condition holds fire (R119). -/
def Counters.check (k : Counters) : Counters :=
  (List.range 3).foldl (fun k i =>
    match tget k.armed i with
    | some t => if k.get i ≤ t.toNat then { k with armed := tdel k.armed i, fired := setBit k.fired i true } else k
    | none => k) k

/-- An operation leaves a counter. -/
def Counters.leave (k : Counters) : Nat → Counters
  | 0 => Counters.check { k with st := k.st - 1 }
  | 1 => Counters.check { k with rm := k.rm - 1 }
  | _ => Counters.check { k with as := k.as - 1 }

/-- An operation is lost (R118): the address of the first one is kept. -/
def Counters.lose (k : Counters) (a : DWord) : Counters := { k with loss := some (k.loss.getD a) }

/-- An operation of a task leaves a counter. -/
def State.leaveCounter (s : State) (n uid which : Nat) : State :=
  s.modCore n fun k => k.modTask uid fun x => { x with cnt := x.cnt.leave which }

/-! ### Landings (R109, R110) -/

/-- Every pending write of a context changed by a function, those frozen included. -/
def Ctx.mapPend (x : Ctx) (g : PWrite → PWrite) : Ctx :=
  { x with
    pend := x.pend.map g
    frame := x.frame.map fun f => { f with pend := f.pend.map g }
    eframe := x.eframe.map fun f => { f with pend := f.pend.map g } }

/-- The entries of the vestibule that a context holds. -/
def Ctx.landings (x : Ctx) : Nat :=
  let c (ws : List PWrite) : Nat := (ws.filter fun w => w.landing.isSome).length
  c x.pend + (match x.frame with | some f => c f.pend | none => 0) + (match x.eframe with | some f => c f.pend | none => 0)

/-- The value of a scalar load (R108). -/
def landValue (k : LandKind) (size : Nat) (bs : List Byte) : DWord :=
  let v := leNat bs
  match k with
  | .signed => if 2 ^ (8 * size - 1) ≤ v then BitVec.ofNat 64 (v + 2 ^ 64 - 2 ^ (8 * size)) else BitVec.ofNat 64 v
  | _ => BitVec.ofNat 64 v

/-- The 32-bit words of a run of bytes. -/
def wordsAt (bs : List Byte) : Nat → List Word
  | 0 => []
  | n + 1 => leWord 32 (bs.take 4) :: wordsAt (bs.drop 4) n

/-- The lanes of an image of 4,096 bytes (R159). -/
def lanesOf (bs : List Byte) : Lanes :=
  (wordsAt bs 1024).zipIdx.filterMap fun (w, i) => if w = 0 then none else some (i, w)

/-- Data that arrives for part of a landing, from byte `off` of it on. -/
def RegWrite.patch (l : Landing) (off : Nat) (bs : List Byte) : RegWrite → RegWrite
  | .s n _ => .s n (landValue l.kind l.size bs)
  | .es n _ => .es n (landValue l.kind l.size bs)
  | .v n sel x => .v n sel ((wordsAt bs (bs.length / 4)).zipIdx.foldl (fun x (w, i) => mset 0 x (off / 4 + i) w) x)
  | w => w

/-- The pending write of a landing changed. -/
def Ctx.modLanding (x : Ctx) (id : Nat) (g : Landing → RegWrite → Landing × RegWrite) : Ctx :=
  x.mapPend fun w =>
    match w.landing with
    | some l => if l.id = id then let (l, d) := g l w.dest; { w with landing := some l, dest := d } else w
    | none => w

/-! ### Places in the order (R327, R328) -/

/-- The width of an atomic in bytes (R115). -/
def Amo.bytes (a : Amo) : Nat := if a.op = .fadd ∨ a.md then 4 else 8

/-- RoundNE of a sum of two BF16 values. -/
def faddBf16 (x y : BitVec 16) : BitVec 16 := toBf16 ((bf16 x).add false (bf16 y)).1

/-- The new value of an atomic (R114, R115); values are of `bytes` bytes. -/
def Amo.new (a : Amo) (old : DWord) : DWord :=
  let b := a.b
  let lt (x y : DWord) : Bool :=
    if a.bytes = 8 then x.slt y else (x.extractLsb' 0 32).slt (y.extractLsb' 0 32)
  match a.op with
  | .add => old + b
  | .and => old &&& b
  | .or => old ||| b
  | .xor => old ^^^ b
  | .min => if lt b old then b else old
  | .max => if lt old b then b else old
  | .xchg => b
  | .cas =>
    if a.bytes = 8 then (if old = a.cmp then b else old)
    else if old.extractLsb' 0 32 = a.cmp.extractLsb' 0 32 then b else old
  | .fadd =>
    if a.md then
      (faddBf16 (old.extractLsb' 16 16) (b.extractLsb' 16 16)
        ++ faddBf16 (old.extractLsb' 0 16) (b.extractLsb' 0 16)).setWidth 64
    else (toF32 ((f32 (old.extractLsb' 0 32)).add false (f32 (b.extractLsb' 0 32))).1).setWidth 64

/-- What an atomic writes to D (R115). -/
def Amo.result (a : Amo) (old : DWord) : DWord :=
  if a.op = .fadd then (old.extractLsb' 0 32).setWidth 64
  else if a.bytes = 8 then old else (old.extractLsb' 0 32).signExtend 64

/-- A block whose check value failed lies in a range (R353). -/
def Memory.isBad (m : Memory) (a len : Nat) : Bool := m.bad.any fun e => 256 * e.1 < a + len && a < 256 * (e.1 + 1)

/-- The oldest access of a core without a place takes one (R327). -/
def State.placeNext (s : State) (n : Nat) : State :=
  match (s.core n).outq.find? fun a => !a.placed with
  | none => s
  | some a =>
    let s : State := match a.amo with
      | none => s.asyncWrites n a.pieces
      | some m =>
        let pa := (a.pieces.headD (0, [])).1
        let old : DWord := leWord 64 (s.peek pa m.bytes)
        let s := s.asyncWrites n [(pa, wordLe m.bytes (m.new old))]
        let bad := s.mem.isBad pa m.bytes
        s.modCore n fun k => k.modTask a.uid fun x => x.modLanding a.id fun l d =>
          (if bad then { l with status := .uncorrectable } else l, d.patch l 0 (wordLe 8 (m.result old)))
    s.modCore n fun k => { k with
      outq := k.outq.map fun (b : Access) => if b.id = a.id then { b with placed := true } else b }

/-- Every access of a core takes its place. -/
def State.placeAll (s : State) (n : Nat) : State :=
  (List.range (s.core n).outq.length).foldl (fun s _ => s.placeNext n) s

/-- The oldest access of a core, a store or an atomic, performs and leaves CNTST (R112, R114). -/
def State.retireAccess (s : State) (n : Nat) (atomic : Bool) : State :=
  match (s.core n).outq with
  | [] => s
  | a :: _ =>
    if a.amo.isSome ≠ atomic then s
    else
      let s := if a.placed then s else s.placeNext n
      let s := s.modCore n fun k => { k with outq := k.outq.filter fun b => b.id != a.id }
      s.leaveCounter n a.uid 0

end Sys2Proof.Machine
end

