-- ==== Sys2Proof/Machine/Translate.lean ====
section
/-! DEFINITION. Translation (R317 to R322), and the places of the bytes of an access (R107, R335, R354). -/

namespace Sys2Proof.Machine

/-! ### Translation -/

/-- What an access does (R321). -/
inductive AccessKind where
  | load | store | atomic | fetch
  deriving DecidableEq, Repr

/-- The lowest virtual address of the scratchpad aperture (R317). -/
def apertureBase : Nat := 0xFFFFFFFFFFC00000

/-- The result of a walk (R320): the page's size in address bits, its physical address and the leaf's bits [5:2]. -/
structure Leaf where
  bits : Nat
  pa : Nat
  perm : BitVec 4
  deriving DecidableEq, Repr

/-- A physical address is local and below the package's memory (R319). -/
def localOffset (pa : Nat) : Bool := pa < Config.memBytes

/-- The leaf of an entry at a level, whose page has `bits` address bits (R320, R321). -/
def leafOf (bits : Nat) (e : Nat) : Option Leaf :=
  let pa := field e 51 8 * 256
  if field e 63 52 ≠ 0 ∨ field e 7 6 ≠ 0 ∨ pa % 2 ^ bits ≠ 0 then none
  else if pa % 2 ^ 40 ≥ Config.memBytes ∨ (pa / 2 ^ 51 = 0 ∧ pa / 2 ^ 40 ≠ 0) then none
  else some ⟨bits, pa, BitVec.ofNat 4 (field e 5 2)⟩

/-- The table that an entry names, aligned to `align` bytes and local (R320, R321). -/
def tableOf (align : Nat) (e : Nat) : Option Nat :=
  let pa := field e 51 8 * 256
  if field e 63 52 ≠ 0 ∨ field e 7 6 ≠ 0 ∨ field e 5 2 ≠ 0 ∨ pa % align ≠ 0 ∨ !localOffset pa then none else some pa

/-- The levels below the root: the alignment of their tables, their index bits and the page size of a leaf (R320). -/
def lowerLevels : List (Nat × Nat × Nat × Nat) := [(4096, 29, 21, 21), (256, 20, 16, 16)]

/-- A byte of local memory lies in a block that a reset has removed from the memory map (R354). -/
def Memory.missing (m : Memory) (a : Nat) : Bool := (tget m.gone (a / 256)).isSome

/-- An entry of a table in local memory; one in a block that is not there is invalid (R320, R354). -/
def State.tableEntry (s : State) (a : Nat) : Nat := if s.mem.missing a then 0 else leNat (s.peek a 8)

/-- A walk from an entry downwards (R320, R321); `none` is XLATE. -/
def walkFrom (s : State) (va : Nat) : List (Nat × Nat × Nat × Nat) → Nat → Nat → Option Leaf
  | levels, bits, e =>
    if field e 1 0 = 2 then leafOf bits e
    else if field e 1 0 = 1 then
      match levels with
      | [] => none
      | (align, hi, lo, bits') :: rest =>
        match tableOf align e with
        | none => none
        | some t => walkFrom s va rest bits' (s.tableEntry (t + 8 * field va hi lo))
    else none

/-- The walk of a page-space address in the address space of a queue (R320). -/
def State.walk (s : State) (q va : Nat) : Option Leaf :=
  walkFrom s va lowerLevels 30 (s.tableEntry ((s.queue q).cfg.troot + 8 * field va 47 30))

/-- Who makes an access that is translated: a core, or a unit of the package, which has no TLB and reads at the time of the fabric
interface (log 27). -/
inductive Walker where
  | core (n : Nat)
  | unit
  deriving DecidableEq, Repr

/-- The TLBs that a walker uses (R322): that of the core and that of its cluster. -/
def Walker.tlbs : Walker → List Nat
  | .core n => [n, 144 + n / 8]
  | .unit => []

/-- The translations that the TLBs of a walker hold for an address (R322). -/
def State.held (s : State) (w : Walker) (q va : Nat) : List (Option Leaf) :=
  ((w.tlbs.flatMap fun i => mget [] s.mem.tlbs i).filter fun e =>
    e.queue = q ∧ e.base ≤ va ∧ va < e.base + 2 ^ e.bits).map fun e => some (Leaf.mk e.bits e.pa e.perm)

/-- The accesses that a walker has made have taken their places: the reads of a walk come after them (R320, R327). -/
def State.placeFor (s : State) : Walker → State
  | .core n => s.placeAll n
  | .unit => s

/-- The translations that an access may use (R322): those that the TLBs hold, and that of a walk made now. -/
def State.candidates (s : State) (w : Walker) (q va : Nat) : List (Option Leaf) :=
  let held := (s.held w q va).dedup
  let new := (s.placeFor w).walk q va
  if held.contains new then held else new :: held

/-- The leaf that an access uses (R322), `none` for a failed translation. -/
def State.leaf (s : State) (w : Walker) (q va : Nat) : Option Leaf :=
  match s.candidates w q va with
  | [x] => x
  | xs => xs.getD (Config.tlbChoice s.clock % xs.length) none

/-- The addresses of the entries that a walk from an entry downwards reads. -/
def walkReads (s : State) (va : Nat) : List (Nat × Nat × Nat × Nat) → Nat → List Nat
  | [], _ => []
  | (align, hi, lo, _) :: rest, e =>
    if field e 1 0 = 1 then
      match tableOf align e with
      | none => []
      | some t =>
        let a := t + 8 * field va hi lo
        a :: walkReads s va rest (s.tableEntry a)
    else []

/-- A walk takes its reads of entries as package-scope loads (R320, R328): a core's walk at its T, without a copy. -/
def State.readEntry (s : State) (w : Walker) (a : Nat) : State :=
  match w with
  | .core n =>
    let s := s.reach (lineOf a)
    let h := s.mem.line (lineOf a)
    let t := max (s.core n).t (h.w + 1)
    ({ s with mem := s.mem.setLine (lineOf a) { h with r := max h.r (t + 32) } } : State).raiseT n t
  | .unit => (s.remoteReadLine (lineOf a)).1

/-- The reads of a walk of an address in the address space of a queue (R320). -/
def State.readEntries (s : State) (w : Walker) (q va : Nat) : State :=
  let s := s.placeFor w
  let root := (s.queue q).cfg.troot + 8 * field va 47 30
  (root :: walkReads s va lowerLevels (s.tableEntry root)).foldl (fun s a => s.readEntry w a) s

/-- A TLB of `cap` entries with one more; which others it drops is free (log 53). -/
def keepEntries (cache clock va cap : Nat) (es : List TlbEntry) (e : TlbEntry) : List TlbEntry :=
  if es.contains e then es else (keepCopies cache clock va cap (es.zipIdx.map fun p => (p.2, p.1))).map (·.2) ++ [e]

/-- The entry of a TLB for a translation of an address of a queue. -/
def Leaf.entry (x : Leaf) (q va : Nat) : TlbEntry := ⟨q, va / 2 ^ x.bits * 2 ^ x.bits, x.bits, x.pa, x.perm⟩

/-- Every TLB of a walker holds a translation (R322). -/
def State.inTlbs (s : State) (w : Walker) (q va : Nat) (x : Leaf) : Bool :=
  w.tlbs.all fun i => (mget [] s.mem.tlbs i).contains (x.entry q va)

/-- The TLBs of a walker hold a translation that has been used (R322): 3,072 entries for a core, 32,768 for a cluster. -/
def State.fillTlb (s : State) (w : Walker) (q va : Nat) (x : Leaf) : State :=
  let put (ts : SMap (List TlbEntry)) (i : Nat) : SMap (List TlbEntry) :=
    let (cache, cap) := if i < 144 then (3, 3072) else (4, 32768)
    mset [] ts i (keepEntries cache s.clock va cap (mget [] ts i) (x.entry q va))
  if s.inTlbs w q va x then s
  else { s with mem := { s.mem with tlbs := w.tlbs.foldl put s.mem.tlbs } }

/-- A translation is used (R320, R322): where no TLB of the walker holds it, a walk has read its entries; the TLBs hold it from
then on. -/
def State.useLeaf (s : State) (w : Walker) (q va : Nat) (x : Leaf) : State :=
  (if (s.held w q va).contains (some x) then s else s.readEntries w q va).fillTlb w q va x

/-- A leaf's permission bits allow an access (R321). -/
def Leaf.permits (x : Leaf) (k : AccessKind) (priv : Bool) : Bool :=
  let r := x.perm.getLsbD 0; let w := x.perm.getLsbD 1; let ex := x.perm.getLsbD 2; let sys := x.perm.getLsbD 3
  (!sys || priv) && (match k with | .load => r | .store => w | .atomic => r && w | .fetch => ex)

/-- Where bytes of an access lie (R317, R319, R335): in the scratchpad of the core, in a window of a task, in local memory,
or in the memory of a peer. -/
inductive Place where
  | spad (a : Nat)
  | stash (uid window off : Nat)
  | mem (pa : Nat)
  | peer (node off : Nat)
  deriving DecidableEq, Repr

/-- A trap with its TADDR, and the state that its walks have left: a walk that fails has read its entries (R320). -/
structure Failure where
  cause : BitVec 8
  taddr : DWord
  s : State
  deriving DecidableEq, Repr

def causeIllegalClass : BitVec 8 := 0x01
def causeIllegalOp : BitVec 8 := 0x02
def causeIllegalBundle : BitVec 8 := 0x03
def causeIllegalOperand : BitVec 8 := 0x04
def causeResource : BitVec 8 := 0x05
def causePrivilege : BitVec 8 := 0x06
def causeMisalign : BitVec 8 := 0x08
def causeXlate : BitVec 8 := 0x09
def causeProtect : BitVec 8 := 0x0A
def causeRemoteFail : BitVec 8 := 0x0B
def causeFp : BitVec 8 := 0x10
def causeDiv0 : BitVec 8 := 0x11
def causeCmptrap : BitVec 8 := 0x12
def causeDataUncorr : BitVec 8 := 0x13
def causeHeapSpill : BitVec 8 := 0x14
def causeSampleEmpty : BitVec 8 := 0x15
def causeOpselBusy : BitVec 8 := 0x16
def causeEdgeCycle : BitVec 8 := 0x17
def causeSliceFault : BitVec 8 := 0x18
def causeStream : BitVec 8 := 0x19
def causePipe : BitVec 8 := 0x1A
def causeSys : BitVec 8 := 0x20
def causeTrap : BitVec 8 := 0x21

/-- The window of the allocation of a task that a scratchpad offset lies in (R335). -/
def Core.windowAt (k : Core) (base off : Nat) : Option (Ctx × Nat × Window) :=
  k.tasks.findSome? fun x =>
    if x.task.spBase = base then
      x.windows.findSome? fun e =>
        if 65536 * e.2.spg ≤ off ∧ off < 65536 * (e.2.spg + e.2.npg) then some (x, e.1, e.2) else none
    else none

/-- Where a translated byte lies for an access with its rights (R319, R321). -/
def State.pagePlace (s : State) (kind : AccessKind) (priv : Bool) (a : Nat) (x : Leaf) : Except Failure (State × Place) :=
  if x.permits kind priv then
    let pa := x.pa + a % 2 ^ x.bits
    if pa / 2 ^ 51 = 1 then
      let node := field pa 50 40
      if node = s.fabric.own then .error ⟨causeProtect, BitVec.ofNat 64 a, s⟩
      else .ok (s, .peer node (pa % 2 ^ 40))
    else .ok (s, .mem pa)
  else .error ⟨causeProtect, BitVec.ofNat 64 a, s⟩

/-- The translation of one byte of page space (R319 to R321). One that every TLB of a core holds changes nothing. -/
def State.pageByte (s : State) (w : Walker) (q : Nat) (kind : AccessKind) (priv : Bool) (a : Nat) :
    Except Failure (State × Place) :=
  match s.leaf w q a with
  | none => .error ⟨causeXlate, BitVec.ofNat 64 a, s.readEntries w q a⟩
  | some x =>
    if w ≠ .unit ∧ s.inTlbs w q a x then s.pagePlace kind priv a x else (s.useLeaf w q a x).pagePlace kind priv a x

/-- The place of one byte of the aperture (R318, R335). -/
def State.apertureByte (s : State) (n : Nat) (x : Ctx) (kind : AccessKind) (a : Nat) : Except Failure (State × Place) :=
  let off := a - apertureBase
  if kind = .atomic ∨ kind = .fetch ∨ off ≥ x.task.spSize then .error ⟨causeProtect, BitVec.ofNat 64 a, s⟩
  else
    match (s.core n).windowAt x.task.spBase off with
    | none => .ok (s, .spad (x.task.spBase + off))
    | some (y, j, w) =>
      let o := off - 65536 * w.spg
      if kind = .store ∧ !(w.pages.getD (o / 65536) (0, false)).2 then .error ⟨causeProtect, BitVec.ofNat 64 a, s⟩
      else .ok (s, .stash y.task.uid j o)

/-- The place of one byte of an access (R107, R317). -/
def State.byteAt (s : State) (n : Nat) (x : Ctx) (kind : AccessKind) (a : Nat) : Except Failure (State × Place) :=
  if a < 2 ^ 48 then s.pageByte (.core n) x.task.queue kind x.ctl.priv a
  else if a ≥ apertureBase then s.apertureByte n x kind a
  else .error ⟨causeXlate, BitVec.ofNat 64 a, s⟩

/-- How many bytes from a virtual address on share its place: up to the next 64 KiB boundary, and up to the end of the
allocation in the aperture. -/
def runLength (x : Ctx) (a len : Nat) : Nat :=
  let k := min len (65536 - a % 65536)
  if a ≥ apertureBase ∧ a - apertureBase < x.task.spSize then min k (x.task.spSize - (a - apertureBase)) else k

/-- The first of some bytes of local memory that lies in a block that a reset has removed from the memory map (R354). -/
def Memory.firstGone (m : Memory) : Place → Nat → Option Nat
  | .mem pa, len =>
    if m.anyGone pa len then
      (List.range len).find? fun i => m.missing (pa + i)
    else none
  | _, _ => none

/-- The place of a run of `len` bytes from a virtual address on (R107, R354). -/
def State.runAt (s : State) (n : Nat) (x : Ctx) (kind : AccessKind) (a len : Nat) : Except Failure (State × Place) :=
  match s.byteAt n x kind a with
  | .error e => .error e
  | .ok (s, p) =>
    match s.mem.firstGone p len with
    | some i => .error ⟨causeXlate, BitVec.ofNat 64 (a + i), s⟩
    | none => .ok (s, p)

/-- The places of a range of virtual addresses, lowest first, each with its length; or the failure of the lowest byte that
fails (R107). -/
def State.placesFrom (n : Nat) (x : Ctx) (kind : AccessKind) :
    Nat → State → Nat → Nat → Except Failure (State × List (Place × Nat))
  | 0, s, _, _ => .ok (s, [])
  | fuel + 1, s, a, len =>
    if len = 0 then .ok (s, []) else
    let k := runLength x (a % 2 ^ 64) len
    match s.runAt n x kind (a % 2 ^ 64) k with
    | .error e => .error e
    | .ok (s, p) =>
      match State.placesFrom n x kind fuel s (a + k) (len - k) with
      | .error e => .error e
      | .ok (s, ps) => .ok (s, (p, k) :: ps)

/-- The two endpoints of an edge entry (R252) and whether it is an edge. -/
def edgeValid (e : DWord) : Bool := e.getLsbD 63
def edgeA (e : DWord) : Nat := (e.extractLsb' 14 2).toNat
def edgeB (e : DWord) : Nat := (e.extractLsb' 12 2).toNat
def edgeTile (e : DWord) : Nat := (e.extractLsb' 0 8).toNat

/-- An edge is incident to a role (R255). -/
def edgeIncident (e : DWord) (role : Nat) : Bool := edgeValid e && (edgeA e = role || edgeB e = role)

/-- A scratchpad offset lies in the tile of an edge of the member's slot that is not incident to it (R260). -/
def Core.foreignTile (k : Core) (x : Ctx) (off : Nat) : Bool :=
  match x.task.gslot with
  | none => false
  | some g =>
    k.edges.any fun e => e.1 / 32 = g && edgeValid e.2 && !edgeIncident e.2 x.task.hdr.role && edgeTile e.2 = off / 16384

/-- An access of a gang member touches no foreign tile (R260). -/
def Core.tilesFree (k : Core) (x : Ctx) (ps : List (Place × Nat)) : Bool :=
  ps.all fun (p, len) =>
    match p with
    | .spad a => (List.range (len / 16384 + 2)).all fun i =>
        !k.foreignTile x (min (a - x.task.spBase + 16384 * i) (a - x.task.spBase + len - 1))
    | _ => true

/-- The places of an access to `len` bytes at a virtual address: translation and permission byte by byte (R107), then the
tiles of foreign edges (R260). -/
def State.places (s : State) (n : Nat) (x : Ctx) (kind : AccessKind) (a : DWord) (len : Nat) :
    Except Failure (State × List (Place × Nat)) :=
  match State.placesFrom n x kind (len / 256 + 3) s a.toNat len with
  | .error e => .error e
  | .ok (s, ps) => if (s.core n).tilesFree x ps then .ok (s, ps) else .error ⟨causeProtect, a, s⟩

end Sys2Proof.Machine
end

