-- ==== Sys2Proof/Machine/Edge.lean ====
section
/-! DEFINITION. The edge unit of a cluster: orientation, firing and death of members (R251 to R261). -/

namespace Sys2Proof.Machine

/-- The role that an edge points to (R252). -/
def edgePoints (e : DWord) : Nat := if e.getLsbD 8 then edgeB e else edgeA e

/-- The edge turned to its other endpoint. -/
def edgeTurn (e : DWord) : DWord := e ^^^ (1#64 <<< 8)

/-- The entries of a gang slot (R251). -/
def Core.slotEdges (k : Core) (g : Nat) : List (Nat × DWord) := k.edges.filter fun e => e.1 / 32 = g

/-- A member of a gang slot is ready for edges (R255). -/
def Core.edgeReady (k : Core) (g role : Nat) : Bool :=
  (k.slotEdges g).all fun e => !edgeIncident e.2 role || edgePoints e.2 = role

/-- A context is a member of no gang, or is ready for edges (R255). -/
def Core.edgesAllow (k : Core) (x : Ctx) : Bool :=
  match x.task.gslot with
  | none => true
  | some g => k.edgeReady g x.task.hdr.role

/-- Every incident edge of a role turned away from it (R255). -/
def Core.fireEdges (k : Core) (g role : Nat) : Core :=
  { k with edges := k.edges.map fun e =>
      if e.1 / 32 = g ∧ edgeIncident e.2 role ∧ edgePoints e.2 = role then (e.1, edgeTurn e.2) else e }

/-- A task has ended (R80): it is on no context of the core, or it waits for its counters. -/
def Core.taskEnded (k : Core) (uid : Nat) : Bool :=
  match k.findTask uid with
  | none => true
  | some x => x.run = .ended

/-- The roles of an instance whose member has ended: role r is mate r − 1 (R254). -/
def Core.deadRoles (k : Core) (mates : List Nat) : List Nat :=
  [1, 2, 3].filter fun r => match mates[r - 1]? with | some u => k.taskEnded u | none => false

/-- Edges that point to a dead member turn away, unless both endpoints are dead (R259). -/
def Core.settleEdges (k : Core) (g : Nat) (dead : List Nat) : Core :=
  { k with edges := k.edges.map fun e =>
      if e.1 / 32 = g ∧ edgeValid e.2 ∧ dead.contains (edgePoints e.2)
        ∧ !(dead.contains (edgeA e.2) && dead.contains (edgeB e.2)) then (e.1, edgeTurn e.2) else e }

/-- The firing of a member (R255) with the turns of dead members that follow (R259). -/
def Core.fire (k : Core) (x : Ctx) : Core :=
  match x.task.gslot with
  | none => k
  | some g => (k.fireEdges g x.task.hdr.role).settleEdges g (k.deadRoles x.task.mates)

/-- The directed edges of a gang slot, each from the endpoint that it does not point to (R258). -/
def slotArrows (es : List (Nat × DWord)) : List (Nat × Nat) :=
  (es.filter fun e => edgeValid e.2).map fun e => (edgePoints (edgeTurn e.2), edgePoints e.2)

/-- Arrows over the three roles form a directed cycle (R258): two opposite arrows, or a triangle. -/
def cyclic (as : List (Nat × Nat)) : Bool :=
  as.any (fun a => as.contains (a.2, a.1))
    || (as.contains (1, 2) && as.contains (2, 3) && as.contains (3, 1))
    || (as.contains (2, 1) && as.contains (3, 2) && as.contains (1, 3))

/-- The orientation of a gang slot is cyclic (R258). -/
def Core.slotCyclic (k : Core) (g : Nat) : Bool := cyclic (slotArrows (k.slotEdges g))

/-- A gang slot is held by an instance one of whose tasks has not ended (R251). -/
def Core.gangHeld (k : Core) (g : Nat) : Bool := k.tasks.any fun x => x.task.gslot = some g && x.run != .ended

end Sys2Proof.Machine
end

