-- ==== Sys2Proof/Machine/Room.lean ====
section
/-! DEFINITION. What a core can hold of a grid, and what waits for a context of it (R75, R94, R251). -/

namespace Sys2Proof.Machine

/-- The cores of a queue's mask, lowest first (R44, R67). -/
def State.maskCores (s : State) (q : Nat) : List Nat :=
  (List.range 144).filter fun n => (s.queue q).cfg.cmask.getLsbD n && !(s.core n).removed

/-- The sum of a list of numbers. -/
def total (xs : List Nat) : Nat := xs.foldl (· + ·) 0

/-- The scratchpad bytes of a core that are allocated: each allocation once (R182). -/
def Core.scratchUsed (k : Core) : Nat :=
  total ((k.tasks.map fun x => (x.task.spBase, x.task.spSize)).dedup.map (·.2))

/-- The tasks of a grid on a core that one member's kernel runs (R75). -/
def Core.sameMember (k : Core) (gid : Nat) (h : Header) : Nat :=
  (k.tasks.filter fun x => x.task.grid = gid && x.task.hdr.role = h.role).length

/-- The free contexts of a core for a grid that the dispatcher took at a step: a task suspended before then comes first on
the context that it left (R94). -/
def Core.freeSlots (k : Core) (taken : Nat) : List Nat :=
  (List.range 8).filter fun c => (tget k.ctxs c).isNone &&
    !(k.suspended.any fun e => e.2.slot = c && !e.2.quota && e.2.since < taken)

/-- A core has all that a task of a grid, or an instance of a gang, needs but for contexts (R75, R251). -/
def Core.hasRoom (k : Core) (gid : Nat) (g : Grid) : Bool :=
  let hs := k.tasks.map (·.task.hdr)
  g.hdrs.all (fun h => decide (k.sameMember gid h < h.ctx))
    && decide (k.scratchUsed + total (g.hdrs.map (·.scratch)) ≤ 4194304)
    && decide (total (hs.map (·.nacc)) + total (g.hdrs.map (·.nacc)) ≤ 4)
    && decide ((hs.filter (·.cf)).length + (g.hdrs.filter (·.cf)).length ≤ 1 ∨ (g.hdrs.filter (·.cf)).length = 0)
    && decide (total (hs.map (·.npipe)) + total (g.hdrs.map (·.npipe)) ≤ 16)
    && (g.hdrs.length = 1 || !k.gangHeld 0 || !k.gangHeld 1)

/-- A core has the free contexts that a task of a grid, or an instance of a gang, needs (R75). -/
def Core.hasSlots (k : Core) (g : Grid) : Bool := decide (g.hdrs.length ≤ (k.freeSlots g.taken).length)

/-- A core can hold a task of a grid, or an instance of a gang (R75, R251). -/
def Core.canPlace (k : Core) (gid : Nat) (g : Grid) : Bool := k.hasSlots g && k.hasRoom gid g

/-- The cores of a mask from one on, in ascending number, wrapping to the lowest (R75). -/
def searchOrder (cores : List Nat) (from_ : Nat) : List Nat :=
  cores.filter (fun n => decide (from_ ≤ n)) ++ cores.filter fun n => decide (n < from_)

/-- A core as the search sees it once it holds one more task of a grid, or instance of a gang. -/
def Core.reserve (k : Core) (gid : Nat) (g : Grid) : Core :=
  let gslot := if g.hdrs.length = 1 then none else some (if k.gangHeld 0 then 1 else 0)
  let size := total (g.hdrs.map (·.scratch))
  let held (h : Header) : Ctx := { task := { grid := gid, hdr := h, gslot := gslot, spBase := 2 * g.placed + 1, spSize := size } }
  { k with ctxs := (g.hdrs.zip (k.freeSlots g.taken)).foldl (fun m p => tset m p.2 (held p.1)) k.ctxs }

/-- Where the search for the tasks that are left of a grid stops for want of a core; none where it places them all (R75). -/
def State.searchStop (cores : List Nat) (gid : Nat) : Nat → State → Grid → Option State
  | 0, _, _ => none
  | left + 1, s, g =>
    match (searchOrder cores g.from_).find? fun n => (s.core n).canPlace gid g with
    | none => some s
    | some n =>
      State.searchStop cores gid left (s.setCore n ((s.core n).reserve gid g)) { g with placed := g.placed + 1, from_ := n + 1 }

/-- A grid at the head of a queue waits for a context of core `n` (R94): where the search stops, the core lacks nothing but
contexts. -/
def State.gridWaits (s : State) (n gid : Nat) (g : Grid) : Bool :=
  let cores := s.maskCores g.queue
  cores.contains n &&
    match State.searchStop cores gid (min (g.record.grid - g.placed) 1153) s g with
    | none => false
    | some t => !(t.core n).hasSlots g && (t.core n).hasRoom gid g

/-- A task waits for a context on a core (R94): one of a grid at the head of a queue, or a suspended task that may resume on context
`c`. -/
def State.taskWaits (s : State) (n c : Nat) : Bool :=
  s.queues.any (fun q => match q.2.waiting with
      | none => false
      | some gid => (tget s.grids gid).any fun g => s.gridWaits n gid g)
    || (s.core n).suspended.any fun e => e.2.slot = c && !e.2.quota && e.2.ctx.run != .ended

end Sys2Proof.Machine
end

