-- ==== Sys2Proof/Machine/Chain.lean ====
section
/-! DEFINITION. The slice controller's state: slices, claims, settling, discards, closing a chain, and deferred-fault
records (R224, R228 to R244). The requests of the slice instructions are in Sys2Proof/Machine/Slices.lean. -/

namespace Sys2Proof.Machine

/-- Slice `m` of a chain; one without a context is FREE. -/
def Chain.slice (c : Chain) (m : Nat) : Slice := mget {} c.slices m

def Chain.setSlice (c : Chain) (m : Nat) (x : Slice) : Chain := { c with slices := mset {} c.slices m x }

/-- A slice is live while its context holds it PROVISIONAL, SETTLED or FAULTED-PROVISIONAL (R229). -/
def Slice.live (x : Slice) : Bool := x.state = .provisional || x.state = .settled || x.state = .faulted

/-- A slice counts as settled for the cairn (R224). -/
def Slice.counted (x : Slice) : Bool := x.state = .settled || x.state = .retired

/-- A slice that becomes live (R232). -/
def freshSlice (st : SliceState) : Slice := { state := st, gen := 1, due := true }

/-- GEN after a start: 1 to 65,535 and then 1 again (R229). -/
def nextGen (g : Nat) : Nat := if g = 65535 then 1 else g + 1

/-- The lowest index from `m` on that does not count as settled, or N (R224). -/
def Chain.unsettledFrom (c : Chain) : Nat → Nat → Nat
  | 0, m => min m c.n
  | fuel + 1, m => if m < c.n ∧ (c.slice m).counted then c.unsettledFrom fuel (m + 1) else min m c.n

/-- The cairn of a NORM chain brought up to date (R224). -/
def Chain.advanceCairn (c : Chain) : Chain := { c with cairn := c.unsettledFrom (c.slices.length + 1) c.cairn }

/-- The live slices, ascending. -/
def Chain.liveFrom (c : Chain) (m : Nat) : List Nat := (c.slices.filter fun e => m ≤ e.1 && e.2.live).map (·.1)

/-- The number of slice contexts that a chain holds (R229): a RETIRED slice keeps its context until it passes. -/
def Chain.held (c : Chain) : Nat := (c.slices.filter fun e => e.2.live || (e.2.state = .retired && !e.2.passed)).length

/-- A slice may be claimed now (R235). -/
def Chain.claimable (c : Chain) (x : Slice) : Bool :=
  x.claim.isNone &&
  if c.token then (x.state = .provisional && x.due) || (x.state = .settled && x.again)
  else c.phase = .fine && ((x.live && x.due && x.gen != x.lastClaim) || (x.state = .settled && x.again))

/-- The lowest claimable slice (R235). -/
def Chain.lowestClaimable (c : Chain) : Option Nat := ((c.slices.map (·.1)).filter fun m => c.claimable (c.slice m)).min?

/-- A fine phase has ended: no slice is claimable and no claim is held (R224). -/
def Chain.fineOver (c : Chain) : Bool := c.lowestClaimable.isNone && c.slices.all fun e => e.2.claim.isNone

def State.setChain (s : State) (h : Nat) (c : Chain) : State := { s with chains := tset s.chains h c }

/-- The fine claim of a task ends (R235). -/
def State.endClaim (s : State) (uid : Nat) : State :=
  { s with chains := s.chains.map fun e =>
      (e.1, { e.2 with slices := e.2.slices.map fun f =>
        if f.2.claim = some uid then (f.1, { f.2 with claim := none }) else f }) }

/-- The slice that a task holds a fine claim on: chain, index, slice. -/
def State.claimOf (s : State) (uid : Nat) : Option (Nat × Nat × Slice) :=
  s.chains.findSome? fun e => e.2.slices.findSome? fun f =>
    if f.2.claim = some uid then some (e.1, f.1, f.2) else none

/-- The time that the controller hands on: the greatest T that it has heard, and the RT of the package (R331). -/
def State.slcTime (s : State) : Nat := max s.slcT s.mem.rt

/-- A pool word ORed at its home by the controller (R238, R245). -/
def State.poolOr (s : State) (pa : Nat) (bits : DWord) : State :=
  let s := s.reach (lineOf pa)
  let h := s.mem.line (lineOf pa)
  let t := max s.slcT (h.r + 1)
  let old : DWord := leWord 64 (readBytes s.mem.bytes pa 8)
  let s := s.writeHome pa (wordLe 8 (old ||| bits))
  { s with mem := s.mem.setLine (lineOf pa) { h with w := t, r := t }, slcT := max s.slcT t }

/-- Insertion into an ascending list. -/
def insertAsc (x : Nat) : List Nat → List Nat
  | [] => [x]
  | y :: ys => if x ≤ y then x :: y :: ys else y :: insertAsc x ys

/-- Discard(q) of R238: live slices from q on become FREE and their pages go back to the pool, in ascending page number. -/
def State.discard (s : State) (h : Nat) (c : Chain) (q : Nat) : State × Chain :=
  let gone := c.slices.filter fun e => q ≤ e.1
  let pages := (gone.flatMap fun e => e.2.pages).foldl (fun l p => insertAsc p l) []
  let freed (x : Slice) : Slice := if x.live then {} else { x with pages := [] }
  let c := { c with slices := gone.foldl (fun m e => mset {} m e.1 (freed (c.slice e.1))) c.slices }
  let s := s.setChain h c
  (pages.foldl (fun s g => s.poolOr (c.pool.getD (g / 64) 0) (1#64 <<< (g % 64))) s, c)

/-- A chain is closed (R244): a TOKEN chain discards from its cairn, the contexts are freed, claims and records end. -/
def State.closeChain (s : State) (h : Nat) : State :=
  match tget s.chains h with
  | none => s
  | some c =>
    let s := if c.token then (s.discard h c c.cairn).1 else s
    { s with chains := tdel s.chains h, chainLog := tset s.chainLog h c.opened }

/-- The chains that a task owns are closed when it ends (R230). -/
def State.closeOwned (s : State) (uid : Nat) : State :=
  (s.chains.filter fun e => e.2.owner = uid).foldl (fun s e => s.closeChain e.1) s

/-- A trap on a claimed PROVISIONAL slice (R228): the claim ends, the record is written, the slice is
FAULTED-PROVISIONAL. -/
def State.faultSlice (s : State) (h m : Nat) (x : Slice) (cause : BitVec 8) (taddr tbun : DWord) (rslot : BitVec 3) :
    State :=
  match tget s.chains h with
  | none => s
  | some c =>
    s.setChain h (c.setSlice m { x with
      state := .faulted, claim := none, due := false,
      frec := some { cause := cause, taddr := taddr, tbun := tbun, rslot := rslot, gen := x.gen, coarse := false } })

/-- A coarse failure of the step of slice n (R237): a record on n + 1, and the walk goes on. -/
def State.coarseFail (s : State) (h n : Nat) : State :=
  match tget s.chains h with
  | none => s
  | some c =>
    let x := c.slice (n + 1)
    let c := if x.live then c.setSlice (n + 1) { x with
      frec := some ⟨causeSliceFault, 0, 0, 0, x.gen, true, false⟩ } else c
    match c.phase with
    | .walk m (some k) => s.setChain h (if k = n then { c with phase := .walk (m + 1) none } else c)
    | _ => s.setChain h c

end Sys2Proof.Machine
end

