-- ==== Sys2Proof/Machine/Walk.lean ====
section
/-! DEFINITION. What the slice controller does of itself (R224, R230, R235, R237): the steps of walks, the ends of fine
phases, and the answers to the claims and waits that it holds. -/

namespace Sys2Proof.Machine

/-! ### Walks -/

/-- The next slice that a walk visits from `m` on: live, with a live successor that is not settled (R224). -/
def Chain.nextStep (c : Chain) (m : Nat) : Option Nat :=
  (c.liveFrom m).find? fun n => let y := c.slice (n + 1); y.live && !y.counted

/-- A record that the dispatcher reads from local memory, in the address space of a queue with user privilege (R87, R237);
none where it is unreadable. The bytes of a block marked uncorrectable are read as they are (DESIGN CHOICE, log 74). -/
def State.readRecord (s : State) (q : Nat) (a : DWord) (len : Nat) : State × Option (List Byte) :=
  if 2 ^ 48 ≤ a.toNat then (s, none)
  else
    match s.pageByte .unit q .load false a.toNat with
    | .ok (s, .mem pa) =>
      if (s.mem.firstGone (.mem pa) len).isSome then (s, none) else let (s, d) := s.remoteRead pa len; (s, some d)
    | .ok (s, _) => (s, none)
    | .error f => (f.s, none)

/-- A walk goes on: it queues the next coarse task and awaits its start, or ends with a hold (R224). A step that cannot queue
its task has a coarse failure (R237). -/
def State.walkOn : Nat → State → Nat → State
  | 0, s, _ => s
  | fuel + 1, s, h =>
    match tget s.chains h with
    | none => s
    | some c =>
      match c.phase with
      | .walk m none =>
        match c.nextStep m with
        | none => s.setChain h { c with phase := .hold, news := true }
        | some n =>
          let s := s.setChain h { c with phase := .walk n (some n) }
          let (s, r) := s.readRecord c.ownerQueue c.crec 128
          match r, (s.queue c.cq).enable with
          | some bs, true =>
            let q := s.queue c.cq
            s.setQueue c.cq { q with items := q.items ++ [.walk bs ⟨h, n, c.opened, c.walks⟩] }
          | _, _ => State.walkOn fuel (s.coarseFail h n) h
      | _ => s

/-- A fine phase ends: the chain is complete, or the next walk begins (R224). -/
def Chain.endFine (c : Chain) : Chain :=
  let c := c.advanceCairn
  if c.cairn = c.n then { c with phase := .complete, news := true }
  else { c with phase := .walk 0 none, walks := c.walks + 1 }

/-! ### Claims and waits that the controller holds -/

/-- A request that the controller holds: the core and the task that made it, the position of its slot, and its chain. The task may have
been suspended meanwhile (R277). -/
structure Held where
  n : Nat
  pos : Nat
  task : Task
  chain : Nat
  wait : Bool
  deriving DecidableEq, Repr

/-- The requests that the controller holds. -/
def State.heldRequests (s : State) : List Held :=
  s.cores.flatMap fun k => k.2.tasks.flatMap fun x =>
    match x.bundle with
    | none => []
    | some b => b.answers.filterMap fun a =>
      match a.2 with
      | .slice h w => some ⟨k.1, a.1, x.task, h, w⟩
      | _ => none

/-- The step at which the grid of a task was placed (R235). -/
def State.bornOf (s : State) (t : Task) : Nat := match tget s.grids t.grid with | some g => g.born | none => 0

/-- The answer of a complete or closed chain to a claim (R235). -/
def noSlice : DWord := BitVec.allOnes 64

/-- The cairn with bit 63 set on completion (R225, R240). -/
def Chain.cairnWord (c : Chain) : DWord :=
  BitVec.ofNat 64 (c.cairn % 65536) ||| (if c.phase = .complete then 1#64 <<< 63 else 0)

/-- A slice reference (R223). -/
def sliceRef (h n : Nat) : DWord := BitVec.ofNat 64 (65536 * h + n)

/-- A slice is claimed (R235). -/
def Slice.take (x : Slice) (uid : Nat) : Slice :=
  { x with claim := some uid, due := false, again := false, lastClaim := x.gen }

/-- A chain has been opened and closed since the grid of a task was placed (R235). -/
def State.closedSince (s : State) (t : Task) (h : Nat) : Bool :=
  match tget s.chainLog h with
  | some o => decide (s.bornOf t ≤ o)
  | none => false

/-- The answer to a request that the controller holds, where it can be given now (R225, R235, R240). -/
def State.heldAnswer (s : State) (r : Held) : Option (State × DWord) :=
  match tget s.chains r.chain with
  | none =>
    if !r.wait && s.closedSince r.task r.chain then some (s, noSlice) else none
  | some c =>
    if r.wait then
      if c.news ∨ c.phase = .complete then some (s.setChain r.chain { c with news := false }, c.cairnWord) else none
    else if c.phase = .complete ∨ s.closedSince r.task r.chain then some (s, noSlice)
    else match c.lowestClaimable with
      | none => none
      | some m =>
        some (s.setChain r.chain (c.setSlice m ((c.slice m).take r.task.uid)), sliceRef r.chain m)

/-- An answer of the controller to a context (R331). -/
def State.answerHeld (s : State) (r : Held) (v : DWord) : State :=
  (s.modCore r.n fun k => k.modTask r.task.uid fun x =>
    { x with bundle := x.bundle.map fun b => { b with answers := tset b.answers r.pos (.value v) } }).raiseT r.n s.slcTime

/-- One of a list, by a number. -/
def pickOne {α : Type} (i : Nat) : List α → Option α
  | [] => none
  | [x] => some x
  | xs => xs[i % xs.length]?

/-- One thing that the controller does: an answer, the end of a fine phase, or the next steps of a walk. Which of several
waiting claims is answered first is a free value (log 12). -/
def State.serveOne (s : State) : Option State :=
  let rs := s.heldRequests.filter fun r => (s.heldAnswer r).isSome
  match pickOne (Config.claimPick s.clock) rs with
  | some r => (s.heldAnswer r).map fun a => a.1.answerHeld r a.2
  | none =>
    match s.chains.find? fun e => !e.2.token && e.2.phase = .fine && e.2.fineOver with
    | some (h, c) => some (s.setChain h c.endFine)
    | none =>
      (s.chains.find? fun e => match e.2.phase with | .walk _ none => true | _ => false).map fun e =>
        State.walkOn (e.2.slices.length + 1) s e.1

/-- The controller does everything that it can do. -/
def State.serveAll : Nat → State → State
  | 0, s => s
  | fuel + 1, s => match s.serveOne with | some t => State.serveAll fuel t | none => s

/-- The controller does everything that it can do now (R230). -/
def State.serveSlices (s : State) : State := State.serveAll (s.heldRequests.length + 4 * s.chains.length) s

end Sys2Proof.Machine
end

