-- ==== Sys2Proof/Machine/Ops.lean ====
section
/-! DEFINITION. The operations that every meaning shares: reading the operand latch, pending writes (R39 to R43), how a
context leaves its core (R79, R94, R274), the end of a task (R80), taking a trap (R265) and returning from one (R268),
delivering a user event and returning from it (R270, R272), and the running of one slot of a bundle. -/

namespace Sys2Proof.Machine

/-! ### Reading the latch -/

def allOnes : Mask := BitVec.allOnes 1024

/-- A scalar operand (R21); while INEVT is 1, numbers 28 to 31 name es0 to es3 (R271). -/
def Latch.s (l : Latch) (n : BitVec 5) : DWord :=
  if n = 0 then 0
  else if l.ctl.inevt ∧ 28 ≤ n.toNat then mget 0 l.regs.es (n.toNat - 28)
  else mget 0 l.regs.s n.toNat

/-- A predicate operand, 0 to 15: p0 and q0 read true (R21). -/
def Latch.p (l : Latch) (n : Nat) : Bool :=
  if n % 8 = 0 then true else if n < 8 then l.regs.p.getLsbD n else l.regs.q.getLsbD (n - 8)

/-- A mask operand: m0 reads all ones (R21). -/
def Latch.m (l : Latch) (n : Nat) : Mask := if n = 0 then allOnes else mget 0 l.regs.m n

/-- A vector register of the latch. -/
def Latch.vreg (l : Latch) (n : Nat) : Lanes := mget [] l.regs.v n

def Latch.mp (l : Latch) (n : Nat) : DWord := mget 0 l.regs.mp n

/-- The active element mask (R161): the mask register that EMASK names. -/
def Latch.active (l : Latch) : Mask := l.m l.ctl.emask.toNat

/-- The guard of a slot (R20). -/
def Latch.guard (l : Latch) (x : SlotWord) : Bool := l.p (x.gn.toNat + (if x.bank then 8 else 0)) ^^ x.neg

/-- The operand latch of a context as it stands (R42). -/
def Ctx.latch (x : Ctx) (k : Core) : Latch :=
  { regs := x.regs, ctl := x.ctl, cnt := x.cnt, oppt := k.oppt, slotmap := k.slotmap, pwrmask := k.pwrmask }

/-! ### Pending writes -/

/-- The register of a pending write, as a set. -/
def RegWrite.named : RegWrite → Absent
  | .s n _ => { s := setBit 0 n true }
  | .v n _ _ | .vBits n _ _ _ => { v := setBit 0 n true }
  | .m n _ _ => { m := setBit 0 n true }
  | .mp n _ => { mp := setBit 0 n true }
  | .st n _ => { st := setBit 0 n true }
  | _ => {}

def Absent.and (x y : Absent) : Absent := ⟨x.s &&& y.s, x.v &&& y.v, x.m &&& y.m, x.mp &&& y.mp, x.st &&& y.st⟩
def Absent.or (x y : Absent) : Absent := ⟨x.s ||| y.s, x.v ||| y.v, x.m ||| y.m, x.mp ||| y.mp, x.st ||| y.st⟩
def Absent.without (x y : Absent) : Absent :=
  ⟨x.s &&& ~~~y.s, x.v &&& ~~~y.v, x.m &&& ~~~y.m, x.mp &&& ~~~y.mp, x.st &&& ~~~y.st⟩
def Absent.none (x : Absent) : Bool := x.s = 0 && x.v = 0 && x.m = 0 && x.mp = 0 && x.st = 0

/-- Every register that a header declares (R73). -/
def Header.declared (h : Header) : Absent :=
  ⟨BitVec.ofNat 32 (2 ^ h.ns - 1), BitVec.ofNat 16 (2 ^ h.nv - 1), BitVec.ofNat 8 (2 ^ h.nm - 1), BitVec.ofNat 8 (2 ^ h.nmp - 1),
    BitVec.ofNat 16 (2 ^ h.nst - 1)⟩

/-- The lanes of `sel` take those of `x`. -/
def mergeLanes (sel : Mask) (x old : Lanes) : Lanes :=
  if sel = allOnes then x else mtab 0 1024 fun i => if sel.getLsbD i then mget 0 x i else mget 0 old i

/-- The bits `bits` of the lanes of `sel` take those of `x`. -/
def mergeBits (bits : Word) (sel : Mask) (x old : Lanes) : Lanes :=
  mergeLanes sel (mtab 0 1024 fun i => (mget 0 x i &&& bits) ||| (mget 0 old i &&& ~~~bits)) old

/-- A write reaches its destination. -/
def Ctx.put (x : Ctx) : RegWrite → Ctx
  | .s n v => { x with regs := { x.regs with s := mset 0 x.regs.s n v } }
  | .es n v => { x with regs := { x.regs with es := mset 0 x.regs.es n v } }
  | .p n b => { x with regs := { x.regs with p := setBit x.regs.p n b } }
  | .q n b => { x with regs := { x.regs with q := setBit x.regs.q n b } }
  | .v n sel v => { x with regs := { x.regs with v := mset [] x.regs.v n (mergeLanes sel v (mget [] x.regs.v n)) } }
  | .vBits n bits sel v =>
    { x with regs := { x.regs with v := mset [] x.regs.v n (mergeBits bits sel v (mget [] x.regs.v n)) } }
  | .m n sel v => { x with regs := { x.regs with m := mset 0 x.regs.m n ((v &&& sel) ||| (mget 0 x.regs.m n &&& ~~~sel)) } }
  | .mp n v => { x with regs := { x.regs with mp := mset 0 x.regs.mp n v } }
  | .st n v => { x with units := { x.units with st := mset {} x.units.st n v } }
  | .grammar m => { x with units := { x.units with cand := { x.units.cand with mask := m } } }
  | .path w => { x with units := { x.units with cand := { x.units.cand with path := w } } }
  | .xa d s c => { x with units := { x.units with xa := { x.units.xa with divz := d, stag := s, conv := c } } }

/-- A write becomes visible (R39). A suspension saves the register (R274). -/
def Ctx.apply (x : Ctx) (w : RegWrite) : Ctx := { x.put w with dirty := x.dirty.or w.named }

/-- The data of a landing has arrived or never will. -/
def PWrite.ready (w : PWrite) : Bool := match w.landing with | some l => l.status != .waiting | none => true

/-- The data of a landing came marked uncorrectable, or its home did not answer (R110). -/
def PWrite.failed (w : PWrite) : Bool :=
  match w.landing with | some l => l.status = .uncorrectable || l.status = .failed | none => false

/-- A landing that is due and will never have its data (R110), as the trap that it raises: REMOTE_FAIL of an atomic names the
atomic's address. -/
def PWrite.trapOf (w : PWrite) : Option Deferred :=
  match w.landing with
  | some l =>
    if l.status = .uncorrectable then some { id := l.id, cause := causeDataUncorr, taddr := l.slot }
    else if l.status = .failed then
      some { id := l.id, cause := causeRemoteFail, taddr := if l.atomic then l.addr else l.slot }
    else none
  | none => none

/-- The writes that become visible at the next bundle (R39, R41): in order of issue, so that the last issued is kept. -/
def Ctx.settle (x : Ctx) : Ctx :=
  let due := x.pend.filter fun w => decide (w.due ≤ x.count) && w.ready
  let x := { x with pend := x.pend.filter fun w => !(decide (w.due ≤ x.count) && w.ready) }
  due.foldl (fun x w => if w.failed then x else x.apply w.dest) x

/-- A landing is due whose data has not arrived: the clock domain freezes (R109). -/
def Ctx.frozen (x : Ctx) : Bool := x.pend.any fun w => decide (w.due ≤ x.count) && !w.ready

/-- A write that becomes visible `l` bundles after the present one. -/
def Ctx.push (x : Ctx) (l : Nat) (w : RegWrite) : Ctx := { x with pend := x.pend ++ [{ due := x.count + l, dest := w }] }

/-- A write of a scalar field (R21, R271): s0 discards. -/
def Ctx.putS (x : Ctx) (lt : Latch) (d : BitVec 5) (l : Nat) (v : DWord) : Ctx :=
  if d = 0 then x
  else if lt.ctl.inevt ∧ 28 ≤ d.toNat then x.push l (.es (d.toNat - 28) v)
  else x.push l (.s d.toNat v)

/-- A write of a predicate field: p0 and q0 discard (R21). -/
def Ctx.putP (x : Ctx) (d : BitVec 5) (l : Nat) (b : Bool) : Ctx :=
  if d.toNat % 8 = 0 then x
  else if d.toNat < 8 then x.push l (.p d.toNat b) else x.push l (.q (d.toNat - 8) b)

/-- A write of a mask field: m0 discards (R21). -/
def Ctx.putM (x : Ctx) (d : BitVec 5) (l : Nat) (sel v : Mask) : Ctx :=
  if d = 0 then x else x.push l (.m d.toNat sel v)

/-! ### The acting slot -/

/-- The slot that acts: core, context, its bundle and the slot's place in it. -/
structure Env where
  n : Nat
  c : Nat
  x : Ctx
  b : Bundle
  p : Placed
  deriving DecidableEq, Repr

/-- The bundle is still before its issue: request slots send their requests (R82). -/
def Env.asking (e : Env) : Bool := e.b.stage != .issued

/-- The context with the privilege of the bundle's latch, by which its accesses are translated (R123). -/
def Env.px (e : Env) : Ctx := { e.x with ctl := { e.x.ctl with status := e.b.latch.ctl.status } }

/-- The slot at which a bundle stands. -/
def Bundle.here (b : Bundle) : Option Placed := b.slots[if b.stage = .issued then b.cur else b.ask]?

/-- The acting slot of the state. -/
def State.env (s : State) : Option Env :=
  match s.actor with
  | .engine _ => none
  | .core n =>
    match (s.core n).running with
    | none => none
    | some c =>
      match s.ctx? n c with
      | none => none
      | some x =>
        match x.bundle with
        | none => none
        | some b =>
          match b.here with
          | none => none
          | some p => some ⟨n, c, x, b, p⟩

/-- The address of a slot's first word, its EXT word when it has one (R31). -/
def Env.slotAddr (e : Env) : DWord := e.b.addr + BitVec.ofNat 64 (4 * e.p.pos)

/-- The address after the bundle's last word. -/
def Bundle.next (b : Bundle) : DWord := b.addr + BitVec.ofNat 64 (4 * b.size)

def State.modBundle (s : State) (n c : Nat) (g : Bundle → Bundle) : State :=
  s.modCtx n c fun x => { x with bundle := x.bundle.map g }

/-! ### Leaving the core -/

/-- A context has done an irrevocable act (R280). -/
def State.irrevocable (s : State) (n c : Nat) : State :=
  s.modCtx n c fun x => { x with buf := { x.buf with irrevocable := true } }

/-- The context that holds a core gives it up (R79). -/
def State.release (s : State) (n c : Nat) : State :=
  s.modCore n fun k => if k.running = some c then { k with running := none, last := c } else k

/-- A context of the core may issue (R79): it is ready, and ready for edges where it is a member of a gang (R255). -/
def Core.mayIssue (k : Core) (x : Ctx) : Bool := x.run = .ready && k.edgesAllow x

/-- The ready context that comes first after the one that ran last (R79). -/
def Core.nextReady (k : Core) : Option Nat :=
  ((List.range 8).map fun i => (k.last + 1 + i) % 8).find? fun c => (tget k.ctxs c).any k.mayIssue

/-- Another context of the core is ready (R94). -/
def Core.otherReady (k : Core) (c : Nat) : Bool := k.ctxs.any fun e => e.1 != c && k.mayIssue e.2

/-- The address of a save area (R262). -/
def Ctx.saveAt (x : Ctx) (off : Nat) : Nat := x.ctl.savebase.toNat % Config.memBytes + off

/-- Pieces, none of which crosses a line, that lie in blocks which a reset has not removed from the memory map (R354). -/
def Memory.present (m : Memory) (ps : List (Nat × List Byte)) : List (Nat × List Byte) :=
  if m.gone = [] then ps else ps.filter fun p => !m.missing p.1

/-- The pieces of stores to a save area, each from an offset on. -/
def Ctx.savePieces (x : Ctx) (ws : List (Nat × List Byte)) : List (Nat × List Byte) :=
  ws.flatMap fun w => cutLines (x.saveAt w.1) w.2

/-- Stores of the core to a save area, which take their places in the order (R265). -/
def State.saveStores (s : State) (n : Nat) (x : Ctx) (ws : List (Nat × List Byte)) : State :=
  (s.placeAll n).storeAll n (s.mem.present (x.savePieces ws))

/-- Stores of the core to a save area that wait behind its earlier accesses: those of a task that ends, whose accesses nothing
orders (R358). They count in no counter. -/
def State.queueSave (s : State) (n : Nat) (x : Ctx) (ws : List (Nat × List Byte)) : State :=
  let (id, s) := s.takeId
  s.modCore n fun k => { k with
    outq := k.outq ++ [{ id := id, uid := 0, ctx := 0, pieces := s.mem.present (x.savePieces ws) }] }

/-- One such store. -/
def State.saveStore (s : State) (n : Nat) (x : Ctx) (off : Nat) (bs : List Byte) : State := s.saveStores n x [(off, bs)]

/-- A doubleword of a save area. -/
def State.saveWord (s : State) (x : Ctx) (off : Nat) : DWord := leWord 64 (s.peek (x.saveAt off) 8)

/-- A region of a save area whose layout the spec does not give (log 8): where it starts, its size, and whether it is written
whole. -/
structure Region where
  off : Nat
  size : Nat
  whole : Bool := true
  deriving DecidableEq, Repr

/-- What the core writes to a region at a step. -/
def Region.bytes (r : Region) (clock : Nat) : List Byte :=
  let bs := Config.saveImage r.off clock
  if r.whole then (bs ++ List.replicate r.size 0).take r.size else bs.take r.size

/-- The regions of R263: the loop states, the routine state and what follows its first doubleword, the stream registers, the
extrapolation control, the tags and the data of the vestibule, the operand latch, and the pending-write queue. -/
def loopRegion : Region := { off := 0x500, size := 128 }
def routineRegion : Region := { off := 0x580, size := 64 }
def routineRest : Region := { off := 0x588, size := 56 }
def streamRegion (n : Nat) : Region := { off := 0x800 + 64 * n, size := 64 }
def xaRegion : Region := { off := 0x1110, size := 64 }
def vestibuleRegions : List Region := [{ off := 0x1150, size := 512 }, { off := 0x30000, size := 131072 }]
def latchRegion : Region := { off := 0x1B000, size := 81920 }
def pendRegion : Region := { off := 0x50000, size := 3866624, whole := false }

/-- Some parts of memory, each an address and a length, hold a byte of a line. -/
def coversLine (spans : List (Nat × Nat)) (l : Nat) : Bool := spans.any fun p => p.1 / 64 ≤ l && 64 * l < p.1 + p.2

/-- Parts of memory written whole, their lines at one time. -/
def Memory.putParts (m : Memory) (clock t : Nat) (parts : List (Nat × List Byte)) : Memory :=
  let m : Memory := { m with
    bytes := parts.foldl (fun m p => mrun m p.1 (p.2.map fun b => if b = 0 then none else some b)) m.bytes
    lines := (spansOf parts).foldl (fun m p =>
      mrun m (p.1 / 64) (List.replicate ((p.1 + p.2 + 63) / 64 - p.1 / 64) (some { w := t, r := t }))) m.lines }
  (m.dropGone.unmark (spansOf parts)).fit clock

/-- What comes before a write of some parts of memory: their owners are recalled, and their pages are as R343 to R346 say. -/
def State.beforeParts (s : State) (spans : List (Nat × Nat)) : State :=
  let s := (s.mem.lines.filter fun e => e.2.own.isSome && coversLine spans e.1).foldl (fun s e => s.recall e.1) s
  spans.foldl (fun s p => (List.range ((p.1 + p.2 + 65535) / 65536 - p.1 / 65536)).foldl
    (fun s i => s.beforeWrite (65536 * (p.1 / 65536 + i))) s) s

/-- The time of a write of some parts of memory by core `n`: after its T and every lease of their lines (R325, R328). -/
def State.partsTime (s : State) (n : Nat) (spans : List (Nat × Nat)) : Nat :=
  s.mem.memt.foldl (fun t e => max t (e.2 + 1)) ((s.mem.lines.filter fun e => coversLine spans e.1).foldl
    (fun t e => max t (e.2.r + 1)) (s.core n).t)

/-- Some regions of a save area are written (R263): the core's stores of them take one time. -/
def State.saveRegions (s : State) (n : Nat) (x : Ctx) (rs : List Region) : State :=
  let s := s.placeAll n
  let parts := rs.map fun r => (x.saveAt r.off, r.bytes s.clock)
  let s := s.beforeParts (spansOf parts)
  let t := s.partsTime n (spansOf parts)
  ({ s with mem := s.mem.putParts s.clock t parts } : State).raiseT n t

/-- DEGRED (R48): an instance of the core is not effective. -/
def Core.degraded (k : Core) : Bool := (k.slotmap &&& k.pwrmask) != 0x1FF

/-- STATUS as it is read (R125). -/
def statusWord (c : Ctl) (degraded : Bool) : DWord :=
  BitVec.setWidth 64 c.status ||| (if degraded then 0x80 else 0)

/-- A counter as it is read (R116). -/
def counterWord (n : Nat) (loss : Bool) : DWord := BitVec.ofNat 64 (n % 2 ^ 32) ||| (if loss then 1#64 <<< 63 else 0)

/-- A control register as it is read (R124). -/
def Latch.creg (l : Latch) (n : Nat) : DWord :=
  let c := l.ctl
  match n with
  | 0x00 => statusWord c ((l.slotmap &&& l.pwrmask) != 0x1FF)
  | 0x01 => c.cause.setWidth 64
  | 0x02 => c.taddr
  | 0x03 => c.tbun
  | 0x04 => c.evtvec
  | 0x05 => c.evtsrc.setWidth 64
  | 0x06 => c.savebase
  | 0x07 => c.dmr
  | 0x08 => c.leglim.setWidth 64
  | 0x09 => c.equota
  | 0x0A => c.eused
  | 0x0B => c.fflags.setWidth 64
  | 0x0C => c.fmode.setWidth 64
  | 0x0D => c.emask.setWidth 64
  | 0x0E => c.rngkey
  | 0x0F => c.rngsrc
  | 0x10 => c.rngpos
  | 0x11 => c.tbudget.setWidth 64
  | 0x12 => l.oppt.setWidth 64
  | 0x13 => counterWord l.cnt.st false
  | 0x14 => counterWord l.cnt.rm l.cnt.loss.isSome
  | 0x15 => counterWord l.cnt.as false
  | 0x16 => c.xcnt
  | 0x17 => l.slotmap.setWidth 64
  | 0x18 => l.pwrmask.setWidth 64
  | _ => 0

/-- The little-endian bytes of a vector register (R159). -/
def laneBytes (v : Lanes) : List Byte := (List.range 1024).flatMap fun i => wordLe 4 (mget 0 v i)

/-- A register of a kind whose set names it. -/
def savedOf {w : Nat} (set : BitVec w) (g : Nat → Nat × List Byte) : List (Nat × List Byte) :=
  ((List.range w).filter fun i => set.getLsbD i).map g

/-- What a suspension writes where R263 gives the layout (R274): the declared registers written since the context came onto its
core, and the registers and units that every context has. -/
def Ctx.saveImage (x : Ctx) (k : Core) : List (Nat × List Byte) :=
  let bit (b : Bool) : Byte := if b then 1 else 0
  let d := (x.dirty.and x.task.hdr.declared).without x.absent
  let l := x.latch k
  savedOf d.s (fun i => (0x200 + 8 * i, wordLe 8 (mget 0 x.regs.s i)))
    ++ [(0x300, (List.range 8).map (fun i => bit (i = 0 || x.regs.p.getLsbD i))
          ++ (List.range 8).map fun i => bit (i = 0 || x.regs.q.getLsbD i)),
        (0x310, (List.range 4).flatMap fun i => wordLe 8 (x.loops.counter i))]
    ++ savedOf d.mp (fun i => (0x330 + 8 * i, wordLe 8 (mget 0 x.regs.mp i)))
    ++ [(0x370, (List.range 4).flatMap fun i => wordLe 8 (mget 0 x.regs.es i)),
        (0x400, (List.range 25).flatMap fun i => wordLe 8 (l.creg i)),
        (0x5C0, wordLe 8 x.ctl.qpos)]
    ++ savedOf d.m (fun i => (0xC00 + 128 * i, wordLe 128 (mget 0 x.regs.m i)))
    ++ [(0x1000, readBytes x.units.epi 0 256 ++ wordLe 16 x.units.cell)]
    ++ savedOf d.v (fun i => (0x2000 + 4096 * i, laneBytes (mget [] x.regs.v i)))
    ++ x.units.xa.history.zipIdx.map (fun e => (0x12000 + 4096 * e.2, laneBytes e.1))
    ++ x.units.xa.prev.toList.map fun v => (0x1A000, laneBytes v)

/-- The regions that a suspension writes (R274, log 8): those of the declared stream registers, extrapolation, loops, routine,
vestibule and pending-write queue. -/
def Ctx.saveRegions (x : Ctx) : List Region :=
  (List.range x.task.hdr.nst).map streamRegion ++ [xaRegion, loopRegion, routineRegion] ++ vestibuleRegions ++ [pendRegion]

/-- The numbers that a set holds. -/
def setBits {w : Nat} (b : BitVec w) : List Nat := (List.range w).filter fun i => b.getLsbD i

/-- Registers that are absent come from the save area (R263, R275); streams, whose layout there the spec does not give, are those
that the context has kept (log 15). -/
def State.loadRegs (s : State) (x : Ctx) (a : Absent) : Ctx :=
  let a := x.absent.and a
  let rd (off len : Nat) : List Byte := s.peek (x.saveAt off) len
  { x with
    absent := x.absent.without a
    regs := { x.regs with
      s := (setBits a.s).foldl (fun m i => if i = 0 then m else mset 0 m i (leWord 64 (rd (0x200 + 8 * i) 8))) x.regs.s
      v := (setBits a.v).foldl (fun m i => mset [] m i (lanesOf (rd (0x2000 + 4096 * i) 4096))) x.regs.v
      m := (setBits a.m).foldl (fun m i => if i = 0 then m else mset 0 m i (leWord 1024 (rd (0xC00 + 128 * i) 128))) x.regs.m
      mp := (setBits a.mp).foldl (fun m i => mset 0 m i (leWord 64 (rd (0x330 + 8 * i) 8))) x.regs.mp } }

/-- The control registers that a suspension has saved come back (R263, R275): all but EUSED, XCNT and the counters, which go on while the
context is suspended, and those of the core. -/
def Ctl.reload (c : Ctl) (w : Nat → DWord) (qpos : DWord) : Ctl :=
  { c with
    status := (w 0x00).setWidth 7, cause := (w 0x01).setWidth 8, taddr := w 0x02, tbun := w 0x03, evtvec := w 0x04 &&& ~~~3#64
    evtsrc := (w 0x05).setWidth 8, savebase := w 0x06 &&& ~~~0x3FFFFF#64, dmr := w 0x07, leglim := (w 0x08).setWidth 48
    equota := w 0x09, fflags := (w 0x0B).setWidth 5, fmode := (w 0x0C).setWidth 11, emask := (w 0x0D).setWidth 3
    rngkey := w 0x0E, rngsrc := w 0x0F, rngpos := w 0x10, tbudget := (w 0x11).setWidth 32, qpos := qpos }

/-- What a resumption restores from the save area at once (R275): control registers, predicates, loop counters and es0 to es3. -/
def State.reload (s : State) (x : Ctx) : Ctx :=
  let bit (off i : Nat) : Bool := ((s.peek (x.saveAt (off + i)) 1).getD 0 0).getLsbD 0
  { x with
    ctl := x.ctl.reload (fun i => s.saveWord x (0x400 + 8 * i)) (s.saveWord x 0x5C0)
    regs := { x.regs with
      p := bitsOf 8 fun i => i != 0 && bit 0x300 i
      q := bitsOf 8 fun i => i != 0 && bit 0x308 i
      es := (List.range 4).foldl (fun m i => mset 0 m i (s.saveWord x (0x370 + 8 * i))) [] }
    loops := { x.loops with lc := (List.range 4).foldl (fun m i => mset 0 m i (s.saveWord x (0x310 + 8 * i))) [] } }

/-- The entries of the pending-write queue, those frozen by a trap or an event included (R264). -/
def Ctx.npend (x : Ctx) : Nat :=
  x.pend.length + (x.frame.map fun f => f.pend.length).getD 0 + (x.eframe.map fun f => f.pend.length).getD 0

/-- How a context stands once it has been off its core: a member of a gang keeps the passes to be made on its behalf (R256), and a phase
that is being cancelled waits on (R279). -/
def RunState.suspended : RunState → RunState
  | .edges p => .edges p
  | .blocked .cancel => .blocked .cancel
  | _ => .ready

/-- A suspension (R274): the state is saved, LIVE[1] set, and the context is freed. -/
def State.suspend (s : State) (n c : Nat) (quota : Bool) : State :=
  let s := s.placeAll (n := n)
  let s := s.release n c
  let x := { s.ctx n c with leg := {} }
  let live := (s.peek (x.saveAt 41) 1).getD 0 0
  let s := s.saveStores n x (x.saveImage (s.core n) ++ [(41, [live ||| 2]), (44, natLe 4 x.npend), (48, natLe 8 x.buf.k)])
  let k := s.core n
  let s := s.setCore n { k with
    ctxs := tdel k.ctxs c
    suspended := tset k.suspended x.task.uid
      { ctx := { s.ctx n c with run := x.run.suspended, leg := {} }, slot := c, quota := quota, since := s.clock } }
  s.saveRegions n x x.saveRegions

/-- The action of a leg-limit request or of an exhausted energy quota at the point where it is taken (R94, R277). -/
def State.takeAction (s : State) (n c : Nat) : State :=
  let x := s.ctx n c
  if x.leg.energy then s.suspend n c true
  else
    let s := s.modCtx n c fun x => { x with leg := {} }
    if (s.core n).otherReady c then s.release n c
    else if s.taskWaits n c then s.suspend n c false
    else s

/-- A leg-limit action or a suspension for energy is due at the next point (R94, R277); none while PRIV is 1 (R265). -/
def Ctx.actionDue (x : Ctx) : Bool := (x.leg.request.isSome || x.leg.energy) && !x.ctl.priv

/-! ### The end of a task -/

/-- Every window of a task is unmapped (R336). -/
def State.unmapAll (s : State) (n : Nat) (uid : Nat) : State :=
  match (s.core n).findTask uid with
  | none => s
  | some x =>
    let ls := x.windows.flatMap fun e => e.2.lines.map fun l =>
      ((e.2.pages.getD (l.1 / 1024) (0, false)).1 + 64 * (l.1 % 1024)) / 64
    let s := ls.foldl (fun s l => s.recall l) s
    s.setCore n ((s.core n).modTask uid fun y => { y with windows := [] })

/-- XCNT with an entry's counts added, each stopping at 2^32 − 1 (R209). -/
def addXcnt (x : DWord) (o v : Nat) : DWord :=
  BitVec.ofNat 32 (min (2 ^ 32 - 1) ((x.extractLsb' 32 32).toNat + o))
    ++ BitVec.ofNat 32 (min (2 ^ 32 - 1) ((x.extractLsb' 0 32).toNat + v))

/-- The held stores of a buffer phase issue in program order (R86). -/
def State.issueHeld (s : State) (n c : Nat) (x : Ctx) : State :=
  let s := x.buf.held.foldl (fun s h => s.asyncWrites n h.writes) (s.placeAll n)
  s.modCore n fun k => { k with async := k.async ++ x.buf.held.map fun h => { id := h.id, uid := x.task.uid, ctx := c } }

/-- The held deltas of a buffer phase commit (R86), and its held stores are counted. -/
def Ctx.commitHeld (x : Ctx) : Ctx :=
  { x with
    cnt := { x.cnt with as := x.cnt.as + x.buf.held.length }
    ctl := { x.ctl with xcnt := addXcnt x.ctl.xcnt x.buf.xof x.buf.xnv }
    buf := { x.buf with held := [], xof := 0, xnv := 0 } }

/-- A buffer phase ends (R86). -/
def State.commitPhase (s : State) (n c : Nat) : State := (s.issueHeld n c (s.ctx n c)).modCtx n c Ctx.commitHeld

/-- What the end of a task discards (R80). -/
def Ctx.ended (x : Ctx) (trapped : Bool) : Ctx :=
  { x with
    run := .ended, pend := [], bundle := none, frame := none, eframe := none, deferred := [], trapped := trapped, leg := {} }

/-- The slice controller hears from a core (R331). -/
def State.hearSlices (s : State) (n : Nat) : State := { s with slcT := max s.slcT (s.core n).t }

/-- A task holds a fine claim, or owns a chain. -/
def State.slicesOf (s : State) (uid : Nat) : Bool := (s.claimOf uid).isSome || s.chains.any fun e => e.2.owner = uid

/-- What an ended task of a core held of the package is given back (R230, R235, R259, R336). The slice controller hears the core
whose claim ends, or whose chains close (R245, R331). -/
def State.dropHeld (s : State) (n : Nat) (t : Task) : State :=
  let s := s.unmapAll n t.uid
  let s := if s.slicesOf t.uid then s.hearSlices n else s
  let s := s.closeOwned t.uid
  let s := (s.endClaim t.uid).serveSlices
  match t.gslot with
  | none => s
  | some g => s.modCore n fun k => k.settleEdges g (k.deadRoles t.mates)

/-- The end of a task (R80, R235, R230, R259, R336): its pending writes and landings are discarded, its windows unmapped,
its claim ended, its chains closed; its accesses and asynchronous operations go on, ordered by nothing (R358). A phase-protected one
commits its open phase, however it ends. -/
def State.endTask (s : State) (n c : Nat) (trapped : Bool) : State :=
  let x := s.ctx n c
  let s := if x.task.record.prot then s.commitPhase n c else s
  ((s.modCtx n c fun x => x.ended trapped).dropHeld n x.task).release n c

/-! ### Taking a trap and returning from one -/

/-- The part of the frame header that trap entry writes, from FSTATUS on (R264). -/
def frameBytes (status : DWord) (cause : BitVec 8) (taddr tbun : DWord) (resume live npend : Nat) : List Byte :=
  wordLe 8 status ++ wordLe 8 (cause.setWidth 64) ++ wordLe 8 taddr ++ wordLe 8 tbun
    ++ [BitVec.ofNat 8 resume, BitVec.ofNat 8 live, 0, 0] ++ natLe 4 npend

/-- STATUS with RSLOT and SPLIT (R265). -/
def trapStatus (st : BitVec 7) (k : Nat) (split : Bool) : BitVec 7 :=
  (st &&& 0x70) ||| (BitVec.ofNat 7 (k % 8)) ||| (if split then 8 else 0)

/-- What is known of a trap: slot, RESUME, whether the bundle had not issued, its address, CAUSE and TADDR, and the word's
index of a routine error. -/
structure TrapInfo where
  slot : Nat
  resume : Nat
  noissue : Bool
  tbun : DWord
  cause : BitVec 8
  taddr : DWord
  word : Option Nat := none
  deriving DecidableEq, Repr

/-- The regions that trap entry writes (R265, log 8); after the word of a routine error, the rest of the routine state (R221). -/
def trapRegions (word : Option Nat) : List Region :=
  (if word.isSome then [routineRest] else []) ++ [latchRegion, loopRegion] ++ vestibuleRegions ++ [pendRegion]

/-- A trap that no handler takes: a second one while a frame is live (R265), or a `trap` or `sys` with PRIV 1 (R269). -/
def Ctx.doubleTrap (x : Ctx) (cause : BitVec 8) : Bool :=
  x.frame.isSome || ((cause = causeTrap || cause = causeSys) && x.ctl.priv)

/-- TrapEntry (R265). The core keeps its own copy of what it freezes; with no handler, or at a double trap, the task ends. DEGRED of
the STATUS that is saved is that of the core as the trap is taken (DESIGN CHOICE, log 69). -/
def State.enterTrap (s : State) (n c : Nat) (t : TrapInfo) : State :=
  let x := s.ctx n c
  let split := match x.bundle with | some b => b.split && !t.noissue | none => false
  let st := trapStatus x.ctl.status t.slot split
  let live := (if x.frame.isSome then 1 else 0) + (if t.noissue then 4 else 0)
  let saved := BitVec.setWidth 64 st ||| (if (s.core n).degraded then 0x80 else 0)
  let frame := [(8, frameBytes saved t.cause t.taddr t.tbun t.resume live x.npend ++ natLe 8 x.buf.k)]
    ++ t.word.toList.map fun w => (0x580, natLe 8 w)
  let causes (x : Ctx) : Ctx := { x with ctl := { x.ctl with cause := t.cause, taddr := t.taddr, tbun := t.tbun } }
  let handler := (s.placeAll n).saveWord x 0
  if handler = 0 ∨ x.doubleTrap t.cause then
    ((s.modCtx n c causes).queueSave n x
      (frame ++ (trapRegions t.word).map fun r => (r.off, r.bytes s.clock))).endTask n c true
  else
    let s := ((s.placeAll n).saveStores n x frame).modCtx n c causes
    ((s.saveStore n x 41 [BitVec.ofNat 8 (1 + live)]).modCtx n c fun x => { x with
      ctl := { x.ctl with status := (st &&& 0x0F) ||| 0x10 }
      frame := some { bundle := if t.noissue then none else x.bundle, pend := x.pend, count := x.count, loops := x.loops,
                      noissue := t.noissue, next := .after t.tbun }
      loops := { x.loops with state := [] }
      bundle := none, pend := [], pc := .at handler }).saveRegions n x (trapRegions t.word)

/-- A trap of a context (R228, R265): one that holds a fine claim on a PROVISIONAL slice goes to the slice controller. -/
def State.trap (s : State) (n c : Nat) (t : TrapInfo) : State :=
  match s.claimOf (s.ctx n c).task.uid with
  | some (h, m, x) =>
    if x.state = .provisional then
      ((s.hearSlices n).faultSlice h m x t.cause t.taddr t.tbun (BitVec.ofNat 3 t.slot)).endTask n c true
    else s.enterTrap n c t
  | none => s.enterTrap n c t

/-- A handler's or event handler's own pending writes take their remaining distances from bundle `base` on. -/
def rebase (ws : List PWrite) (now base : Nat) : List PWrite :=
  ws.map fun w => { w with due := base + (w.due - now) }

/-- The power manager charges an operation to a context (R276). -/
def Ctx.charge (clock : Nat) (x : Ctx) : Ctx :=
  { x with ctl := { x.ctl with eused := x.ctl.eused + BitVec.ofNat 64 (Config.energyCharge clock) } }

/-- The state of a context after its bundle has committed, but for what follows a transfer or a loop: the bundle is
counted (R39) and charged (R276). -/
def Ctx.afterBundle (x : Ctx) (clock : Nat) (next : NextPc) : Ctx :=
  Ctx.charge clock { x with bundle := none, pc := next, count := x.count + 1, peerBuf := [], peerBad := none }

/-- The writes of the stage predicates, visible at the next bundle (R104). -/
def Ctx.putQs (x : Ctx) (qs : List (Nat × Bool)) : Ctx := qs.foldl (fun x w => x.push 1 (.q w.1 w.2)) x

/-- The snapshot of a buffer phase (R278). -/
def Ctx.snapshot (x : Ctx) : Snapshot :=
  { regs := x.regs, ctl := x.ctl, loops := x.loops, st := x.units.st, epi := x.units.epi, xa := x.units.xa, pend := x.pend,
    count := x.count, pc := x.pc, routine := x.parkedRoutine, parked := x.parked }

/-- The snapshot is taken. -/
def Ctx.takeSnapshot (x : Ctx) : Ctx := { x with buf := { x.buf with snap := some x.snapshot } }

/-- The firings of a bundle, one for each slot that fires, with the passes to be made on the member's behalf (R255, R256). -/
def Bundle.firings (b : Bundle) : List Nat :=
  b.acts.filterMap fun a => match a with | .yieldEr => some 0 | .erIdle k => some k | _ => none

/-- The end of a bundle that no `exit`, `rfe` or `rfu` ends: the next bundle (R102, R105), the loops' ends, and the action
or the yield that follows (R81, R94, R255, R256, R273). -/
def State.finishPlain (s : State) (n c : Nat) (b : Bundle) : State :=
  let x := s.ctx n c
  let due := x.actionDue
  let e : LoopEnd := match b.transfer with
    | some _ => ⟨x.loops, [], none, false, x.leg.draining⟩
    | none => x.loops.endOf b.addr due x.leg.draining
  let next := match b.transfer with
    | some t => t
    | none => .at (e.next.getD b.next)
  let x := ({ x with loops := e.loops, leg := { x.leg with draining := e.draining } }.putQs e.qs).afterBundle s.clock next
  let x := if b.acts.contains .snap then x.takeSnapshot else x
  let s := s.setCtx n c x
  let fires := b.firings
  let s := if fires ≠ [] ∧ x.task.gslot.isSome then
      (s.modCtx n c fun x => { x with fires := x.fires + BitVec.ofNat 32 fires.length, run := .edges (fires.foldl (· + ·) 0) }).modCore
        n fun q => fires.foldl (fun q _ => q.fire x) q
    else s
  if fires ≠ [] ∨ b.acts.contains .yield then
    if due then (s.takeAction n c).release n c else (s.modCtx n c fun x => { x with leg := {} }).release n c
  else if e.take then s.takeAction n c else s

/-- The position of the slot of a bundle that is an instruction whose action the bundle's end takes. -/
def Bundle.posOf (b : Bundle) (i : Instr) : Nat := ((b.slots.find? fun p => p.word.instr = i).map (·.pos)).getD 0

/-- A pending write put into an order of visibility: before those that become visible later or, at the same bundle, have issued after
it. -/
def insertDue (w : PWrite) : List PWrite → List PWrite
  | [] => [w]
  | v :: ws => if w.due ≤ v.due then w :: v :: ws else v :: insertDue w ws

/-- Pending writes in the order in which they become visible (R41). -/
def byDue (ws : List PWrite) : List PWrite := ws.foldr insertDue []

/-- The end of a bundle whose `rfu` acts (R272): the handler's writes become visible in their order (R41), the interrupted queue goes
on, and the context continues at es0. A landing of the handler that has failed is a deferred trap (R110). An es0 that is no multiple of 4
raises MISALIGN on the slot (R29), whose bundle has committed whole and keeps its end alone to be done again (R43). -/
def State.returnEvent (s : State) (n c : Nat) (b : Bundle) : State :=
  let x := s.ctx n c
  let failed := x.pend.filterMap PWrite.trapOf
  let x := (byDue x.pend).foldl (fun x w => if w.failed then x else x.apply w.dest) { x with pend := [] }
  let x := { x with deferred := x.deferred ++ failed }
  let a : DWord := mget 0 x.regs.es 0
  if a.toNat % 4 ≠ 0 then
    (s.setCtx n c x).trap n c
      { slot := b.posOf .rfu, resume := b.posOf .rfu, noissue := false, tbun := b.addr, cause := causeMisalign, taddr := a }
  else
    let f := x.eframe.getD {}
    s.setCtx n c (Ctx.charge s.clock { x with
      ctl := { x.ctl with status := x.ctl.status &&& 0x3F }, eframe := none, bundle := none
      pend := f.pend, count := f.count, pc := .at a })

/-- The end of a bundle that no `rfe` ends (R80, R268, R272). `rfu` waits for the handler's landings. -/
def State.finishRest (s : State) (n c : Nat) (b : Bundle) : State :=
  if b.acts.contains .exit then (s.modCtx n c (Ctx.charge s.clock)).endTask n c (s.ctx n c).frame.isSome
  else if b.acts.contains .rfu then
    if (s.ctx n c).pend.all PWrite.ready then s.returnEvent n c b
    else (s.modCtx n c fun x => { x with run := .blocked .landings }).release n c
  else s.finishPlain n c b

/-- A context that leaves a bundle without its end, for another address: the snapshot that the bundle's `bswap` takes goes on after the
bundle (R86, R279). -/
def Ctx.leaveBundle (x : Ctx) (b : Bundle) (a : DWord) : Ctx :=
  let x := { x with count := x.count + 1 }
  let x := if b.acts.contains .snap then Ctx.takeSnapshot { x with pc := .at b.next } else x
  { x with pc := .at a }

/-- The bundle that a trap froze goes on after `rfe` (R268): it is re-entered at slot RESUME with its latch, its end follows where
it has no such slot, where RESUME is 8, or where every slot of it has committed, which none does again (R43), or the context goes on at
FTBUN. -/
def State.reenterBundle (s : State) (n c : Nat) (b : Bundle) (ftbun : DWord) (resume : Nat) : State :=
  let rest := if b.slots.length ≤ b.cur then b.slots.length else (b.slots.findIdx? fun p => resume ≤ p.pos).getD b.slots.length
  if resume = 8 ∨ (ftbun = b.addr ∧ resume ≤ 7 ∧ b.slots.length ≤ rest) then
    (s.modCtx n c fun x => { x with bundle := some { b with cur := b.slots.length } }).finishRest n c b
  else if ftbun = b.addr ∧ resume ≤ 7 then
    s.modCtx n c fun x => { x with bundle := some { b with
      cur := rest, ask := rest, stage := .asking, pipeFail := none, reentry := true, popped := max b.popped rest
      answers := b.answers.filter fun a => match a.2 with | .value _ | .words _ | .copy _ _ _ _ => true | _ => false } }
  else s.modCtx n c fun x => Ctx.charge s.clock (x.leaveBundle b ftbun)

/-- The end of a bundle whose `rfe` acts (R268). A return to an FTBUN that is no multiple of 4 raises MISALIGN on the slot (R29),
and so is a double trap. -/
def State.returnTrap (s : State) (n c : Nat) (b : Bundle) : State :=
  match (s.ctx n c).frame with
  | none => s.endTask n c true
  | some f =>
    let s := s.placeAll n
    let x := s.ctx n c
    let fstatus := s.saveWord x 8
    let ftbun := s.saveWord x 32
    let resume := ((s.peek (x.saveAt 40) 1).getD 0 0).toNat
    let live := (s.peek (x.saveAt 41) 1).getD 0 0
    if resume ≠ 8 ∧ ftbun.toNat % 4 ≠ 0 then
      s.trap n c
        { slot := b.posOf .rfe, resume := b.posOf .rfe, noissue := false, tbun := b.addr, cause := causeMisalign, taddr := ftbun }
    else
      let s := s.saveStore n x 41 [live &&& 0xFE]
      let x := s.ctx n c
      let f := x.frame.getD f
      let own := x.pend
      let now := x.count + 1
      let x := Ctx.charge s.clock { x with
        ctl := { x.ctl with status := fstatus.setWidth 7 }, frame := none, bundle := none
        loops := { x.loops with state := f.loops.state }, count := f.count, peerBuf := [], peerBad := none }
      if f.noissue then
        s.setCtx n c { x with pc := if resume = 8 then f.next else .at ftbun, pend := f.pend ++ rebase own now f.count }
      else
        let s := s.setCtx n c { x with pend := f.pend ++ rebase own now (f.count + 1) }
        match f.bundle with
        | none => s.modCtx n c fun x => { x with pc := .at ftbun, count := x.count + 1 }
        | some b => s.reenterBundle n c b ftbun resume

/-- The end of a bundle (R80, R268, R272). A task that exits while a trap frame is live counts as ended by a trap
(R265). Where an `rfe` or `rfu` and a branch act in one bundle, R12 and R268 or R272 give two next bundles: the branch's target is dropped
(DESIGN CHOICE, log 68). -/
def State.finish (s : State) (n c : Nat) : State :=
  match (s.ctx n c).bundle with
  | none => s
  | some b => if b.acts.contains .rfe && !b.acts.contains .exit then s.returnTrap n c b else s.finishRest n c b

/-! ### Running a slot -/

/-- What the meaning of a slot comes to: it has committed; it raises a trap, with TADDR where the rule names one (R266); it
has committed and raises a trap (R269, R305); it raises a trap that changes the state (R118); its bundle blocks at it and the core is given up (R79); or it stalls, and
nothing changes (R191). -/
inductive SlotRes where
  | done (s : State)
  | trap (cause : BitVec 8) (taddr : Option DWord)
  | trapDone (s : State) (cause : BitVec 8) (taddr : DWord)
  | trapSet (s : State) (cause : BitVec 8) (taddr : DWord)
  | block (why : Wait) (s : State)
  | stall

/-- The bundle goes on to its next slot, or ends (R31, R82). -/
def State.advance (s : State) (e : Env) : State :=
  match e.b.stage with
  | .asking | .answered => s.modBundle e.n e.c fun b => { b with ask := e.b.ask + 1 }
  | .issued =>
    let s := s.modBundle e.n e.c fun b => { b with cur := e.b.cur + 1 }
    if e.b.cur + 1 < e.b.slots.length then s else s.finish e.n e.c

/-- The position at which a bundle resumes after a slot that has committed: k + 1, or 8 after the last (R269). -/
def Env.resumeAfter (e : Env) : Nat := if e.b.cur + 1 < e.b.slots.length then e.p.pos + 1 else 8

/-- A trap raised by the acting slot (R43). -/
def State.slotTrap (s : State) (e : Env) (resume : Nat) (cause : BitVec 8) (taddr : DWord) : State :=
  s.trap e.n e.c
    { slot := e.p.pos, resume := resume, noissue := false, tbun := e.b.addr, cause := cause, taddr := taddr }

/-- A request refused with a trap: the trap is raised when the slots before it have committed, and the requests after it
are not sent (R82). It is an irrevocable act but for `bswap` (R280). -/
def State.refuse (s : State) (e : Env) (cause : BitVec 8) (taddr : Option DWord) : State :=
  let s := match e.p.word.instr with
    | .bswap _ => s
    | _ => s.irrevocable e.n e.c
  s.modBundle e.n e.c fun b =>
    { b with answers := tset b.answers e.p.pos (.refused cause taddr), ask := e.b.slots.length }

/-- One slot of the bundle in progress (R20, R43); a slot whose pop or push can never be served raises PIPE (R198). -/
def runSlot (s : State) (body : Env → State → SlotRes) : Host.Outcome State Fault Refusal :=
  match s.env with
  | none => .fault .noBundle
  | some e =>
    if !e.b.latch.guard e.p.word then .next (s.advance e)
    else if !e.asking && e.b.pipeFail = some e.p.pos then .next (s.slotTrap e e.p.pos causePipe e.slotAddr)
    else
      match body e s with
      | .done t => .next (t.advance e)
      | .trap cause taddr =>
        .next (if e.asking then s.refuse e cause taddr else s.slotTrap e e.p.pos cause (taddr.getD e.slotAddr))
      | .trapDone t cause taddr => .next (t.slotTrap e e.resumeAfter cause taddr)
      | .trapSet t cause taddr =>
        .next (if e.asking then t.refuse e cause (some taddr) else t.slotTrap e e.p.pos cause taddr)
      | .block why t => .next ((t.modCtx e.n e.c fun x => { x with run := .blocked why }).release e.n e.c)
      | .stall => .next (s.modCtx e.n e.c fun x => { x with stalled := true })

/-- A slot that always commits, changing its own context alone. -/
def runLocal (s : State) (g : Env → Ctx) : Host.Outcome State Fault Refusal :=
  runSlot s fun e s => .done (s.setCtx e.n e.c (g e))

/-- The answer of a unit, as a request slot uses it when it commits: a refusal is the slot's trap. -/
def Env.answer (e : Env) : Answer := (tget e.b.answers e.p.pos).getD .waiting

/-- An answer that a context still waits for. -/
def Answer.open (a : Answer) : Bool := match a with | .waiting | .slice _ _ | .ckpt _ => true | _ => false

/-- Every request of a bundle is answered. -/
def Bundle.answered (b : Bundle) : Bool := !(b.answers.any fun a => a.2.open)

/-- A request is sent: its answer is kept with the bundle. -/
def State.reply (s : State) (e : Env) (a : Answer) : State :=
  s.modBundle e.n e.c fun b => { b with answers := tset b.answers e.p.pos a }

/-- A slot that makes a request of a unit (R82): while the bundle is asking, `ask` sends it; once the bundle has issued,
`commit` uses the answer. -/
def runAnswered (s : State) (ask : Env → State → SlotRes) (commit : Env → State → Answer → SlotRes) :
    Host.Outcome State Fault Refusal :=
  runSlot s fun e s =>
    if e.asking then ask e s
    else
      match e.answer with
      | .refused cause taddr => .trap cause taddr
      | .waiting | .slice _ _ | .ckpt _ => .block .answer s
      | a => commit e s a

/-- A request that is answered with a value. -/
def runRequest (s : State) (ask : Env → State → SlotRes) (commit : Env → State → DWord → State) :
    Host.Outcome State Fault Refusal :=
  runAnswered s ask fun e s a =>
    match a with
    | .value v => .done (commit e s v)
    | _ => .block .answer s

/-- A user event is delivered (R270). -/
def State.deliver (s : State) (n c source : Nat) (at_ : DWord) : State :=
  s.modCtx n c fun x => { x with
    ctl := { x.ctl with evtsrc := BitVec.ofNat 8 source, status := x.ctl.status ||| 0x40 }
    regs := { x.regs with es := mset 0 x.regs.es 0 at_ }
    cnt := { x.cnt with fired := setBit x.cnt.fired (source - 1) false }
    eframe := some { pend := x.pend, count := x.count }
    pend := [], pc := .at x.ctl.evtvec }

end Sys2Proof.Machine
end

