-- ==== Sys2Proof/Machine/Access.lean ====
section
/-! DEFINITION. Loads, stores and atomics as a context makes them (R107 to R121, R318, R335, R360): peer operations, stash
windows, and reads that block their bundle. -/

namespace Sys2Proof.Machine

/-! ### The scoreboard (R191) -/

/-- Two ranges of the scratchpad share a granule of 256 bytes (R191). -/
def shareGranule (a n b m : Nat) : Bool := n ≠ 0 && m ≠ 0 && a / 256 ≤ (b + m - 1) / 256 && b / 256 ≤ (a + n - 1) / 256

/-- The matrix entries of a task that have not retired, those parked with a pre-empted routine included (R220). -/
def Core.entriesOf (k : Core) (x : Ctx) : List MatEntry := (k.queue.filter fun m => m.uid = x.task.uid) ++ x.parked

/-- Every matrix entry of a core that has not retired. -/
def Core.allEntries (k : Core) : List MatEntry := k.queue ++ k.tasks.flatMap (·.parked)

/-- An outstanding asynchronous operation of a core writes a granule of a range, or reads one (R191). -/
def Core.asyncWritesAt (k : Core) (a n : Nat) : Bool :=
  k.async.any (fun o => o.writes.any fun w => shareGranule a n w.1 w.2)
    || k.allEntries.any fun o => o.writes.any fun w => shareGranule a n w.1 w.2
def Core.asyncReadsAt (k : Core) (a n : Nat) : Bool :=
  k.async.any (fun o => o.reads.any fun w => shareGranule a n w.1 w.2)
    || k.allEntries.any fun o => o.reads.any fun w => shareGranule a n w.1 w.2

/-- An access to a range of the scratchpad must wait (R191). -/
def Core.spadBusy (k : Core) (a n : Nat) (write : Bool) : Bool :=
  k.asyncWritesAt a n || (write && k.asyncReadsAt a n)

/-! ### Stash windows (R335) -/

/-- The line of a window becomes FILLED and OWNED. Its recall from another page of the same window comes first. -/
def State.stashFillLine (s : State) (n uid j i : Nat) : State :=
  match (s.core n).findTask uid with
  | none => s
  | some x =>
    match tget x.windows j with
    | none => s
    | some w =>
      if (tget w.lines i).isSome then s
      else
        let l := ((w.pages.getD (i / 1024) (0, false)).1 + 64 * (i % 1024)) / 64
        let s := s.reach l
        let h := s.mem.line l
        let d := readBytes s.mem.bytes (64 * l) 64
        let s := { s with mem := s.mem.setLine l { h with own := some n } }
        s.modCore n fun k =>
          { k.modTask uid fun y => { y with windows := tmod y.windows j fun w => { w with lines := tset w.lines i (h.w, h.r) } } with
            spad := writeBytes k.spad (w.spad x i) d }

/-- The times of a line of a window changed, and T raised. -/
def State.stashTime (s : State) (n uid j i : Nat) (write : Bool) : State :=
  match (s.core n).findTask uid with
  | none => s
  | some x =>
    match tget x.windows j with
    | none => s
    | some w =>
      let (lw, lr) := (tget w.lines i).getD (0, 0)
      let t := if write then max (s.core n).t (lr + 1) else max (s.core n).t (lw + 1)
      let v := if write then (t, t) else (lw, max lr t)
      (s.modCore n fun k => k.modTask uid fun y =>
        { y with windows := tset y.windows j { w with lines := tset w.lines i v } }).raiseT n t

/-- The scratchpad address of a byte of a window. -/
def State.stashSpad (s : State) (n uid j off : Nat) : Nat :=
  match (s.core n).findTask uid with
  | some x => match tget x.windows j with
    | some w => x.task.spBase + 65536 * w.spg + off
    | none => 0
  | none => 0

/-- A read of bytes of a window. -/
def State.stashRead (s : State) (n uid j off len : Nat) : State × List Byte :=
  let s := (lineParts off len).foldl (fun s p => (s.stashFillLine n uid j (p.1 / 64)).stashTime n uid j (p.1 / 64) false) s
  (s, readBytes (s.core n).spad (s.stashSpad n uid j off) len)

/-- A write of bytes of a window. -/
def State.stashWrite (s : State) (n uid j off : Nat) (bs : List Byte) : State :=
  let s := (lineParts off bs.length).foldl
    (fun s p => (s.stashFillLine n uid j (p.1 / 64)).stashTime n uid j (p.1 / 64) true) s
  s.modCore n fun k => { k with spad := writeBytes k.spad (s.stashSpad n uid j off) bs }

/-! ### Peers -/

/-- A node answers accesses (R340): it is UP and a port of its mask is. -/
def State.nodeUp (s : State) (node : Nat) : Bool :=
  let x := mget {} s.fabric.nodes node
  !x.failed && (x.ports &&& ~~~s.fabric.portsDown) != 0

/-- A peer operation is sent and kept until it is answered. -/
def State.sendRemote (s : State) (r : Remote) (m : Nat → Message) : State :=
  let (id, s) := s.takeId
  { s with fabric := { s.fabric with remotes := tset s.fabric.remotes id r } }.send (m id)

/-- An operation touches one of some bytes of a node for a task. -/
def Remote.touches (r : Remote) (uid node a len : Nat) : Bool :=
  r.uid = uid && r.node = node && r.spans.any fun p => p.1 < a + len && a < p.1 + p.2

/-- An operation of a task on some bytes of a node is outstanding (R121): a later one on any of them is sent when it has been answered,
so that both perform in program order. -/
def State.peerBusy (s : State) (uid node a len : Nat) : Bool := s.fabric.remotes.any fun r => r.2.touches uid node a len

/-- An access of a task to some places waits for an earlier one to the same bytes of a peer (R121). -/
def State.peersBusy (s : State) (uid : Nat) (ps : List (Place × Nat)) : Bool :=
  ps.any fun p => match p.1 with | .peer node off => s.peerBusy uid node off p.2 | _ => false

/-! ### Loads -/

/-- A part of a load: bytes that have been read, or a run of a peer's memory, with the place in the access. -/
inductive Part where
  | bytes (bs : List Byte)
  | peer (pos node off len : Nat)
  deriving DecidableEq, Repr

/-- The parts of a load, lowest first; local ones are read (R120, R328). -/
def State.readParts (n : Nat) (allocate : Bool) : State → Nat → List (Place × Nat) → State × List Part
  | s, _, [] => (s, [])
  | s, pos, (p, len) :: ps =>
    let (s, x) := match p with
      | .spad a => (s, Part.bytes (readBytes (s.core n).spad a len))
      | .stash uid j off => let (s, d) := (s.placeAll n).stashRead n uid j off len; (s, .bytes d)
      | .mem pa => let (s, d) := (s.placeAll n).loadMem n allocate pa len; (s, .bytes d)
      | .peer node off => (s, .peer pos node off len)
    let (s, xs) := State.readParts n allocate s (pos + len) ps
    (s, x :: xs)

/-- The bytes of the parts, those of peers 0. -/
def partBytes (ps : List Part) : List Byte :=
  ps.flatMap fun p => match p with | .bytes bs => bs | .peer _ _ _ len => List.replicate len 0

/-- The physical address of a byte of a window (R335). -/
def State.windowPa (s : State) (n uid j off : Nat) : Option Nat :=
  ((s.core n).findTask uid).bind fun x => (tget x.windows j).bind fun w =>
    (w.pages[off / 65536]?).map fun p => p.1 + off % 65536

/-- A byte of a place lies in a block marked uncorrectable (R353): in the scratchpad, in local memory, or in a window, whose lines
carry the marks of their blocks and of the scratchpad. -/
def State.byteBad (s : State) (n i : Nat) : Place → Bool
  | .spad a => (tget (s.core n).spadBad ((a + i) / 256)).isSome
  | .stash uid j off => (s.windowPa n uid j (off + i)).any (fun pa => (tget s.mem.bad (pa / 256)).isSome)
      || (tget (s.core n).spadBad ((s.stashSpad n uid j off + i) / 256)).isSome
  | .mem pa => (tget s.mem.bad ((pa + i) / 256)).isSome
  | .peer _ _ => false

/-- The marks of the blocks that a write of a window covers whole are dropped (R353). -/
def State.unmarkWindow (s : State) (n uid j off : Nat) (bs : List Byte) : State :=
  match s.windowPa n uid j off with
  | some pa => { s with mem := s.mem.unmark [(pa, bs.length)] }
  | none => s

/-- Some bytes of the scratchpad of a core lie in a marked block (R353). -/
def Core.marked (k : Core) (a len : Nat) : Bool := k.spadBad.any fun e => 256 * e.1 < a + len && a < 256 * (e.1 + 1)

/-- The lower of two addresses. -/
def lowerAddr (a : Option DWord) (b : DWord) : DWord :=
  match a with
  | some c => if c.toNat < b.toNat then c else b
  | none => b

/-- An asynchronous operation of a task has read uncorrectable data: its next bundle raises DATA_UNCORR with that address, or its phase
is cancelled (R197, R279, R353). -/
def State.uncorrAt (s : State) (n uid id : Nat) (a : Option DWord) : State :=
  match a with
  | none => s
  | some a => s.modCore n fun k => k.modTask uid fun x =>
      { x with deferred := x.deferred ++ [{ id := id, cause := causeDataUncorr, taddr := a }] }

/-- No block is marked. -/
def State.noMarks (s : State) (n : Nat) : Bool := s.mem.bad = [] && (s.core n).spadBad = []

/-- The first byte of an access of core `n` that lies in a bad block. -/
def State.firstBad (s : State) (n : Nat) (ps : List (Place × Nat)) : Option Nat :=
  if s.noMarks n then none
  else
    (ps.foldl (fun (r : Nat × Option Nat) p =>
      (r.1 + p.2, match r.2 with
        | some i => some i
        | none => ((List.range p.2).find? fun i => s.byteBad n i p.1).map (r.1 + ·))) (0, none)).2

/-- A load reads a block marked uncorrectable. -/
def State.placesBad (s : State) (n : Nat) (ps : List (Place × Nat)) : Bool := (s.firstBad n ps).isSome

/-- The bytes of a window lie at granules with an outstanding operation (R191), issued before the window was mapped: the line that comes
there is a write of them. -/
def Core.windowBusy (k : Core) (uid j off len : Nat) : Bool :=
  match (k.findTask uid).bind fun x => (tget x.windows j).map fun w => x.task.spBase + 65536 * w.spg + off with
  | some a => k.spadBusy a len true
  | none => false

/-- Some bytes of the scratchpad that an access touches wait for the scoreboard (R191). -/
def Core.placesBusy (k : Core) (write : Bool) (ps : List (Place × Nat)) : Bool :=
  ps.any fun p => match p.1 with
    | .spad a => k.spadBusy a p.2 write
    | .stash uid j off => k.windowBusy uid j off p.2
    | _ => false

/-- The peer parts of a load are requested. `landing` is the number of the landing that waits for them. -/
def State.requestParts (s : State) (e : Env) (a : DWord) (landing : Option Nat) (ps : List Part) : State :=
  ps.foldl (fun s p =>
    match p with
    | .bytes _ => s
    | .peer pos node off len =>
      match landing with
      | none => if s.nodeUp node then s.send (.load 0 node off len) else s
      | some id =>
        if s.nodeUp node then
          s.sendRemote
            { core := e.n, ctx := e.c, uid := e.x.task.uid, node := node, addr := a + BitVec.ofNat 64 pos, len := len,
              landing := some id, counts := false, spans := [(off, len)], issued := s.gtime.toNat }
            fun i => .load i node off len
        else s.modCtx e.n e.c fun x => x.modLanding id fun l d => ({ l with status := .failed }, d)) s

/-- A load slot (R107 to R111). `dest` holds the destination, with any value, and is absent where the value is discarded. -/
def State.load (s : State) (e : Env) (allocate : Bool) (a : DWord) (size align : Nat) (kind : LandKind)
    (dest : Option RegWrite) (dist : Nat) : SlotRes :=
  if a.toNat % align ≠ 0 then .trap causeMisalign (some a)
  else
    match s.places e.n e.px .load a size with
    | .error f => .trapSet f.s f.cause f.taddr
    | .ok (s, ps) =>
      if (s.core e.n).placesBusy false ps ∨ s.peersBusy e.x.task.uid ps then .stall
      else match dest with
      | none =>
        let (s, parts) := State.readParts e.n allocate s 0 ps
        .done (s.requestParts e a none parts)
      | some d =>
        if 32 ≤ e.x.landings then .trap causeResource none
        else
          let (id, s) := s.takeId
          let (s, parts) := State.readParts e.n allocate s 0 ps
          let status : Arrival :=
            if s.placesBad e.n ps then .uncorrectable
            else if ps.all (fun p => match p.1 with | .spad _ | .stash _ _ _ => true | _ => false) then .arrived
            else .waiting
          let l : Landing := { id := id, addr := a, slot := e.slotAddr, kind := kind, size := size, status := status }
          let s := s.modCtx e.n e.c fun x => { x with pend := x.pend ++
            [{ due := x.count + dist, dest := d.patch l 0 (partBytes parts), landing := some l }] }
          .done (s.requestParts e a (some id) parts)

/-! ### Stores -/

/-- Neighbouring pieces joined. -/
def mergePieces : List (Nat × List Byte) → List (Nat × List Byte)
  | [] => []
  | (a, bs) :: ps =>
    match mergePieces ps with
    | (b, cs) :: qs => if a + bs.length = b then (a, bs ++ cs) :: qs else (a, bs) :: (b, cs) :: qs
    | [] => [(a, bs)]

/-- The pieces that lie in a run of an access, from its start on. -/
def piecesIn (pos len : Nat) (ps : List (Nat × List Byte)) : List (Nat × List Byte) :=
  ps.filterMap fun (a, bs) => if pos ≤ a ∧ a < pos + len then some (a - pos, bs) else none

/-- A place is in the memory of a peer. -/
def Place.remote : Place → Bool
  | .peer _ _ => true
  | _ => false

/-- The marks of the scratchpad blocks that some pieces cover whole are dropped (R353). -/
def Core.unmark (k : Core) (ps : List (Nat × List Byte)) : Core :=
  { k with spadBad := k.spadBad.filter fun e => !coversBlock (spansOf ps) e.1 }

/-- What the parts of a store leave to be sent: the pieces of local memory, and those for each node with their bytes at the home. -/
structure StoreOut where
  here : List (Nat × List Byte) := []
  peers : SMap (List (Nat × List Byte) × List (Nat × Nat)) := []
  deriving DecidableEq, Repr

/-- A part for a node more. -/
def StoreOut.add (o : StoreOut) (node off len : Nat) (ps : List (Nat × List Byte)) : StoreOut :=
  let (qs, rs) := mget ([], []) o.peers node
  { o with peers := tset o.peers node (qs ++ ps.map (fun q => (off + q.1, q.2)), rs ++ [(off, len)]) }

/-- A store to runs of places: bytes of the scratchpad and of windows are written, those of local memory and of peers gathered. -/
def State.storeParts (e : Env) (pieces : List (Nat × List Byte)) :
    State → Nat → StoreOut → List (Place × Nat) → State × StoreOut
  | s, _, o, [] => (s, o)
  | s, pos, o, (p, len) :: ps =>
    let here := piecesIn pos len pieces
    let (s, o) := match p with
      | .spad b => (s.modCore e.n fun k =>
          Core.unmark { k with spad := here.foldl (fun m q => writeBytes m (b + q.1) q.2) k.spad } (here.map fun (q : Nat × List Byte) => (b + q.1, q.2)), o)
      | .stash uid j off =>
        ((mergePieces here).foldl (fun s q =>
          (s.stashWrite e.n uid j (off + q.1) q.2).unmarkWindow e.n uid j (off + q.1) q.2) (s.placeAll e.n), o)
      | .mem pa => (s, { o with here := o.here ++ (mergePieces here).flatMap fun q => cutLines (pa + q.1) q.2 })
      | .peer node off => (s, o.add node off len here)
    State.storeParts e pieces s (pos + len) o ps

/-- The parts of a store for peers are sent, those for one home as one operation, which performs wholly or is lost (R118). `group` is
the number that they share. A lost part records the store's address. -/
def State.sendStore (s : State) (e : Env) (a : DWord) (group : Nat) (o : StoreOut) : State :=
  o.peers.foldl (fun s q =>
    if s.nodeUp q.1 then
      s.sendRemote
        { core := e.n, ctx := e.c, uid := e.x.task.uid, node := q.1, addr := a, len := total (q.2.2.map (·.2))
          landing := none, counts := true, group := group, spans := q.2.2, issued := s.gtime.toNat }
        fun i => .store i q.1 q.2.1
    else s.modCtx e.n e.c fun x => { x with cnt := x.cnt.lose a }) s

/-- A store to peer memory waits for an answer of some peer: it adds 1 to CNTRM (R112). -/
def State.sendsStore (s : State) (ps : List (Place × Nat)) : Bool :=
  ps.any fun p => match p.1 with | .peer node _ => s.nodeUp node | _ => false

/-- A store of pieces to the places of an access: one store, counted in CNTST where it writes local memory, a window or the
scratchpad, and in CNTRM where it writes peer memory, until it performs (R112, R116, R118). Bytes of the scratchpad and of a window
are written now; those of local memory when the core's queue places them. -/
def State.storeAt (s : State) (e : Env) (a : DWord) (pieces : List (Nat × List Byte)) (ps : List (Place × Nat)) : State :=
  let sends := s.sendsStore ps
  let (id, s) := s.takeId
  let (s, o) := State.storeParts e pieces s 0 {} ps
  let s := s.sendStore e a id o
  let s := if ps.any (fun p => match p.1 with | .spad _ => false | _ => true) then s.irrevocable e.n e.c else s
  let s := if sends then s.modCtx e.n e.c fun x => { x with cnt := { x.cnt with rm := x.cnt.rm + 1 } } else s
  if ps.any fun p => !p.1.remote then
    let s := s.modCtx e.n e.c fun x => { x with cnt := { x.cnt with st := x.cnt.st + 1 } }
    s.modCore e.n fun k =>
      { k with outq := k.outq ++ [{ id := id, uid := e.x.task.uid, ctx := e.c, pieces := o.here, placed := o.here = [] }] }
  else s

/-- A store slot of `size` bytes, of which the pieces are written (R107, R111, R112). -/
def State.store (s : State) (e : Env) (a : DWord) (size align : Nat) (pieces : List (Nat × List Byte)) : SlotRes :=
  if a.toNat % align ≠ 0 then .trap causeMisalign (some a)
  else
    match s.places e.n e.px .store a size with
    | .error f => .trapSet f.s f.cause f.taddr
    | .ok (s, ps) =>
      if (s.core e.n).placesBusy true ps ∨ s.peersBusy e.x.task.uid ps then .stall else .done (s.storeAt e a pieces ps)

/-- An atomic slot (R114, R115); `dest` is absent where the old value is discarded. -/
def State.atomic (s : State) (e : Env) (a : DWord) (m : Amo) (dest : Option RegWrite) (dist : Nat) : SlotRes :=
  if a.toNat % m.bytes ≠ 0 then .trap causeMisalign (some a)
  else
    match s.places e.n e.px .atomic a m.bytes with
    | .error f => .trapSet f.s f.cause f.taddr
    | .ok (s, ps) =>
      if s.peersBusy e.x.task.uid ps then .stall
      else if dest.isSome ∧ 32 ≤ e.x.landings then .trap causeResource none
      else
        let (id, s) := s.takeId
        let s := s.irrevocable e.n e.c
        let s := match dest with
          | none => s
          | some d =>
            let l : Landing :=
              { id := id, addr := a, slot := e.slotAddr, kind := .unsigned, size := 8, status := .waiting, atomic := true }
            s.modCtx e.n e.c fun x =>
              { x with pend := x.pend ++ [{ due := x.count + dist, dest := d, landing := some l }] }
        match ps with
        | (.mem pa, _) :: _ =>
          let s := s.modCtx e.n e.c fun x => { x with cnt := { x.cnt with st := x.cnt.st + 1 } }
          .done (s.modCore e.n fun k =>
            { k with outq := k.outq ++
              [{ id := id, uid := e.x.task.uid, ctx := e.c, pieces := [(pa, [])], amo := some m }] })
        | (.peer node off, _) :: _ =>
          if s.nodeUp node then
            .done ((s.modCtx e.n e.c fun x => { x with cnt := { x.cnt with rm := x.cnt.rm + 1 } }).sendRemote
              { core := e.n, ctx := e.c, uid := e.x.task.uid, node := node, addr := a, len := m.bytes,
                landing := dest.map fun _ => id, counts := true, spans := [(off, m.bytes)], issued := s.gtime.toNat }
              fun i => .atomic i node off m)
          else
            let s := s.modCtx e.n e.c fun x => x.modLanding id fun l d => ({ l with status := .failed }, d)
            .done (s.modCtx e.n e.c fun x => { x with cnt := x.cnt.lose a })
        | _ => .done s

/-! ### Reads that block their bundle (R360) -/

/-- What such a read comes to: its bytes, a trap, or a wait, for peers or for the scoreboard (R191). -/
inductive ReadRes where
  | data (s : State) (bs : List Byte)
  | trap (s : State) (cause : BitVec 8) (taddr : DWord)
  | wait (s : State)

/-- An uncorrectable error cancels the phase of a context (R279, R280). -/
def Ctx.cancels (x : Ctx) : Bool := x.task.record.prot && !x.buf.irrevocable && !x.buf.cancelled

/-- An uncorrectable byte of a blocking read. -/
def State.readUncorr (s : State) (e : Env) (a : DWord) : ReadRes :=
  if e.x.cancels then .wait (s.modCtx e.n e.c fun x => { x with buf := { x.buf with cancel := true } })
  else .trap s causeDataUncorr a

/-- The peer runs of a read, from its first byte on: position, node, offset and length. -/
def peerRuns : Nat → List (Place × Nat) → List (Nat × Nat × Nat × Nat)
  | _, [] => []
  | pos, (.peer node off, len) :: ps => (pos, node, off, len) :: peerRuns (pos + len) ps
  | pos, (_, len) :: ps => peerRuns (pos + len) ps

/-- The position of the byte of a read that a peer has sent marked uncorrectable, where it is one of `len` bytes at `a`. -/
def Ctx.peerBadAt (x : Ctx) (a : DWord) (len : Nat) : Option Nat :=
  (x.peerBad.map fun b => (b - a).toNat).filter fun i => i < len

/-- The lower of two positions. -/
def lowerOf (a b : Option Nat) : Option Nat :=
  match a, b with
  | some i, some j => some (min i j)
  | some i, none => some i
  | none, b => b

/-- A read of `len` bytes at `a` as a load that blocks the bundle of a slot (R360). It leaves no copy in L1 (log 28). -/
def State.readBlocking (s : State) (e : Env) (a : DWord) (len : Nat) : ReadRes :=
  match s.places e.n e.px .load a len with
  | .error f => .trap f.s f.cause f.taddr
  | .ok (s, ps) =>
    if (s.core e.n).placesBusy false ps then .wait s
    else
    let runs := peerRuns 0 ps
    let key (i : Nat) : Nat := (a + BitVec.ofNat 64 i).toNat
    match e.x.peerBadAt a len with
    | some j => s.readUncorr e (a + BitVec.ofNat 64 ((lowerOf (s.firstBad e.n ps) (some j)).getD j))
    | none =>
    let missing := runs.filter fun r => !(List.range r.2.2.2).all fun i => (tget e.x.peerBuf (key (r.1 + i))).isSome
    match missing.find? fun r => !s.nodeUp r.2.1 with
    | some r => .trap s causeRemoteFail (a + BitVec.ofNat 64 r.1)
    | none =>
      if missing ≠ [] then
        .wait (missing.foldl (fun s r =>
          let va := a + BitVec.ofNat 64 r.1
          if (s.fabric.remotes.any fun q => q.2.awaited e.x.task.uid va) ∨ s.peerBusy e.x.task.uid r.2.1 r.2.2.1 r.2.2.2
          then s
          else s.sendRemote
            { core := e.n, ctx := e.c, uid := e.x.task.uid, node := r.2.1, addr := va, len := r.2.2.2, landing := none,
              counts := false, spans := [(r.2.2.1, r.2.2.2)], issued := s.gtime.toNat }
            fun i => .load i r.2.1 r.2.2.1 r.2.2.2) s)
      else
        match s.firstBad e.n ps with
        | some i => s.readUncorr e (a + BitVec.ofNat 64 i)
        | none =>
          let (s, parts) := State.readParts e.n false s 0 ps
          let bs := partBytes parts
          .data s (bs.zipIdx.map fun (b, i) =>
            if runs.any fun r => r.1 ≤ i && i < r.1 + r.2.2.2 then mget 0 e.x.peerBuf (key i) else b)

end Sys2Proof.Machine
end

