-- ==== Sys2Proof/Machine/Special.lean ====
section
/-! DEFINITION. The special functions, correctly rounded to nearest with ties to even (R131, R179, R180, R211, R288). A
value that is no fraction is enclosed between two fractions, more closely until both round to one result. The special
operands are those of R180. -/

namespace Sys2Proof.Machine

/-! ### Enclosures: an integer `v` stands for v / 2^P, with an error that is stated in units of 2^−P -/

/-- An enclosure: two bounds in units of 2^−P. -/
structure Enc where
  lo : Int
  hi : Int
  deriving DecidableEq, Repr

/-- Σ z^(2k+1) / (2k+1) for z at most 1/3, `fuel` terms from the power `pow` on. -/
def atanhTerms (P : Nat) (z2 : Nat) : Nat → Nat → Nat → Nat → Nat
  | 0, _, _, acc => acc
  | fuel + 1, k, pow, acc => atanhTerms P z2 fuel (k + 2) (pow * z2 / 2 ^ P) (acc + pow / k)

/-- artanh of a fraction z = v / 2^P of at most 1/3. -/
def atanhEnc (P : Nat) (v : Nat) : Enc :=
  let n := P / 3 + 2
  let a := atanhTerms P (v * v / 2 ^ P) n 1 v 0
  ⟨(a : Int) - 4 * n, a + 4 * n⟩

/-- ln 2 = 2 artanh(1/3). -/
def ln2Enc (P : Nat) : Enc :=
  let e := atanhEnc P (2 ^ P / 3)
  ⟨2 * e.lo, 2 * e.hi⟩

/-- Σ r^k / k!, `fuel` terms from the term `t` on, with k counted up from `k`. -/
def expTerms (P : Nat) (r : Int) : Nat → Nat → Int → Int → Int
  | 0, _, _, acc => acc
  | fuel + 1, k, t, acc => expTerms P r fuel (k + 1) (t * r / ((2 ^ P * k : Nat) : Int)) (acc + t)

/-- e^r for r = v / 2^P of magnitude at most 1, v known to within `err`. -/
def expEnc (P : Nat) (v : Int) (err : Nat) : Enc :=
  let n := P / 3 + 12
  let a := expTerms P v n 1 (2 ^ P : Nat) 0
  ⟨a - (4 * n + 3 * err : Nat), a + (4 * n + 3 * err : Nat)⟩

/-- A magnitude n / d × 2^e as v / 2^P, rounded down. -/
def fixed (P : Nat) (n d : Nat) (e : Int) : Nat :=
  let (a, b) := scaled n d (e + P)
  a / b

/-- e^(−y) for y = v / 2^P ≥ 0, v known to within `err`. -/
def expNegEnc (P : Nat) (v : Nat) (err : Nat) : Enc :=
  let l := ln2Enc P
  let i := v / l.hi.toNat
  let r : Int := (v : Int) - i * l.lo
  let e := expEnc P (-r) (err + i * (l.hi - l.lo).toNat)
  ⟨e.lo / (2 ^ i : Nat) - 1, e.hi / (2 ^ i : Nat) + 1⟩

/-- The quotient of two positive enclosures. -/
def divEnc (P : Nat) (a b : Enc) : Enc := ⟨a.lo * (2 ^ P : Nat) / b.hi - 1, a.hi * (2 ^ P : Nat) / b.lo + 1⟩

/-- ln m for m = n / d × 2^e from 1 up to 2. -/
def lnEnc (P : Nat) (n d : Nat) (e : Int) : Enc :=
  let (a, b) := scaled n d e
  let x := atanhEnc P ((a - b) * 2 ^ P / (a + b))
  ⟨2 * x.lo - 2, 2 * x.hi + 4⟩

/-- artan(1 / k), `fuel` terms. -/
def atanTerms (P : Nat) (k2 : Nat) : Nat → Nat → Nat → Int → Int
  | 0, _, _, acc => acc
  | fuel + 1, j, pow, acc =>
    atanTerms P k2 fuel (j + 2) (pow / k2) (if j % 4 = 1 then acc + (pow / j : Nat) else acc - (pow / j : Nat))

/-- π = 16 artan(1/5) − 4 artan(1/239). -/
def piEnc (P : Nat) : Enc :=
  let n := P / 4 + 2
  let a := 16 * atanTerms P 25 n 1 (2 ^ P / 5) 0 - 4 * atanTerms P 57121 n 1 (2 ^ P / 239) 0
  ⟨a - 60 * n, a + 60 * n⟩

/-- The sum of t, − t·x² / (k (k+1)), …: the series of sine and cosine. -/
def trigTerms (P : Nat) (x2 : Int) : Nat → Nat → Int → Int → Int
  | 0, _, _, acc => acc
  | fuel + 1, k, t, acc => trigTerms P x2 fuel (k + 2) (-(t * x2) / ((2 ^ P * (k * (k + 1)) : Nat) : Int)) (acc + t)

/-- cos and sin of 2π r for r = n / d × 2^e below 1/4. -/
def trigEnc (P : Nat) (n d : Nat) (e : Int) : Enc × Enc :=
  let p := piEnc P
  let x : Int := 2 * p.lo * fixed P n d e / (2 ^ P : Nat)
  let err : Int := 2 * (p.hi - p.lo) + 20
  let x2 := x * x / (2 ^ P : Nat)
  let m := P / 3 + 12
  let s := trigTerms P x2 m 2 x 0
  let c := trigTerms P x2 m 1 (2 ^ P : Nat) 0
  let w : Int := 4 * err + 8 * m
  (⟨c - w, c + w⟩, ⟨s - w, s + w⟩)

/-! ### Rounding an enclosed value -/

/-- The ends of an enclosure, moved outwards to fractions that no format holds. -/
def Enc.low (x : Enc) (neg : Bool) (P : Nat) (shift : Int) : Num :=
  .fin neg (2 * x.lo - 1).toNat 1 (shift - P - 1)
def Enc.high (x : Enc) (neg : Bool) (P : Nat) (shift : Int) : Num := .fin neg (2 * x.hi + 1).toNat 1 (shift - P - 1)

/-- The precisions tried. -/
def precisions : List Nat := [96, 192, 384, 768, 1536]

/-- A positive value, known more closely at each precision, times 2^shift and with a sign, rounded to nearest. -/
def roundEnc (f : Fmt) (neg : Bool) (shift : Int) (enc : Nat → Enc) : List Nat → Nat × BitVec 5
  | [] => (f.signCode neg 0, flagUf ||| flagNx)
  | P :: ps =>
    let x := enc P
    let a := if x.lo < 1 then (f.signCode neg 0, flagUf ||| flagNx) else f.round rne (x.low neg P shift)
    let b := f.round rne (x.high neg P shift)
    if a = b then a else roundEnc f neg shift enc ps

/-- A value strictly between 0 and the smallest fraction that any format tells from 0, rounded to nearest. -/
def roundTiny (f : Fmt) (neg : Bool) : Nat × BitVec 5 := f.round rne (.fin neg 1 1 (-1000))

/-- A value that misses ± 1 by less than any format tells. -/
def roundNearOne (f : Fmt) (neg : Bool) : Nat × BitVec 5 := f.round rne (.fin neg (2 ^ 200 - 1) 1 (-200))

/-! ### The functions -/

/-- The canonical NaN of a format. -/
def Fmt.nanCode (f : Fmt) : Nat := f.nan.getD 0

/-- The invalid result. -/
def invalid (f : Fmt) : Nat × BitVec 5 := (f.nanCode, flagNv)

/-- 2^x (R179). -/
def exp2Of (f : Fmt) : Num → Nat × BitVec 5
  | .nan => (f.nanCode, 0)
  | .inf s => if s then (0, 0) else (f.maxCode + 1, 0)
  | .fin s n d e =>
    if n = 0 then f.round rne (.ofInt 1)
    else if !magLt n d e 1024 1 0 then if s then roundTiny f false else f.round rne (.fin false 1 1 1024)
    else
      let (a, b) := scaled n d e
      let i : Int := if s then -((a + b - 1) / b : Nat) else (a / b : Nat)
      if a % b = 0 then f.round rne (.fin false 1 1 i)
      else
        let rest := if s then b - a % b else a % b
        roundEnc f false i (fun P =>
          let l := ln2Enc P
          expEnc P (l.lo * (rest * 2 ^ P / b : Nat) / (2 ^ P : Nat)) ((l.hi - l.lo).toNat + 4)) precisions

/-- log2 x (R179). -/
def log2Of (f : Fmt) : Num → Nat × BitVec 5
  | .nan => (f.nanCode, 0)
  | .inf s => if s then invalid f else (f.maxCode + 1, 0)
  | .fin s n d e =>
    if n = 0 then (f.signCode true (f.maxCode + 1), flagDz)
    else if s then invalid f
    else
      let k := floorLog2 n d e
      let (a, b) := scaled n d (e - k)
      if a = b then f.round rne (.ofInt k)
      else
        let neg := decide (k < 0)
        roundEnc f neg 0 (fun P =>
          let q := divEnc P (lnEnc P n d (e - k)) (ln2Enc P)
          let w : Int := k * (2 ^ P : Nat)
          if neg then ⟨-(w + q.hi), -(w + q.lo)⟩ else ⟨w + q.lo, w + q.hi⟩) precisions

/-- 1 / x (R179). -/
def rcpOf (f : Fmt) : Num → Nat × BitVec 5
  | .nan => (f.nanCode, 0)
  | .inf s => (f.signCode s 0, 0)
  | .fin s n d e =>
    if n = 0 then (f.signCode s (f.maxCode + 1), flagDz) else f.round rne (.fin s d n (-e))

/-- ⌊√n⌋ by bits from `i` down; `r` is the root found so far. -/
def sqrtBits (n : Nat) : Nat → Nat → Nat
  | 0, r => if (r + 1) * (r + 1) ≤ n then r + 1 else r
  | i + 1, r => sqrtBits n i (if (r + 2 ^ (i + 1)) * (r + 2 ^ (i + 1)) ≤ n then r + 2 ^ (i + 1) else r)

/-- ⌊√n⌋. -/
def isqrt (n : Nat) : Nat := sqrtBits n (n.log2 / 2 + 1) 0

/-- The square root of n × 2^e for n > 0 and even e, n having at least 80 bits; an odd last bit stands for what is left. -/
def rootOf (n : Nat) (e : Int) : Num :=
  let r := isqrt n
  if r * r = n then .fin false r 1 (e / 2) else .fin false (2 * r + 1) 1 (e / 2 - 1)

/-- √x (R179). -/
def sqrtOf (f : Fmt) : Num → Nat × BitVec 5
  | .nan => (f.nanCode, 0)
  | .inf s => if s then invalid f else (f.maxCode + 1, 0)
  | .fin s n d e =>
    if n = 0 then (f.signCode s 0, 0)
    else if s then invalid f
    else if e % 2 = 0 then f.round rne (rootOf (n * d * 2 ^ 200) (e - 200) |>.divFin (.fin false d 1 0))
    else f.round rne (rootOf (2 * n * d * 2 ^ 200) (e - 1 - 200) |>.divFin (.fin false d 1 0))

/-- 1 / √x (R179). -/
def rsqOf (f : Fmt) : Num → Nat × BitVec 5
  | .nan => (f.nanCode, 0)
  | .inf s => if s then invalid f else (0, 0)
  | .fin s n d e =>
    if n = 0 then (f.signCode s (f.maxCode + 1), flagDz)
    else if s then invalid f
    else
      let (n, e) := if e % 2 = 0 then (n, e) else (2 * n, e - 1)
      let r := isqrt (d * 2 ^ 400 / n)
      f.round rne (if r * r * n = d * 2 ^ 400 then .fin false r 1 (-(e / 2) - 200)
        else .fin false (2 * r + 1) 1 (-(e / 2) - 201))

/-- tanh x (R179, R211). -/
def tanhOf (f : Fmt) : Num → Nat × BitVec 5
  | .nan => (f.nanCode, 0)
  | .inf s => f.round rne (.fin s 1 1 0)
  | .fin s n d e =>
    if n = 0 then (f.signCode s 0, 0)
    else if !magLt n d e 128 1 0 then roundNearOne f s
    else roundEnc f s 0 (fun P =>
      let one : Int := (2 ^ P : Nat)
      let x := expNegEnc P (fixed P n d (e + 1)) 1
      divEnc P ⟨one - x.hi, one - x.lo⟩ ⟨one + x.lo, one + x.hi⟩) precisions

/-- The logistic function 1 / (1 + e^(−x)) at ± n / d × 2^e below 1024, as an enclosure. -/
def sigEnc (s : Bool) (n d : Nat) (e : Int) (P : Nat) : Enc :=
  let one : Int := (2 ^ P : Nat)
  let x := expNegEnc P (fixed P n d e) 1
  if s then divEnc P x ⟨one + x.lo, one + x.hi⟩ else divEnc P ⟨one, one⟩ ⟨one + x.lo, one + x.hi⟩

/-- The logistic function (R179). -/
def sigOf (f : Fmt) : Num → Nat × BitVec 5
  | .nan => (f.nanCode, 0)
  | .inf s => if s then (0, 0) else f.round rne (.ofInt 1)
  | .fin s n d e =>
    if n = 0 then f.round rne (.fin false 1 1 (-1))
    else if !magLt n d e 1024 1 0 then if s then roundTiny f false else roundNearOne f false
    else roundEnc f false 0 (sigEnc s n d e) precisions

/-- The fraction of a turn that an FP32 value leaves modulo 1, as a fraction of naturals (R131). -/
def turnOf (s : Bool) (n d : Nat) (e : Int) : Nat × Nat :=
  let (a, b) := scaled n d e
  let r := a % b
  (if s ∧ r ≠ 0 then b - r else r, b)

/-- cos 2πa and sin 2πa of FP32 (R131): the two codes and the flags of both. -/
def sincosOf : Num → Nat × Nat × BitVec 5
  | .fin s n d e =>
    let f := fmtF32
    let (a, b) := turnOf s n d e
    let q := 4 * a / b
    let r := 4 * a % b
    let (c, si) : (Nat × BitVec 5) × (Nat × BitVec 5) :=
      if r = 0 then ((0x3F800000, 0), (0, 0))
      else (roundEnc f false 0 (fun P => (trigEnc P r (4 * b) 0).1) precisions,
            roundEnc f false 0 (fun P => (trigEnc P r (4 * b) 0).2) precisions)
    let m (x : Nat × BitVec 5) : Nat := if x.1 = 0 then 0 else 0x80000000 + x.1
    let fl := c.2 ||| si.2
    match q with
    | 0 => (c.1, si.1, fl)
    | 1 => (m si, c.1, fl)
    | 2 => (m c, m si, fl)
    | _ => (si.1, m c, fl)
  | _ => (0x7FC00000, 0x7FC00000, flagNv)

/-- √(2/π) (x + 0.044715 x³) doubled, for the magnitude n / d × 2^e, as v / 2^P with its error: the exponent of Gelu. -/
def geluArg (P : Nat) (n d : Nat) (e : Int) : Nat × Nat :=
  let p := piEnc P
  let x := fixed P n d e
  let x3 := x * x / 2 ^ P * x / 2 ^ P
  let u := x + x3 * 44715 / 1000000
  let root := isqrt (2 * 2 ^ (3 * P) / p.hi.toNat)
  (2 * u * root / 2 ^ P, 2 ^ 20 * (1 + (p.hi - p.lo).toNat))

/-- Gelu(x) = x / (1 + e^(−2u)), u = √(2/π) (x + 0.044715 x³), correctly rounded to f32 (R211). -/
def geluOf : Num → Nat × BitVec 5
  | .nan => (0x7FC00000, 0)
  | .inf s => if s then invalid fmtF32 else (0x7F800000, 0)
  | .fin s n d e =>
    let f := fmtF32
    if n = 0 then (f.signCode s 0, 0)
    else if !magLt n d e 32 1 0 then
      if s then roundTiny f true
      else f.round rne (Num.mul (.fin false n d e) (.fin false (2 ^ 200 - 1) 1 (-200))).1
    else
      let k := floorLog2 n d e
      let x (P : Nat) := fixed P n d (e - k)
      roundEnc f s k (fun P =>
        let one : Int := (2 ^ P : Nat)
        let (v, err) := geluArg P n d e
        let y := expNegEnc P v err
        let g := if s then divEnc P y ⟨one + y.lo, one + y.hi⟩ else divEnc P ⟨one, one⟩ ⟨one + y.lo, one + y.hi⟩
        ⟨g.lo * x P / one - 1, (g.hi * (x P + 1)) / one + 1⟩) precisions

/-- Exp2F and Log2F of R288 on f32 codes. -/
def exp2F (x : Word) : Word := BitVec.ofNat 32 (exp2Of fmtF32 (f32 x)).1
def log2F (x : Word) : Word := BitVec.ofNat 32 (log2Of fmtF32 (f32 x)).1

end Sys2Proof.Machine
end

