-- ==== Sys2Proof/Machine/Flags.lean ====
section
/-! DEFINITION. FMODE and FFLAGS as the instructions use them (R126, R127, R150, R153 to R155): the rounding of a slot, the
flags that it raises, and the FP trap of an enabled flag. -/

namespace Sys2Proof.Machine

/-- FMODE.RM (R127). -/
def Ctl.rmode (c : Ctl) : RMode := roundingMode (c.fmode.toNat % 8)

/-- FMODE.TE, in the bit order of FFLAGS (R127). -/
def Ctl.te (c : Ctl) : BitVec 5 := c.fmode.extractLsb' 4 5

def Ctl.e4nan (c : Ctl) : Bool := c.fmode.getLsbD 9
def Ctl.sempty (c : Ctl) : Bool := c.fmode.getLsbD 10

/-- The rounding of a lane under FMODE with the random word of the lane; result j of n takes 32 / n of its bits (R150). -/
def Ctl.rnd (c : Ctl) (w : Word) (n j : Nat) : Rnd :=
  let k := 32 / n
  ⟨c.rmode, c.e4nan, w.toNat / 2 ^ (k * j) % 2 ^ k, k⟩

/-- Flags are raised (R126). -/
def Ctx.raise (x : Ctx) (fl : BitVec 5) : Ctx := { x with ctl := { x.ctl with fflags := x.ctl.fflags ||| fl } }

/-- Whether flags include one that FMODE.TE enables (R154). -/
def Ctl.fpTraps (c : Ctl) (fl : BitVec 5) : Bool := c.te != 0 && (c.te &&& fl) != 0

/-- A trap FP with every flag that the slot would have raised (R154). -/
def fpTrap (fl : BitVec 5) : SlotRes := .trap causeFp (some (fl.setWidth 64))

/-- A write of FMODE is legal (R127). -/
def fmodeOk (v : DWord) : Bool := v.toNat < 2048 && !v.getLsbD 3 && v.toNat % 8 ≤ 4

end Sys2Proof.Machine
end

