-- ==== Sys2Proof/Machine/Operands.lean ====
section
/-! DEFINITION. The operands of vector slots: sources and pops (R22, R23), repeated applications (R28, R181), the writing of
results under the active element mask (R162, R163), pushes, and the effective addresses of memory slots (R107). -/

namespace Sys2Proof.Machine

/-! ### Pops and pushes of a slot -/

/-- A slot that makes vector applications rounds by FMODE.RM and pops under RS (R147, R150). -/
def roundsByMode (i : Instr) : Bool :=
  match i with
  | .vadd _ | .vsub _ | .vmul _ | .vfma _ | .vfms _ | .vsumR _ | .vsumC _ | .vquant _ | .vdeq _ | .vround _ | .vcorr _ =>
    true
  | .vcvt f => cvtKind f < 6 || (8 ≤ cvtKind f && cvtKind f ≤ 12)
  | _ => false

/-- The number of applications after the first (R28). -/
def repeats (f : Fields) (o : OpInfo) : Nat := if o.rep ∧ f.ext.isSome then nrep f else 0

/-- The value of a field in application `j` (R28). -/
def stepped (f : Fields) (o : OpInfo) (v step j : Nat) : Nat := if o.rep ∧ f.ext.isSome then stepField v (j * step) else v

def fieldA (f : Fields) (o : OpInfo) (j : Nat) : Nat := stepped f o f.a.toNat (astep f) j
def fieldB (f : Fields) (o : OpInfo) (j : Nat) : Nat := stepped f o f.b.toNat (bstep f) j
def fieldD (f : Fields) (o : OpInfo) (j : Nat) : Nat := stepped f o f.d.toNat (dstep f) j

/-- What a pop takes from: the random-bits queue, or a local pipe. -/
inductive PopFrom where
  | rq
  | pipe (n : Nat)
  deriving DecidableEq, Repr

/-- The pop that a source field of a value makes (R22). -/
def popOf (o : Operand) (v : Nat) : Option PopFrom :=
  if !o.reads then none else
  match o.kind with
  | .vec => if v = 16 then some .rq else if 18 ≤ v ∧ v ≤ 21 then some (.pipe (v - 18)) else none
  | .pipe => some (.pipe v)
  | _ => none

/-- The key of a pop within its bundle: position, application and field (0 A, 1 B, 2 D, 3 the random vector of RS). -/
def popKey (pos j fld : Nat) : Nat := 64 * pos + 4 * j + fld

/-- The pops of a slot in their order, with their keys (R23, R150). -/
def slotPops (p : Placed) (rs : Bool) : List (Nat × PopFrom) :=
  match entry p.word.instr with
  | none => []
  | some (f, o) =>
    (List.range (repeats f o + 1)).flatMap fun j =>
      let at_ (fld : Nat) (x : Option PopFrom) : List (Nat × PopFrom) := x.toList.map fun y => (popKey p.pos j fld, y)
      at_ 0 (popOf o.a (fieldA f o j)) ++ at_ 1 (popOf o.b (fieldB f o j))
        ++ (if rs && roundsByMode p.word.instr then [(popKey p.pos j 3, .rq)] else [])

/-- The local pipes that a slot pushes to, in order (R22, R199). -/
def slotPushes (p : Placed) : List Nat :=
  match entry p.word.instr with
  | none => []
  | some (f, o) =>
    if !o.d.writes then [] else
    match o.d.kind with
    | .vec => (List.range (repeats f o + 1)).filterMap fun j =>
        let v := fieldD f o j
        if 22 ≤ v ∧ v ≤ 25 then some (v - 22) else none
    | .pipe => [f.d.toNat]
    | _ => []

/-! ### Sources -/

/-- The vector operand of a field in application `j`; `prior` holds what earlier applications wrote (R22, R28). -/
def Env.vec (e : Env) (prior : SMap Lanes) (j fld v : Nat) : Lanes :=
  if v < 16 then (tget prior v).getD (e.b.latch.vreg v)
  else if v = 17 then []
  else mget [] e.b.pops (popKey e.p.pos j fld)

/-- The random vector of RS in an application. -/
def Env.rs (e : Env) (j : Nat) : Lanes := mget [] e.b.pops (popKey e.p.pos j 3)

/-- Vector operands A and B of a slot without repeats. -/
def Env.vecA (e : Env) (f : Fields) : Lanes := e.vec [] 0 0 f.a.toNat
def Env.vecB (e : Env) (f : Fields) : Lanes := e.vec [] 0 1 f.b.toNat
def Env.vecD (e : Env) (f : Fields) : Lanes := e.vec [] 0 2 f.d.toNat

/-- Scalar operands A, B and D of a slot. -/
def Env.sA (e : Env) (f : Fields) : DWord := e.b.latch.s f.a
def Env.sB (e : Env) (f : Fields) : DWord := e.b.latch.s f.b
def Env.sD (e : Env) (f : Fields) : DWord := e.b.latch.s f.d

/-- A lane of a register. -/
def lane (x : Lanes) (i : Nat) : Word := mget 0 x i

/-- The two halves of a lane (R159). -/
def lowHalf (w : Word) : BitVec 16 := w.extractLsb' 0 16
def highHalf (w : Word) : BitVec 16 := w.extractLsb' 16 16

/-- The low and the high half of a lane put together. -/
def halves (lo hi : Nat) : Word := BitVec.ofNat 32 (lo + 65536 * hi)

/-- The lanes of a set with the values and flags that a function gives them. -/
def mapLanes (act : Mask) (g : Nat → Word × BitVec 5) : Lanes × BitVec 5 :=
  (List.range 1024).foldr (fun i acc =>
    if act.getLsbD i then
      let r := g i
      (if r.1 = 0 then acc.1 else (i, r.1) :: acc.1, acc.2 ||| r.2)
    else acc) ([], 0)

/-- The lanes of a set with the values that a function gives them. -/
def fillLanes (act : Mask) (g : Nat → Word) : Lanes :=
  (List.range 1024).filterMap fun i =>
    if act.getLsbD i then let w := g i; if w = 0 then none else some (i, w) else none

/-! ### Results -/

/-- An entry is pushed to a local pipe (R163, R198, R331). -/
def State.pushPipe (s : State) (n c l : Nat) (v : Lanes) : State :=
  let x := s.ctx n c
  match tget x.task.pushEnd l with
  | none => s
  | some p =>
    let s := s.modCore n fun k => { k with pipes := mmod {} k.pipes p fun q => { q with entries := q.entries ++ [(v, k.t)] } }
    s.irrevocable n c

/-- The result of an application goes to its destination: a register takes the lanes of `sel`, a pipe takes an entry with
0 elsewhere, vector operand 17 nothing (R22, R162, R163). -/
def State.writeVec (s : State) (e : Env) (v l : Nat) (sel : Mask) (x : Lanes) : State :=
  if v < 16 then s.modCtx e.n e.c fun y => y.push l (.v v sel x)
  else if v = 17 then s
  else s.pushPipe e.n e.c (v - 22) x

/-- The result of an application goes to some bits of the lanes of a register alone, and the rest of a lane keeps its bits (R173). All
32 bits are the whole lane. -/
def State.writeBits (s : State) (e : Env) (v l : Nat) (bits : Word) (sel : Mask) (x : Lanes) : State :=
  if v < 16 ∧ bits ≠ 0xFFFFFFFF then s.modCtx e.n e.c fun y => y.push l (.vBits v bits sel x) else s.writeVec e v l sel x

/-- What the applications of a slot come to: the destinations with the results, in order, and the flags raised; or the
flags of an FP trap. -/
abbrev Applied := Except (BitVec 5) (List (Nat × Lanes) × BitVec 5)

/-- The applications of a slot from number `j` on (R28, R154, R181). `g` is given A, B, D and the random vector. -/
def Env.applyFrom (e : Env) (f : Fields) (o : OpInfo) (act : Mask) (g : Lanes → Lanes → Lanes → Lanes → Lanes × BitVec 5) :
    Nat → Nat → SMap Lanes → BitVec 5 → List (Nat × Lanes) → Applied
  | 0, _, _, fl, out => .ok (out, fl)
  | fuel + 1, j, prior, fl, out =>
    let d := fieldD f o j
    let old : Lanes := if o.d.reads then e.vec prior j 2 d else []
    let r := g (e.vec prior j 0 (fieldA f o j)) (e.vec prior j 1 (fieldB f o j)) old (e.rs j)
    let fl := fl ||| r.2
    if e.b.latch.ctl.fpTraps fl then .error fl
    else
      let prior := if d < 16 then tset prior d (mergeLanes act r.1 ((tget prior d).getD (e.b.latch.vreg d))) else prior
      e.applyFrom f o act g fuel (j + 1) prior fl (out ++ [(d, r.1)])

/-- A vector slot of elementwise form (R162, R164, R173, R181): its applications, its flags and its writes, to the bits `bits` of the
lanes. -/
def State.vecBits (s : State) (i : Instr) (bits : Word) (g : Env → Lanes → Lanes → Lanes → Lanes → Lanes × BitVec 5) (e : Env) :
    SlotRes :=
  match entry i with
  | none => .done s
  | some (f, o) =>
    let act := e.b.latch.active
    match e.applyFrom f o act (g e) (repeats f o + 1) 0 [] 0 [] with
    | .error fl => fpTrap fl
    | .ok (out, fl) =>
      let s := s.modCtx e.n e.c fun x => x.raise fl
      .done (out.foldl (fun s w => s.writeBits e w.1 (o.lat + repeats f o) bits act w.2) s)

/-- A vector slot of elementwise form that writes whole lanes. -/
def State.vecBody (s : State) (i : Instr) (g : Env → Lanes → Lanes → Lanes → Lanes → Lanes × BitVec 5) (e : Env) : SlotRes :=
  s.vecBits i 0xFFFFFFFF g e

/-- A vector slot of elementwise form. -/
def runVec (s : State) (i : Instr) (g : Env → Lanes → Lanes → Lanes → Lanes → Lanes × BitVec 5) :
    Host.Outcome State Fault Refusal :=
  runSlot s fun e s => s.vecBody i g e

/-- A vector slot whose result in a lane is computed from the lanes of its sources alone. -/
def runLanes (s : State) (i : Instr) (g : Env → Word → Word → Word → Word → Word × BitVec 5) :
    Host.Outcome State Fault Refusal :=
  runVec s i fun e a b d r => mapLanes e.b.latch.active fun k => g e (lane a k) (lane b k) (lane d k) (lane r k)

/-- As `runLanes`, for an instruction that raises no flag. -/
def runBits (s : State) (i : Instr) (g : Word → Word → Word → Word) : Host.Outcome State Fault Refusal :=
  runVec s i fun e a b d _ => (fillLanes e.b.latch.active fun k => g (lane a k) (lane b k) (lane d k), 0)

/-- A slot that writes bits of active lanes to a mask register (R162, R166). -/
def runCompare (s : State) (i : Instr) (g : Word → Word → Bool) : Host.Outcome State Fault Refusal :=
  runSlot s fun e s =>
    match entry i with
    | none => .done s
    | some (f, o) =>
      let a := e.vecA f
      let b := e.vecB f
      .done (s.modCtx e.n e.c fun x =>
        x.putM f.d o.lat e.b.latch.active (bitsOf 1024 fun k => g (lane a k) (lane b k)))

/-! ### Effective addresses -/

/-- The address of an LD or LA slot (R26, R107). -/
def Env.ldAddr (e : Env) (vector : Bool) (f : Fields) : DWord := e.sA f + ldOffset vector f

/-- The address of an MA slot (R26, R107). -/
def Env.maAddr (e : Env) (f : Fields) : DWord := e.sA f + maOffset f

end Sys2Proof.Machine
end

