-- ==== Sys2Proof/Machine/Issue.lean ====
section
/-! DEFINITION. How a context comes to issue a bundle: fetching its words, the checks of R32 and R359, After of R104, the
conditions under which a bundle blocks or stalls (R23, R116, R117, R191, R198, R201, R283, R310), the registers that a
resumption left absent (R275), the pops, and splitting (R44 to R47). -/

namespace Sys2Proof.Machine

/-! ### Fetching -/

/-- What fetching comes to: words up to a stop bit, lowest first; a word that cannot be fetched; or a wait for a peer. -/
inductive Fetched where
  | words (s : State) (ws : List Word)
  | fail (s : State) (f : Failure)
  | wait (s : State)

/-- A line as the instruction cache of a core gives it: the copy that it holds, or the line as it stands, of which it keeps a copy
(R323). -/
def State.fetchLine (s : State) (n l : Nat) : State × List Byte :=
  match tget (s.core n).icache l with
  | some d => (s, d)
  | none =>
    let d := s.peek (64 * l) 64
    (s.modCore n fun k => { k with icache := tset (keepCopies 1 s.clock l icacheLines k.icache) l d }, d)

/-- The words from an address up to the first with S = 1, at most `fuel` (R29). A word in a block marked uncorrectable is not run
(log 67). -/
def State.fetchWords (n c : Nat) : Nat → State → DWord → List Word → Fetched
  | 0, s, _, ws => .words s ws
  | fuel + 1, s, a, ws =>
    match s.places n (s.ctx n c) .fetch a 4 with
    | .error f => .fail f.s ⟨f.cause, a, f.s⟩
    | .ok (s, ps) =>
      let go (s : State) (bs : List Byte) : Fetched :=
        let w : Word := leWord 32 bs
        if wordStop w then .words s (ws ++ [w]) else State.fetchWords n c fuel s (a + 4) (ws ++ [w])
      match ps with
      | (.mem pa, _) :: _ =>
        if (tget s.mem.bad (pa / 256)).isSome then .fail s ⟨causeDataUncorr, a, s⟩
        else
          let r := s.fetchLine n (lineOf pa)
          go r.1 ((r.2.drop (pa % 64)).take 4)
      | (.peer node off, _) :: _ =>
        let x := s.ctx n c
        match (List.range 4).mapM fun i => tget x.peerBuf (a.toNat + i) with
        | some bs => go s bs
        | none =>
          if (x.peerBadAt a 4).isSome then .fail s ⟨causeDataUncorr, a, s⟩
          else if !s.nodeUp node then .fail s ⟨causeRemoteFail, a, s⟩
          else if s.fabric.remotes.any fun q => q.2.awaited x.task.uid a
          then .wait s
          else .wait (s.sendRemote
            { core := n, ctx := c, uid := x.task.uid, node := node, addr := a, len := 4, landing := none, counts := false,
              issued := s.gtime.toNat } fun i => .load i node off 4)
      | _ => .fail s ⟨causeProtect, a, s⟩

/-! ### The checks of R32 -/

/-- A slot of a bundle before it is decoded: its position, its EXT word, and its own word. -/
structure RawSlot where
  pos : Nat
  ext : Option Word
  word : Word
  deriving DecidableEq, Repr

/-- The index of a slot's own word. -/
def RawSlot.own (r : RawSlot) : Nat := if r.ext.isSome then r.pos + 1 else r.pos

/-- The slots of a run of words; none where an EXT word is misplaced (R27). -/
def rawSlots : Nat → List Word → Option (List RawSlot)
  | _, [] => some []
  | pos, [w] => if wordClass w = 5 then none else some [⟨pos, none, w⟩]
  | pos, w :: w' :: ws =>
    if wordClass w = 5 then
      if wordStop w ∨ wordClass w' = 5 then none
      else (rawSlots (pos + 2) ws).map (⟨pos, some w, w'⟩ :: ·)
    else (rawSlots (pos + 1) (w' :: ws)).map (⟨pos, none, w⟩ :: ·)

/-- The slot of a raw slot. -/
def RawSlot.decode (r : RawSlot) : Except WordError SlotWord := decodeWord (r.ext.map wordPayload) r.word

/-- A word of class S with OP 0 (R29). -/
def isNopWord (w : Word) : Bool := wordClass w = 0 && wordOp w = 0

/-- The slots of each class are within the limits of a bundle (R29). -/
def classLimits (rs : List RawSlot) : Bool :=
  let n (c : Nat) : Nat := (rs.filter fun r => wordClass r.word = c && !isNopWord r.word).length
  n 0 ≤ 2 && n 1 ≤ 3 && n 2 ≤ 1 && n 3 ≤ 2 && n 4 ≤ 1

/-- Every EXT word stands before a slot that it can join (R27). -/
def extsOk (rs : List RawSlot) : Bool :=
  rs.all fun r => r.ext.isNone ||
    match r.decode with
    | .ok x => extOk x.instr
    | .error .misplacedExt => false
    | .error _ => true

/-- What each slot of a bundle writes (R30). -/
def bundleWrites (rs : List RawSlot) : List (List Written) :=
  rs.map fun r => match r.decode with | .ok x => slotWrites x.instr | .error _ => []

/-- Two slots write one register (R30). A number that names no register counts as one: two slots that write m10 raise ILLEGAL_BUNDLE,
before the ILLEGAL_OPERAND of either (DESIGN CHOICE, log 58). -/
def doubleWrite : List (List Written) → Bool
  | [] => false
  | ws :: rest => ws.any (fun w => rest.any fun v => v.contains w) || doubleWrite rest

/-- The control registers that user privilege may not write, and those that no `mtc` may (R124). -/
def systemCreg (n : Nat) : Bool := [0x01, 0x02, 0x03, 0x05, 0x06, 0x07, 0x08, 0x09, 0x0A, 0x17].contains n
def readOnlyCreg (n : Nat) : Bool := [0x12, 0x13, 0x14, 0x15, 0x18].contains n

/-- The control register that an `mtc` of any row writes. -/
def mtcTarget (i : Instr) : Option Nat :=
  match i with
  | .mtc f | .mtcStatus f | .mtcFflags f | .mtcFmode f | .mtcEmask f | .mtcRngkey f | .mtcRngsrc f | .mtcTbudget f
  | .mtcXcnt f | .mtcSlotmap f => some f.d.toNat
  | _ => none

/-- The `mtc` names a register that may be written (R359). -/
def mtcOk (priv : Bool) (i : Instr) : Bool :=
  match mtcTarget i with
  | some n => !readOnlyCreg n && !(n = 0x07 && priv)
  | none => true

/-- A register that a user event handler may write (R271). -/
def eventWrite : Written → Bool
  | .s n => 28 ≤ n
  | .c n => n = 0x0B
  | _ => false

/-- An instruction that its entry forbids in a user event handler (R82, R233, R253), or that writes a stream register without naming
it as its result: the TAIL, HEAD or CNT of a ring or stream (R194, R195, R271). -/
def eventForbids (i : Instr) : Bool :=
  match i with
  | .yield | .exit | .bar _ | .bswap _ | .slcClaim _ | .slcClaimC _ | .slcWait _ | .yieldEr | .erIdle _ => true
  | .tld _ | .tst _ | .gld _ | .gst _ | .radv _ | .radvH _ => true
  | _ => false

/-- The class of an instruction. -/
def classOf (i : Instr) : Nat := match entry i with | some (_, o) => o.cls | none => 5

/-- Privilege and INEVT allow the slot (R359). -/
def privilegeOk (c : Ctl) (i : Instr) : Bool :=
  (match mtcTarget i with | some n => c.priv || !systemCreg n | none => true)
    && (i != .rfe || c.priv)
    && (i != .rfu || c.inevt)
    && (!c.inevt || (!eventForbids i && !([1, 2, 4].contains (classOf i)) && (slotWrites i).all eventWrite
      && (mtcTarget i).all (· = 0x0B)))

/-- A field names nothing beyond the kernel header's declaration (R21). `n` is the last application. -/
def fieldWithin (h : Header) (inevt : Bool) (o : Operand) (v n : Nat) : Bool :=
  match o.kind with
  | .scalar => v < h.ns || (inevt && 28 ≤ v)
  | .vec | .vecReg =>
    if v < 16 then v + n < h.nv else if 18 ≤ v ∧ v ≤ 21 then v - 18 < h.npipe else !(22 ≤ v) || v - 22 < h.npipe
  | .vecSpan k => v + k ≤ h.nv
  | .mask => v < h.nm
  | .stream => v < h.nst
  | .streamSpan k => v + k ≤ h.nst
  | .mpar => v < h.nmp
  | .acc => v < h.nacc
  | .accPair => v + 1 < h.nacc
  | .pipe => v < h.npipe
  | _ => true

/-- The candidate instructions (R283). -/
def isCandidate (i : Instr) : Bool :=
  match i with
  | .cfClear | .cfClearAll | .cfMerge _ | .cfMergeP _ | .cfNorm _ | .cfNormD _ | .cfLabel _ | .cfRead _ | .cfXmerge _
  | .cfTopp _ | .cfToppSet _ | .cfRace _ | .cfMask _ | .cfMaskOff | .cfSpill _ => true
  | _ => false

/-- The slot names nothing beyond the declaration (R21, R83, R101, R283). -/
def resourceOk (h : Header) (inevt : Bool) (i : Instr) : Bool :=
  (!isCandidate i || h.cf) &&
  match entry i with
  | none => true
  | some (f, o) =>
    let r := repeats f o
    fieldWithin h inevt o.d f.d.toNat (if o.rep then r * dstep f else 0)
      && fieldWithin h inevt o.a f.a.toNat (if o.rep then r * astep f else 0)
      && fieldWithin h inevt o.b f.b.toNat (if o.rep then r * bstep f else 0)
      && (match i with
        | .call _ => inevt || h.ns = 32
        | .bar g => g.a.toNat < h.nbar && g.d.toNat ≤ h.level
        | _ => true)

/-- An instruction of routines alone (R219). -/
def routineOnly (i : Instr) : Bool := match i with | .tret | .tloop _ | .tstep => true | _ => false

/-- A word has the class and opcode of a routine control word, which only a routine may hold (R219). -/
def controlWord (w : Word) : Bool := wordClass w = 4 && [0x0B, 0x0C, 0x0D].contains (wordOp w)

/-- The checks of step 4 of R32 on one slot: the cause and the index of the word at fault. For reserved bits of a repeat word that is
the EXT word; for a stepped register number the slot's own word (DESIGN CHOICE, log 57). -/
def checkSlot (h : Header) (c : Ctl) (r : RawSlot) : Except (BitVec 8 × Nat) Placed :=
  if controlWord r.word then .error (causeIllegalOp, r.own)
  else match r.decode with
  | .error .unusedField => .error (causeIllegalOperand, r.own)
  | .error _ => .error (causeIllegalOp, r.own)
  | .ok x =>
    let badRepeat := match entry x.instr with
      | some (f, o) => o.rep && (payload f).extractLsb' 16 12 != 0
      | none => false
    if badRepeat then .error (causeIllegalOperand, r.pos)
    else if !fieldsOk x.instr ∨ !mtcOk c.priv x.instr then .error (causeIllegalOperand, r.own)
    else if !privilegeOk c x.instr then .error (causePrivilege, r.own)
    else if !resourceOk h c.inevt x.instr then .error (causeResource, r.own)
    else .ok ⟨r.pos, x⟩

/-- The checks of R32 from step 2 on: the slots of a bundle, or the cause and the index of the word at fault. -/
def checkBundle (h : Header) (c : Ctl) (ws : List Word) : Except (BitVec 8 × Nat) (List Placed) :=
  match ws.findIdx? fun w => 6 ≤ wordClass w with
  | some i => .error (causeIllegalClass, i)
  | none =>
    match rawSlots 0 ws with
    | none => .error (causeIllegalBundle, 0)
    | some rs =>
      if !(ws.getLast?.any wordStop) ∨ ws.length < 4 ∨ !classLimits rs ∨ !extsOk rs ∨ doubleWrite (bundleWrites rs) then
        .error (causeIllegalBundle, 0)
      else rs.mapM (checkSlot h c)

/-! ### Splitting (R44 to R47) -/

/-- The effective instances of a class (R45). -/
def instances (l : Latch) (cls : Nat) : Nat :=
  let m := (l.slotmap &&& l.pwrmask).toNat
  match cls with
  | 0 => popCount (BitVec.ofNat 2 (field m 1 0))
  | 1 => popCount (BitVec.ofNat 3 (field m 4 2))
  | 3 => popCount (BitVec.ofNat 2 (field m 6 5))
  | _ => 1

/-- The bundle holds more slots of a class than it has effective instances (R46). -/
def splits (l : Latch) (ps : List Placed) : Bool :=
  [0, 1, 3].any fun c => instances l c <
    (ps.filter fun p => p.word.instr != .nop && classOf p.word.instr = c).length

/-! ### Absent registers (R275) -/

/-- The registers of the absent kinds that a set of writes and fields names. -/
def Absent.add (x : Absent) (o : Operand) (v n : Nat) : Absent :=
  match o.kind with
  | .scalar => { x with s := setBit x.s v true }
  | .vec | .vecReg => if v < 16 then { x with v := setBit x.v (v + n) true } else x
  | .vecSpan k => (List.range k).foldl (fun x j => { x with v := setBit x.v (v + j) true }) x
  | .mask => { x with m := setBit x.m v true }
  | .mpar => { x with mp := setBit x.mp v true }
  | .stream => { x with st := setBit x.st v true }
  | .streamSpan k => (List.range k).foldl (fun x j => { x with st := setBit x.st (v + j) true }) x
  | _ => x

/-- The registers that a slot names; a `call` names s31, a `tcall` every matrix parameter and stream, a vector slot the active mask. -/
def namedBy (c : Ctl) (i : Instr) : Absent :=
  match entry i with
  | none => {}
  | some (f, o) =>
    let x := (List.range (repeats f o + 1)).foldl (fun (x : Absent) j =>
      ((x.add o.d f.d.toNat (fieldD f o j - f.d.toNat)).add o.a f.a.toNat (fieldA f o j - f.a.toNat)).add o.b f.b.toNat
        (fieldB f o j - f.b.toNat)) {}
    let x := match i with
      | .call _ => { x with s := setBit x.s 31 true }
      | .tcall _ => { x with mp := 0xFF, st := 0xFFFF }
      | .tdrain _ => { x with v := 0xFFFF, st := 0xFFFF }
      | _ => x
    if o.cls = 1 ∨ o.cls = 2 ∨ o.cls = 3 then { x with m := setBit x.m c.emask.toNat true } else x

/-- The instructions of the words of a bundle, those that decode. -/
def wordInstrs (ws : List Word) : List Instr :=
  ((rawSlots 0 ws).getD []).filterMap fun r => match r.decode with | .ok x => some x.instr | .error _ => none

/-- The absent registers that the instructions of a bundle name, or that a write about to become visible names. -/
def Ctx.missing (x : Ctx) (is : List Instr) : Absent :=
  let a := is.foldl (fun (a : Absent) i => a.or (namedBy x.ctl i)) {}
  let b := (x.pend.filter fun w => decide (w.due ≤ x.count)).foldl (fun (a : Absent) w => a.or w.dest.named) a
  x.absent.and b

/-! ### Random vectors (R309, R310) -/

/-- A round of the generator. -/
def genRound (k0 k1 : Word) (c : Word × Word × Word × Word) : Word × Word × Word × Word :=
  let (c0, c1, c2, c3) := c
  let a : BitVec 64 := 0xD2511F53 * c0.setWidth 64
  let b : BitVec 64 := 0xCD9E8D57 * c2.setWidth 64
  (b.extractLsb' 32 32 ^^^ c1 ^^^ k0, b.extractLsb' 0 32, a.extractLsb' 32 32 ^^^ c3 ^^^ k1, a.extractLsb' 0 32)

/-- The rounds of the generator. -/
def genRounds : Nat → Word → Word → Word × Word × Word × Word → Word × Word × Word × Word
  | 0, _, _, c => c
  | n + 1, k0, k1, c => genRounds n (k0 + 0x9E3779B9) (k1 + 0xBB67AE85) (genRound k0 k1 c)

/-- Gen (R309). -/
def gen (key : DWord) (c0 c1 c2 c3 : Word) : Word × Word × Word × Word :=
  genRounds 10 (key.extractLsb' 0 32) (key.extractLsb' 32 32) (c0, c1, c2, c3)

/-- Word `i` of four. -/
def pick4 (w : Word × Word × Word × Word) (i : Nat) : Word :=
  match i % 4 with
  | 0 => w.1
  | 1 => w.2.1
  | 2 => w.2.2.1
  | _ => w.2.2.2

/-- Vector j of the sequence of a key (R310). -/
def rngVector (key j : DWord) : Lanes :=
  (List.range 256).flatMap fun g =>
    let w := gen key (BitVec.ofNat 32 g) (j.extractLsb' 0 32) (j.extractLsb' 32 32) 1
    (List.range 4).filterMap fun i => if pick4 w i = 0 then none else some (4 * g + i, pick4 w i)

/-! ### The conditions of issue -/

/-- The access of a scalar or vector memory slot (R107): its kind, address and size. -/
def memAccess (l : Latch) (i : Instr) : Option (AccessKind × DWord × Nat) :=
  let ld (f : Fields) (n : Nat) : Option (AccessKind × DWord × Nat) := some (.load, l.s f.a + ldOffset false f, n)
  let st (f : Fields) (n : Nat) : Option (AccessKind × DWord × Nat) := some (.store, l.s f.a + maOffset f, n)
  let amo (f : Fields) (n : Nat) : Option (AccessKind × DWord × Nat) := some (.atomic, l.s f.a + ldOffset false f, n)
  match i with
  | .ldI8 f | .ldN8 f => ld f 1
  | .ldI16 f | .ldN16 f => ld f 2
  | .ldI32 f | .ldN32 f => ld f 4
  | .ldI64 f => ld f 8
  | .ldV f => some (.load, l.s f.a + ldOffset true f, 4096)
  | .st8 f => st f 1
  | .st16 f => st f 2
  | .st32 f => st f 4
  | .st64 f => st f 8
  | .stV f => st f 4096
  | .amoAdd f | .amoAnd f | .amoOr f | .amoXor f | .amoMin f | .amoMax f | .amoXchg f | .amoCas f =>
    amo f (if f.md then 4 else 8)
  | .amoFadd f => amo f 4
  | _ => none

/-- What a store or an atomic would add to CNTST and CNTRM (R112, R115): 1 to each in which it counts. -/
def State.accessCounts (s : State) (n : Nat) (x : Ctx) (k : AccessKind) (a : DWord) (size : Nat) : Nat × Nat :=
  match s.places n x k a size with
  | .error _ => (0, 0)
  | .ok (_, ps) => ((ps.any fun p => !p.1.remote).toNat, (ps.any fun p => p.1.remote).toNat)

/-- What a slot of a bundle would still add to CNTST and CNTRM (R112, R114, R116, R289, R344). A seal or diff that has been answered
is counted already. -/
def State.slotCounts (s : State) (n : Nat) (x : Ctx) (b : Bundle) (p : Placed) : Nat × Nat :=
  let l := b.latch
  match p.word.instr with
  | .ckptSeal _ | .ckptDiff _ => (0, (tget b.answers p.pos).isNone.toNat)
  | .cfSpill f =>
    (List.range (min 128 (l.s f.b).toNat)).foldl (fun r i =>
      let c := s.accessCounts n x .store (l.s f.a + BitVec.ofNat 64 (1024 * i)) 1024
      (r.1 + c.1, r.2 + c.2)) (0, 0)
  | i =>
    match memAccess l i with
    | none => (0, 0)
    | some (.load, _, _) => (0, 0)
    | some (k, a, size) => s.accessCounts n x k a size

/-- The record, table or image that a slot reads as a load (R360): its address and size. -/
def readAccess (l : Latch) (i : Instr) : Option (DWord × Nat) :=
  match i with
  | .stset f | .bswap f => some (l.s f.a, 32)
  | .shapeLd f => some (l.s f.a, 40)
  | .slcOpen f => some (l.s f.a, 64)
  | .epiSet f => some (l.s f.a, 256)
  | .rstLoad f => some (l.s f.a, 4 * ((l.s f.b).toNat / 4096))
  | .cfXmerge f => some (l.s f.a, 8 * ((l.s f.b).toNat / 256))
  | _ => none

/-- A scalar or vector access of a slot, or a read of a record, waits for the scoreboard (R191). -/
def State.accessWaits (s : State) (n : Nat) (x : Ctx) (l : Latch) (i : Instr) : Bool :=
  match (memAccess l i).or ((readAccess l i).map fun r => (.load, r.1, r.2)) with
  | none => false
  | some (k, a, size) =>
    match s.places n x k a size with
    | .error _ => false
    | .ok (s, ps) => (s.core n).placesBusy (k = .store) ps || s.peersBusy x.task.uid ps

/-- A slot enters the matrix queue (R201). -/
def entersQueue (i : Instr) : Bool :=
  match i with
  | .tmma _ | .tmmaCell _ | .tspmma _ | .tspmma48 _ | .tcomp _ | .tcomp48 _ | .tzero _ | .tdrain _ | .tdacc _
  | .tdaccClamp _ | .tcall _ | .tvproj _ | .tvprojR _ | .tvprojPair _ | .tvprojPairR _ => true
  | _ => false

/-- An entry of the matrix queue that changes candidate rows (R294). -/
def MatEntry.touchesRows (m : MatEntry) : Bool :=
  match m.op with
  | .vproj _ _ _ _ _ _ _ | .vprojPair _ _ _ _ _ => true
  | .drain _ _ _ _ (.cand _) _ => true
  | _ => false

/-- A slot's `wait.cnt` is satisfied (R117). -/
def waitOver (l : Latch) (k : Counters) (f : Fields) : Bool :=
  let v := l.s f.a + riValue f
  (k.get f.d.toNat : Int) ≤ max 0 v.toInt

/-- How a slot's pops or pushes can be served: now, later, or never (R198). -/
inductive Served where
  | now | later | never
  deriving DecidableEq, Repr

/-- What the pops and pushes of the slots before have used: vectors of rq, entries of each pipe, and room. -/
structure Used where
  rq : Nat := 0
  pops : SMap Nat := []
  pushes : SMap Nat := []
  deriving DecidableEq, Repr

/-- A pop can be served. -/
def Core.servePop (k : Core) (x : Ctx) (u : Used) : PopFrom → Served × Used
  | .rq => (if u.rq < x.rqAhead then .now else .later, { u with rq := u.rq + 1 })
  | .pipe l =>
    match tget x.task.popEnd l with
    | none => (.never, u)
    | some p =>
      let q := mget {} k.pipes p
      let n := mget 0 u.pops p
      (if n < q.entries.length then .now else if q.pusher = x.task.uid ∨ k.taskEnded q.pusher then .never else .later,
        { u with pops := mset 0 u.pops p (n + 1) })

/-- A push has room. -/
def Core.servePush (k : Core) (x : Ctx) (u : Used) (l : Nat) : Served × Used :=
  match tget x.task.pushEnd l with
  | none => (.never, u)
  | some p =>
    let q := mget {} k.pipes p
    let n := mget 0 u.pushes p
    (if q.entries.length + n < 4 then .now else if q.popper = x.task.uid ∨ k.taskEnded q.popper then .never else .later,
      { u with pushes := mset 0 u.pushes p (n + 1) })

/-- The vectors that the slots of a bundle take from rq, those with a false guard included. -/
def Bundle.vectors (b : Bundle) : Nat :=
  ((b.slots.flatMap fun p => slotPops p (b.latch.ctl.rmode = .rs)).filter fun q => q.2 = .rq).length

/-- The worse of two. -/
def Served.and : Served → Served → Served
  | .never, _ => .never
  | .later, .never => .never
  | .later, _ => .later
  | .now, x => x

/-- All pops and pushes of a slot. -/
def Core.serveSlot (k : Core) (x : Ctx) (rs popped : Bool) (u : Used) (p : Placed) : Served × Used :=
  let (a, u) := (if popped then [] else slotPops p rs).foldl (fun (r : Served × Used) q =>
    let (v, u) := k.servePop x r.2 q.2
    (r.1.and v, u)) (.now, u)
  (slotPushes p).foldl (fun (r : Served × Used) l =>
    let (v, u) := k.servePush x r.2 l
    (r.1.and v, u)) (a, u)

/-- Whether a bundle may issue now; it may stall, block, or issue up to a slot whose pop or push can never be served. -/
inductive Verdict where
  | issue (fail : Option Nat)
  | stall
  | block
  deriving DecidableEq, Repr

/-- The pops and pushes of the slots from index `i` on. -/
def Core.serveAll (k : Core) (x : Ctx) (b : Bundle) : Nat → List Placed → Used → Verdict
  | _, [], _ => .issue none
  | i, p :: ps, u =>
    if i < b.cur ∨ !b.latch.guard p.word then k.serveAll x b (i + 1) ps u
    else
      match k.serveSlot x (b.latch.ctl.rmode = .rs) (decide (i < b.popped)) u p with
      | (.now, u) => k.serveAll x b (i + 1) ps u
      | (.later, _) => .block
      | (.never, _) => .issue (some p.pos)

/-! ### Issue -/

/-- The pops of a slot are made: the values, with their keys (R23, R310, R331). -/
def State.popSlot (s : State) (n c : Nat) (rs : Bool) (p : Placed) : State × SMap Lanes :=
  (slotPops p rs).foldl (fun (r : State × SMap Lanes) q =>
    let s := r.1
    let x := s.ctx n c
    match q.2 with
    | .rq =>
      let v := rngVector x.ctl.rngkey x.ctl.qpos
      (s.setCtx n c { x with rqAhead := x.rqAhead - 1, ctl := { x.ctl with qpos := x.ctl.qpos + 1 } }, mset [] r.2 q.1 v)
    | .pipe l =>
      match tget x.task.popEnd l with
      | none => r
      | some i =>
        let pipe := mget {} (s.core n).pipes i
        match pipe.entries with
        | [] => r
        | (v, t) :: rest =>
          let s := (s.modCore n fun k => { k with pipes := mset {} k.pipes i { pipe with entries := rest } }).raiseT n t
          (s.irrevocable n c, mset [] r.2 q.1 v)) (s, [])

/-- The bundle issues: its latch takes the shared registers as they stand, its pops are made, and it may be split. -/
def State.issueBundle (s : State) (n c : Nat) (b : Bundle) (fail : Option Nat) : State :=
  let rs := decide (b.latch.ctl.rmode = .rs)
  let limit := match fail with
    | some q => (b.slots.findIdx? fun p => p.pos = q).getD b.slots.length
    | none => b.slots.length
  let x := s.ctx n c
  let lt := if b.reentry then b.latch else x.latch (s.core n)
  let (s, pops) := ((b.slots.take limit).drop b.popped).foldl (fun (r : State × SMap Lanes) p =>
    if lt.guard p.word then
      let (s, v) := r.1.popSlot n c rs p
      (s, v.foldl (fun m w => mset [] m w.1 w.2) r.2)
    else r) (s, b.pops)
  s.modBundle n c fun _ =>
    { b with stage := .issued, latch := lt, pops := pops, popped := max b.popped limit, pipeFail := fail,
             split := if b.reentry then b.split else splits lt b.slots }

/-- A slot that makes a request of the dispatcher, slice controller, edge unit or checkpoint unit before its bundle issues
(R82). -/
def isRequest (i : Instr) : Bool :=
  match i with
  | .tlaunch _ | .bar _ | .bswap _ | .shapeLd _ | .heapPush _ | .heapPop _ | .heapPeek _ | .heapPeekDl _ | .budget _
  | .yieldEr | .erIdle _ | .erSet _ | .erGet _ | .erGetS _ | .slcOpen _ | .slcClaim _ | .slcClaimC _ | .slcStart _ | .slcJump _
  | .slcAccept _ | .slcWait _ | .slcStat _ | .slcStatC _ | .slcRetire _ | .slcRecycle _ | .slcFault _ | .slcFaultClr _
  | .slcPage _ | .slcClose _ | .ckptBegin _ | .ckptSeal _ | .ckptDiff _ => true
  | _ => false

/-- What reaching the next bundle of a context comes to: the state with its bundle ready for its requests, a trap before
the bundle, a wait for a landing or a peer, or registers that must be fetched first. -/
inductive Begun where
  | bundle (s : State) (ps : List Placed)
  | trap (s : State) (t : TrapInfo)
  | frozen (s : State)
  | miss (s : State) (a : Absent)

/-- The address of the next bundle, After(E) resolved (R104). -/
def State.resolvePc (s : State) (n c : Nat) : Except Begun (State × DWord) :=
  match (s.ctx n c).pc with
  | .at a => .ok (s, a)
  | .after a =>
    match State.fetchWords n c 8 s a [] with
    | .wait s => .error (.frozen s)
    | .fail s f => .error (.trap s
        { slot := 0, resume := 8, noissue := true, tbun := a, cause := f.cause, taddr := f.taddr })
    | .words s ws =>
      if ws.getLast?.any wordStop then .ok (s, a + BitVec.ofNat 64 (4 * ws.length))
      else .error (.trap s
        { slot := 0, resume := 8, noissue := true, tbun := a, cause := causeIllegalBundle, taddr := a })

/-- The registers that the instructions of a bundle lack come before its trap (R267: step 4 before step 5). -/
def State.missOr (s : State) (n c : Nat) (is : List Instr) (b : Begun) : Begun :=
  let m := (s.ctx n c).missing is
  if m.none then b else .miss s m

/-- A context reaches its next bundle: absent registers (R275), then fetch, decode and checks (R32, R267), the freeze of a landing
(R109), and the writes that become visible (R39). A word that cannot be fetched or decoded names no register. -/
def State.begin (s : State) (n c : Nat) : Begun :=
  match s.resolvePc n c with
  | .error (.trap s t) => s.missOr n c [] (.trap s t)
  | .error b => b
  | .ok (s, a) =>
    let t (cause : BitVec 8) (taddr : DWord) : TrapInfo :=
      { slot := 0, resume := 0, noissue := true, tbun := a, cause := cause, taddr := taddr }
    if a.toNat % 4 ≠ 0 then s.missOr n c [] (.trap s (t causeMisalign a))
    else
      match State.fetchWords n c 8 s a [] with
      | .wait s => .frozen s
      | .fail s f => s.missOr n c [] (.trap s (t f.cause f.taddr))
      | .words s ws =>
        let x := s.ctx n c
        s.missOr n c (wordInstrs ws) <|
          match checkBundle x.task.hdr x.ctl ws with
          | .error (cause, i) => .trap s (t cause (if cause = causeIllegalBundle then a else a + BitVec.ofNat 64 (4 * i)))
          | .ok ps =>
            if x.frozen then .frozen s
            else
              let x := x.settle
              .bundle (s.setCtx n c { x with
                pc := .at a
                bundle := some { addr := a, size := ws.length, slots := ps, latch := x.latch (s.core n) } }) ps

end Sys2Proof.Machine
end

