-- ==== Sys2Proof/Machine/Tiles.lean ====
section
/-! DEFINITION. Rings and tiles (R182 to R190): stream registers, claims and frees, the rows of tile loads, stores, gathers
and scatters (R193 to R197), and the copy of a buffer phase (R86). -/

namespace Sys2Proof.Machine

/-! ### Formats of a ring -/

/-- A format with a scale ring (R182). -/
def scaledFmt (fmt : Nat) : Bool := [0, 1, 2, 8, 9].contains fmt

/-- The 6-bit formats. -/
def fp6 (fmt : Nat) : Bool := fmt = 1 || fmt = 2

/-- Memory bytes of a ring row (R134). -/
def rowBytes (fmt : Nat) : Nat := if fp6 fmt then 96 else 128

/-- Scale bytes of a ring row (R182). -/
def scaleBytes (fmt : Nat) (cmp : Bool) : Nat :=
  let n := if fmt = 0 then 32 else if scaledFmt fmt then 4 else 0
  if cmp then 2 * n else n

/-- The FP6 elements of 24 bytes, one to a byte (R144, R146). -/
def unpackBlock (bs : List Byte) : List Byte :=
  let v := leNat bs
  (List.range 32).map fun i => BitVec.ofNat 8 (v / 64 ^ i % 64)

def packBlock (bs : List Byte) : List Byte := natLe 24 (bs.foldr (fun b v => b.toNat % 64 + 64 * v) 0)

/-- A memory row of 96 bytes as a ring row, and a ring row as a memory row (R146). -/
def unpackRow (bs : List Byte) : List Byte := (List.range 4).flatMap fun k => unpackBlock ((bs.drop (24 * k)).take 24)
def packRow (bs : List Byte) : List Byte := (List.range 4).flatMap fun k => packBlock ((bs.drop (32 * k)).take 32)

/-! ### Stream registers -/

def tileSize : Nat := 16384

/-- The fields of FMTW (R183). -/
def Stream.fmt (x : Stream) : Nat := x.fmtw.toNat % 16
def Stream.cmp (x : Stream) : Bool := x.fmtw.getLsbD 4
def Stream.gtiles (x : Stream) : Nat := x.fmtw.toNat / 256 % 8 + 1
def Stream.gstride (x : Stream) : Nat := x.fmtw.toNat / 4096

def Stream.slots (x : Stream) : Nat := x.size.toNat / tileSize

/-- CLM (R184). -/
def Stream.clm (x : Stream) : Nat := x.claims.length

/-- An offset within the ring advanced by `n` slots. -/
def Stream.ahead (x : Stream) (off : BitVec 32) (n : Nat) : BitVec 32 :=
  if x.size = 0 then off else BitVec.ofNat 32 ((off.toNat + tileSize * n) % x.size.toNat)

/-- The last write of a stream that an earlier bundle has made and that has not yet taken effect (R185): its due bundle and the
state. That of the present bundle is due 8 bundles on. -/
def Ctx.pendingStream (x : Ctx) (st : Nat) : Option (Nat × Stream) :=
  x.pend.foldl (fun r w => match w.dest with
    | .st n y => if n = st ∧ w.due < x.count + 8 then some (w.due, y) else r
    | _ => r) none

/-- An operation uses the state of an `stset` that has not yet taken effect: a free choice of each operation (R186). -/
def Ctx.early (x : Ctx) (clock st : Nat) : Bool := (x.pendingStream st).isSome && Config.stsetEarly (16 * clock + st)

/-- The stream register as an operation uses it. -/
def Ctx.stream (x : Ctx) (clock st : Nat) : Stream :=
  match x.pendingStream st with
  | some y => if x.early clock st then y.2 else mget {} x.units.st st
  | none => mget {} x.units.st st

/-- The stream register as an operation leaves it. -/
def Ctx.setStream (x : Ctx) (clock st : Nat) (y : Stream) : Ctx :=
  if x.early clock st then
    { x with pend := x.pend.map fun w =>
        match w.dest with
        | .st n _ => if n = st ∧ (x.pendingStream st).any (fun p => p.1 = w.due) then { w with dest := .st n y } else w
        | _ => w }
  else { x with units := { x.units with st := mset {} x.units.st st y } }

/-- Every `stset` of a stream by an earlier bundle takes effect. -/
def Ctx.settleStream (x : Ctx) (st : Nat) : Ctx :=
  let now (w : PWrite) : Bool := match w.dest with | .st n _ => n = st && w.due < x.count + 8 | _ => false
  (x.pend.filter now).foldl (fun x w => x.apply w.dest) { x with pend := x.pend.filter fun w => !now w }

/-- The tile at an offset of a ring (R182). -/
def Stream.tileAt (x : Stream) (t : Task) (st : Nat) (off : BitVec 32) : Tile :=
  let slot := off.toNat / tileSize
  { stream := st, base := t.spBase + x.base.toNat + off.toNat
    scale := t.spBase + x.sbase.toNat + 128 * scaleBytes x.fmt x.cmp * slot, fmt := x.fmt, cmp := x.cmp }

/-- The ranges of the scratchpad that a tile occupies, its scale slot included. -/
def Tile.ranges (t : Tile) : List (Nat × Nat) :=
  (t.base, tileSize) :: (if scaledFmt t.fmt then [(t.scale, 128 * scaleBytes t.fmt t.cmp)] else [])

/-- What taking slots comes to (R190). -/
inductive Taken where
  | tiles (x : Stream) (ts : List Tile)
  | wait
  | short

/-- TakeTail (R190): the next `n` slots. -/
def Stream.takeTail (x : Stream) (t : Task) (st n : Nat) : Taken :=
  if x.cnt + n ≤ x.slots then
    .tiles { x with tail := x.ahead x.tail n, cnt := x.cnt + n }
      ((List.range n).map fun i => x.tileAt t st (x.ahead x.tail i))
  else if x.claims ≠ [] then .wait
  else .short

/-- The `n` oldest unclaimed tiles are claimed by operation `id`; `none` where there are fewer (R189). -/
def Stream.claim (x : Stream) (t : Task) (st id n : Nat) : Option (Stream × List Tile) :=
  if x.cnt < x.clm + n then none
  else
    some ({ x with claims := x.claims ++ List.replicate n (id, false) },
      (List.range n).map fun i => x.tileAt t st (x.ahead x.head (x.clm + i)))

/-- Tiles at the head whose claimers have retired are freed (R189). -/
def Stream.freeHead (x : Stream) : Stream :=
  let n := (x.claims.takeWhile fun c => c.2).length
  { x with claims := x.claims.drop n, head := x.ahead x.head n, cnt := x.cnt - n }

/-- A claimer has retired (R189). -/
def Stream.release (x : Stream) (id : Nat) : Stream :=
  Stream.freeHead { x with claims := x.claims.map fun c => if c.1 = id then (id, true) else c }

/-- A claimer of a context has retired: its tiles are freed in every stream. -/
def Ctx.release (x : Ctx) (id : Nat) : Ctx :=
  { x with
    units := { x.units with st := x.units.st.map fun e => (e.1, e.2.release id) }
    pend := x.pend.map fun w => match w.dest with | .st n y => { w with dest := .st n (y.release id) } | _ => w }

/-! ### Rows -/

/-- A row of a tile in memory: where it lies in the scratchpad, its address, its bytes in memory, and whether it is
packed. -/
structure RowRef where
  spad : Nat
  va : DWord
  len : Nat
  packed : Bool
  deriving DecidableEq, Repr

/-- The rows of a tile and its scale rows, from the addresses of row `i` (R193). -/
def Tile.rows (t : Tile) (which : List Nat) (elem scale : Nat → DWord) : List RowRef :=
  which.map (fun i => ⟨t.base + 128 * i, elem i, rowBytes t.fmt, fp6 t.fmt⟩) ++
    (if scaledFmt t.fmt then
      which.map fun i => ⟨t.scale + scaleBytes t.fmt t.cmp * i, scale i, scaleBytes t.fmt t.cmp, false⟩
    else [])

/-- A range cut at the 64 KiB boundaries. -/
def pageRuns : Nat → DWord → Nat → List (DWord × Nat)
  | 0, _, _ => []
  | fuel + 1, a, len =>
    if len = 0 then [] else
      let k := min len (65536 - a.toNat % 65536)
      (a, k) :: pageRuns fuel (a + BitVec.ofNat 64 k) (len - k)

/-- The lower of two failures. -/
def lowerFailure (f : Option Failure) (g : Failure) : Option Failure :=
  match f with
  | none => some g
  | some f => if g.taddr.toNat < f.taddr.toNat then some g else some f

/-- The physical runs of some runs of addresses in local memory, after those found so far, with the failure of the lowest address
(R193): the scratchpad and peers are refused. -/
def State.runsFrom (n : Nat) (x : Ctx) (kind : AccessKind) :
    State → Option Failure → List (Nat × Nat) → List (DWord × Nat) → State × Option Failure × List (Nat × Nat)
  | s, f, ps, [] => (s, f, ps)
  | s, f, ps, run :: rest =>
    match s.runAt n x kind run.1.toNat run.2 with
    | .ok (t, .mem pa) => State.runsFrom n x kind t f (ps ++ [(pa, run.2)]) rest
    | .ok (t, _) => State.runsFrom n x kind t (lowerFailure f ⟨causeProtect, run.1, t⟩) ps rest
    | .error g => State.runsFrom n x kind g.s (lowerFailure f g) ps rest

/-- The same for rows, row by row. -/
def State.rowsFrom (n : Nat) (x : Ctx) (kind : AccessKind) :
    State → Option Failure → List (List (Nat × Nat)) → List (DWord × Nat) → State × Option Failure × List (List (Nat × Nat))
  | s, f, out, [] => (s, f, out)
  | s, f, out, row :: rest =>
    match State.runsFrom n x kind s f [] (pageRuns (row.2 / 65536 + 2) row.1 row.2) with
    | (t, g, ps) => State.rowsFrom n x kind t g (out ++ [ps]) rest

/-- The physical runs of rows in local memory, or the failure of the lowest address (R193). -/
def State.rowRuns (s : State) (n : Nat) (x : Ctx) (kind : AccessKind) (rows : List (DWord × Nat)) :
    Except Failure (State × List (List (Nat × Nat))) :=
  match State.rowsFrom n x kind s none [] rows with
  | (t, some f, _) => .error { f with s := t }
  | (t, none, out) => .ok (t, out)

/-- The lowest byte of some ranges of the scratchpad that lies in a window of the allocation (R335). -/
def Core.windowByte (k : Core) (x : Ctx) (rs : List (Nat × Nat)) : Option Nat :=
  k.tasks.foldl (fun m y =>
    if y.task.spBase = x.task.spBase then
      y.windows.foldl (fun m w => rs.foldl (fun (m : Option Nat) r =>
        let lo := max r.1 (x.task.spBase + 65536 * w.2.spg)
        if lo < r.1 + r.2 ∧ lo < x.task.spBase + 65536 * (w.2.spg + w.2.npg) then some (min lo (m.getD lo)) else m) m) m
    else m) none

/-- The scratchpad footprint of an asynchronous operation is refused: it touches a window (R335) or a foreign tile (R260). The
result is the address of the aperture that TADDR takes. -/
def Core.foreignRange (k : Core) (x : Ctx) (rs : List (Nat × Nat)) : Option DWord :=
  let at_ (a : Nat) : DWord := BitVec.ofNat 64 (apertureBase + (a - x.task.spBase))
  match k.windowByte x rs with
  | some a => some (at_ a)
  | none => (rs.find? fun r => !k.tilesFree x [(.spad r.1, r.2)]).map fun r => at_ r.1

/-- An asynchronous operation with these ranges must wait (R191). -/
def Core.rangesBusy (k : Core) (reads writes : List (Nat × Nat)) : Bool :=
  reads.any (fun r => k.spadBusy r.1 r.2 false) || writes.any fun r => k.spadBusy r.1 r.2 true

/-- The first misaligned address of a tile access (R193): the listed element addresses, then the scale addresses. -/
def misalignedRow (elems scales : List DWord) : Option DWord :=
  match elems.find? fun a => a.toNat % 32 ≠ 0 with
  | some a => some a
  | none => scales.find? fun a => a.toNat % 4 ≠ 0

/-- Cuts a list into runs of the given lengths. -/
def cutBy {α : Type} : List Nat → List α → List (List α)
  | [], _ => []
  | k :: ks, xs => xs.take k :: cutBy ks (xs.drop k)

/-- The rows of memory are read by a core, in its place in the order (R193): the bytes of each row. -/
def State.readRows (s : State) (n : Nat) (runs : List (List (Nat × Nat))) : State × List (List Byte) :=
  let (s, data) := (s.placeAll n).loadRuns n false runs.flatten
  (s, (cutBy (runs.map List.length) data).map List.flatten)

/-- Pieces written to the scratchpad of a core, one after another; a block that they cover whole takes a new check value (R353). -/
def State.writeSpad (s : State) (n : Nat) (ps : List (Nat × List Byte)) : State :=
  s.modCore n fun k => Core.unmark { k with spad := ps.foldl (fun m p => writeBytes m p.1 p.2) k.spad } ps

/-- The rows of a tile load or gather are copied, those of `zeros` zeroed, and the operation is counted until it completes (R192, R193). -/
def State.startLoad (s : State) (n c st : Nat) (rows : List RowRef) (runs : List (List (Nat × Nat)))
    (ranges zeros : List (Nat × Nat)) : State :=
  let (id, s) := s.takeId
  let (s, data) := s.readRows n runs
  let s := s.writeSpad n (zeros.map (fun r => (r.1, List.replicate r.2 0))
    ++ (rows.zip data).map fun r => (r.1.spad, if r.1.packed then unpackRow r.2 else r.2))
  let bad := (List.range runs.length).filter fun i => (runs.getD i []).any fun r => s.mem.isBad r.1 r.2
  let s := s.modCtx n c fun x => { x with cnt := { x.cnt with as := x.cnt.as + 1 } }
  s.modCore n fun k => { k with async := k.async ++
    [{ id := id, uid := (s.ctx n c).task.uid, ctx := c, writes := ranges, stream := some st, load := true, bad := bad
       rows := rows.map fun r => (r.spad, r.va, if r.packed then 128 else r.len) }] }

/-- The memory writes of a tile store or scatter, in ascending row (R194, R196). -/
def State.rowWrites (s : State) (n : Nat) (rows : List RowRef) (runs : List (List (Nat × Nat))) : List (Nat × List Byte) :=
  (rows.zip runs).flatMap fun r =>
    let bs := readBytes (s.core n).spad r.1.spad (if r.1.packed then 128 else r.1.len)
    let bs := if r.1.packed then packRow bs else bs
    (cutBy (r.2.map (·.2)) bs).zip (r.2.map (·.1)) |>.map fun (d, pa) => (pa, d)

/-- The lowest address of the rows of a tile store whose bytes in the scratchpad lie in a marked block (R353). -/
def State.storeBad (s : State) (n : Nat) (rows : List RowRef) : Option DWord :=
  if (s.core n).spadBad = [] then none
  else
    ((rows.filter fun r => (s.core n).marked r.spad (if r.packed then 128 else r.len)).map (·.va)).foldl
      (fun m a => some (lowerAddr m a)) none

/-- A tile store of operation `id` (R194): it takes its place in the order now, or is held in a buffer phase. -/
def State.startStore (s : State) (n c id : Nat) (ws : List (Nat × List Byte)) (ranges : List (Nat × Nat)) : State :=
  if (s.ctx n c).task.record.prot then
    s.modCtx n c fun x => { x with buf := { x.buf with held := x.buf.held ++ [{ id := id, writes := ws }] } }
  else
    let s := (s.placeAll n).asyncWrites n ws
    let s := s.modCtx n c fun x => { x with cnt := { x.cnt with as := x.cnt.as + 1 } }
    s.modCore n fun k => { k with async := k.async ++
      [{ id := id, uid := (s.ctx n c).task.uid, ctx := c, reads := ranges }] }

/-! ### The copy of a buffer phase -/

/-- The runs of a copy's source (R86): the peer's node, none for local memory, the address there and the length; or the failure of
the lowest byte. -/
def State.copyRuns (s : State) (n : Nat) (x : Ctx) (a : DWord) (len : Nat) :
    Except Failure (State × List (Option Nat × Nat × Nat)) :=
  let r := (pageRuns (len / 65536 + 2) a len).foldl (fun (q : State × Option Failure × List (Option Nat × Nat × Nat)) run =>
    match q.1.runAt n x .load run.1.toNat run.2 with
    | .ok (s, .mem pa) => (s, q.2.1, q.2.2 ++ [(none, pa, run.2)])
    | .ok (s, .peer node off) => (s, q.2.1, q.2.2 ++ [(some node, off, run.2)])
    | .ok (s, _) => (s, lowerFailure q.2.1 ⟨causeProtect, run.1, s⟩, q.2.2)
    | .error f => (f.s, lowerFailure q.2.1 f, q.2.2)) (s, none, [])
  match r.2.1 with
  | some f => .error { f with s := r.1 }
  | none => .ok (r.1, r.2.2)

/-- Some bytes of a copy's source at a peer have an earlier access of the task that is not answered (R121). -/
def State.copyBusy (s : State) (uid : Nat) (runs : List (Option Nat × Nat × Nat)) : Bool :=
  runs.any fun r => match r.1 with | some node => s.peerBusy uid node r.2.1 r.2.2 | none => false

/-- The copy starts (R86). Local bytes are read now, in the order; those of peers are requested. A source on a chip that does
not answer raises REMOTE_FAIL before the next bundle. -/
def State.startCopy (s : State) (n c : Nat) (src : DWord) (dst len : Nat)
    (runs : List (Option Nat × Nat × Nat)) : State :=
  if len = 0 then s
  else
    let (id, s) := s.takeId
    let s := s.placeAll n
    let uid := (s.ctx n c).task.uid
    let (s, _, bad) := runs.foldl (fun (r : State × Nat × List Nat) (peer, a, m) =>
      let (s, pos, bad) := r
      let va := src + BitVec.ofNat 64 pos
      match peer with
      | none =>
        let (s, d) := s.loadRuns n false [(a, m)]
        let marked := (List.range (m / 256 + 1)).filter fun i => 256 * i < m && s.mem.isBad (a + 256 * i) (min 256 (m - 256 * i))
        (s.writeSpad n [(dst + pos, d.flatten)], pos + m, bad ++ marked.map (· + pos / 256))
      | some node =>
        if s.nodeUp node then
          (s.sendRemote
            { core := n, ctx := c, uid := uid, node := node, addr := va, len := m, landing := none, counts := false
              copy := some (id, dst + pos), spans := [(a, m)], issued := s.gtime.toNat } fun i => .load i node a m, pos + m, bad)
        else
          (s.modCtx n c fun x => { x with deferred := x.deferred ++ [{ id := id, cause := causeRemoteFail, taddr := va }] },
            pos + m, bad)) (s, 0, [])
    let s := s.modCtx n c fun x => { x with cnt := { x.cnt with as := x.cnt.as + 1 } }
    s.modCore n fun k => { k with async := k.async ++
      [{ id := id, uid := uid, ctx := c, writes := [(dst, len)], copy := true, bad := bad
         rows := (List.range (len / 256)).map fun i => (dst + 256 * i, src + BitVec.ofNat 64 (256 * i), 256) }] }

/-- An input buffer descriptor (R86): SRC, DST and LEN. -/
structure InputDesc where
  src : DWord
  dst : Nat
  len : Nat
  deriving DecidableEq, Repr

/-- The fields of a descriptor, `none` where check 3 of R86 fails. -/
def inputDesc (bs : List Byte) (size : Nat) : Option InputDesc :=
  let d : InputDesc := ⟨BitVec.ofNat 64 (fieldAt bs 0 8), fieldAt bs 8 4, fieldAt bs 12 4⟩
  if d.dst % 256 ≠ 0 ∨ d.len % 256 ≠ 0 ∨ size < d.dst + d.len ∨ fieldAt bs 16 16 ≠ 0 then none else some d

end Sys2Proof.Machine
end

