-- ==== Sys2Proof/Machine/Rows.lean ====
section
/-! DEFINITION. Candidate rows (R282, R288, R299): normalisers, ranks, labels, races, the merge of images (R290), and what a
pass latches: masked tokens and uniforms (R286, R296, R297). -/

namespace Sys2Proof.Machine

/-! ### Arithmetic on f32 codes -/

def fAdd (x y : Word) : Word := toF32 ((f32 x).add false (f32 y)).1
def fSub (x y : Word) : Word := toF32 ((f32 x).sub (f32 y))
def fMul (x y : Word) : Word := toF32 ((f32 x).mul (f32 y)).1

/-- A quotient; with a zero divisor it is +∞ (R288). -/
def fQuot (x y : Word) : Word := if (f32 y).isZero then f32Inf else toF32 ((f32 x).div (f32 y))

def fLt (x y : Word) : Bool := (f32 x).lt (f32 y)
def fEq (x y : Word) : Bool := (f32 x).eq (f32 y)
def isNan (x : Word) : Bool := (f32 x).isNan

/-- L2E (R288). -/
def l2e : Word := 0x3FB8AA3B

/-- A base-2 logit from a natural one, a NaN made −∞, with the count of NVCNT (R288, R299). -/
def baseTwo (scale : Bool) (x : Word) : Word × Nat :=
  let y := if scale then fMul x l2e else x
  if isNan y then (f32NegInf, 1) else (y, 0)

/-- A token id that stands for none. -/
def noToken : Word := 0xFFFFFFFF

/-! ### Folding a token into a row -/

/-- Norm of R288. -/
def norm (m s x : Word) : Word × Word :=
  if x = f32NegInf then (m, s)
  else if fLt m x then (x, fAdd (fMul s (exp2F (fSub m x))) 0x3F800000)
  else (m, fAdd s (exp2F (fSub x m)))

/-- The rank of R288: value descending, then token id ascending. -/
def ranksBefore (x y : Word × Word) : Bool := fLt y.1 x.1 || (fEq x.1 y.1 && x.2.toNat < y.2.toNat)

/-- An entry put in its rank. -/
def rankInsert (x : Word × Word) : List (Word × Word) → List (Word × Word)
  | [] => [x]
  | y :: ys => if ranksBefore x y then x :: y :: ys else y :: rankInsert x ys

/-- An entry inserted into ENT, of which the first 64 are kept. -/
def entInsert (ent : List (Word × Word)) (x : Word × Word) : List (Word × Word) := (rankInsert x ent).take 64

/-- The labels of a row that a token captures. -/
def Row.labelsOf (r : Row) (id : Word) : List Nat := (List.range 8).filter fun l => r.ltok.getD l noToken = id

/-- The statistics branch (R288, R299): normalisers, labels and ENT. `lu` is log2 of the token's uniform, `xd` the draft
logit where there is one. -/
def Row.statistics (r : Row) (xt : Word) (xd : Option Word) (id : Word) (lu : Unit → Word) : Row :=
  let (m, s) := norm r.mt r.st xt
  let (md, sd) := match xd with | some x => norm r.mdr r.sdr x | none => (r.mdr, r.sdr)
  let r := { r with mt := m, st := s, mdr := md, sdr := sd, ent := entInsert r.ent (xt, id) }
  (r.labelsOf id).foldl (fun (r : Row) l =>
    { r with
      lt := r.lt.set l xt, ld := (match xd with | some x => r.ld.set l x | none => r.ld)
      lu := r.lu.set l (lu ()), lcap := setBit r.lcap l true }) r

/-- The weight of a logit (R288). -/
def weight (x m s : Word) : Word := fQuot (exp2F (fSub x m)) s

/-- −log2 u over a positive weight (R288). -/
def raceKey (lu w : Word) : Word := toF32 ((f32 lu).negate.div (f32 w))

/-- A token takes part in the race of a row with weight `w` (R288). -/
def Row.race (r : Row) (w id : Word) (lu : Unit → Word) : Row :=
  if !fLt 0 w then r
  else
    let k := raceKey (lu ()) w
    if fLt k r.key ∨ (fEq k r.key ∧ id.toNat < r.rtok.toNat) then { r with key := k, rtok := id } else r

/-- The weight of a pair's race (R288). -/
def Row.pairWeight (r : Row) (xt xd : Word) : Word :=
  let pt := weight xt r.mt r.st
  if r.rmode = 1 then pt
  else let d := fSub pt (weight xd r.mdr r.sdr); if fLt 0 d then d else 0

/-! ### Images and their merge (R282, R290) -/

/-- The image of a row (R282). -/
def Row.image (r : Row) : List Byte :=
  let ws (l : List Word) : List Byte := l.flatMap fun w => wordLe 4 w
  (List.range 64).flatMap (fun i => match r.ent[i]? with | some (v, t) => wordLe 4 v ++ wordLe 4 t | none => natLe 8 0)
    ++ ws [BitVec.ofNat 32 r.ent.length, r.rmode, r.mt, r.st, r.mdr, r.sdr, r.key, r.rtok]
    ++ ws r.ltok ++ ws r.lt ++ ws r.ld ++ ws r.lu ++ wordLe 4 r.lcap ++ natLe 348 0

/-- The row of an image. -/
def rowOfImage (bs : List Byte) : Row :=
  let w (off : Nat) : Word := BitVec.ofNat 32 (fieldAt bs off 4)
  let eight (off : Nat) : List Word := (List.range 8).map fun l => w (off + 4 * l)
  { ent := (List.range (min 64 (w 512).toNat)).map fun i => (w (8 * i), w (8 * i + 4))
    rmode := w 516, mt := w 520, st := w 524, mdr := w 528, sdr := w 532, key := w 536, rtok := w 540
    ltok := eight 544, lt := eight 576, ld := eight 608, lu := eight 640, lcap := BitVec.ofNat 8 (fieldAt bs 672 1) }

/-- NormMerge of R290. -/
def normMerge (ma sa mb sb : Word) : Word × Word :=
  let m := if fLt ma mb then mb else ma
  if m = f32NegInf then (f32NegInf, 0)
  else (m, fAdd (fMul sa (exp2F (fSub ma m))) (fMul sb (exp2F (fSub mb m))))

/-- Combine of R290; `a` has the lower shard index. -/
def Row.combine (a b : Row) : Row :=
  let (mt, st) := normMerge a.mt a.st b.mt b.st
  let (md, sd) := normMerge a.mdr a.sdr b.mdr b.sdr
  let pick (g : Row → List Word) : List Word :=
    (List.range 8).map fun l => if a.lcap.getLsbD l then (g a).getD l 0 else (g b).getD l 0
  let first := fLt a.key b.key || (fEq a.key b.key && a.rtok.toNat ≤ b.rtok.toNat)
  { a with
    mt := mt, st := st, mdr := md, sdr := sd, ent := (a.ent ++ b.ent).foldl entInsert []
    lt := pick (·.lt), ld := pick (·.ld), lu := pick (·.lu), lcap := a.lcap ||| b.lcap
    key := if first then a.key else b.key, rtok := if first then a.rtok else b.rtok }

/-- One level of the tree: neighbours combined, an unpaired last one carried up. -/
def combineLevel : List Row → List Row
  | a :: b :: rs => a.combine b :: combineLevel rs
  | rs => rs

/-- The merge of at most 2^fuel images (R290). -/
def combineTree : Nat → List Row → Row
  | 0, rs => rs.headD {}
  | fuel + 1, rs => combineTree fuel (combineLevel rs)

/-! ### Masks and uniforms -/

/-- Token `t` of row `j` of a pass is masked. -/
def PassLatch.isMasked (p : PassLatch) (j t : Nat) : Bool := (mget 0 p.masked j).getLsbD t

/-- The word of R286 for candidate row `r` and token `id`, row `j` and token `t` of the pass (R309). -/
def PassLatch.word (p : PassLatch) (j t r : Nat) (id : Word) : Word :=
  match p.replay with
  | some m => mget 0 m (128 * j + t)
  | none =>
    let q := p.rngpos + BitVec.ofNat 64 r
    (gen p.rngkey id (q.extractLsb' 0 32) (q.extractLsb' 32 32) 0).1

/-- Log2F of the uniform of a word (R286). -/
def logUniform (w : Word) : Word := BitVec.ofNat 32 (log2Of fmtF32 (.fin false (2 * (w.toNat / 256) + 1) 1 (-25))).1

/-- A block of rows and tokens: the first row and token, and their numbers. -/
structure Block where
  r0 : Nat
  v0 : Nat
  rows : Nat
  toks : Nat
  deriving DecidableEq, Repr

def Cand.row (c : Cand) (r : Nat) : Row := mget {} c.rows r

def Cand.setRow (c : Cand) (r : Nat) (x : Row) : Cand := { c with rows := mset {} c.rows r x }

/-- The id of a token of a block. -/
def Block.id (k : Block) (t : Nat) : Word := BitVec.ofNat 32 (k.v0 + t)

/-- A statistics pass of values over a block (R299, R300): the rows, and the count of NVCNT. `x` is the base-2 value of
row j and token t, `xd` that of the draft. -/
def Cand.statPass (c : Cand) (k : Block) (p : PassLatch) (x : Nat → Nat → Word × Nat) (xd : Nat → Nat → Option (Word × Nat)) :
    Cand × Nat :=
  (List.range k.rows).foldl (fun (acc : Cand × Nat) j =>
    let r := k.r0 + j
    let (row, nv) := (List.range k.toks).foldl (fun (a : Row × Nat) t =>
      let (v, n) := x j t
      let d := xd j t
      let nv := a.2 + n + (match d with | some (_, m) => m | none => 0)
      if p.isMasked j t then (a.1, nv)
      else (a.1.statistics v (d.map (·.1)) (k.id t) (fun _ => logUniform (p.word j t r (k.id t))), nv))
      (acc.1.row r, acc.2)
    (acc.1.setRow r row, nv)) (c, 0)

/-- A race pass over a block (R288, R299). -/
def Cand.racePass (c : Cand) (k : Block) (p : PassLatch) (x : Nat → Nat → Word × Nat) (xd : Nat → Nat → Option (Word × Nat)) :
    Cand × Nat :=
  (List.range k.rows).foldl (fun (acc : Cand × Nat) j =>
    let r := k.r0 + j
    let (row, nv) := (List.range k.toks).foldl (fun (a : Row × Nat) t =>
      let (v, n) := x j t
      let d := xd j t
      let nv := a.2 + n + (match d with | some (_, m) => m | none => 0)
      let lu := fun (_ : Unit) => logUniform (p.word j t r (k.id t))
      if p.isMasked j t then (a.1, nv)
      else
        match d with
        | some (d, _) => (if a.1.rmode = 0 then a.1 else a.1.race (a.1.pairWeight v d) (k.id t) lu, nv)
        | none => (if a.1.rmode = 1 then a.1.race (weight v a.1.mt a.1.st) (k.id t) lu else a.1, nv))
      (acc.1.row r, acc.2)
    (acc.1.setRow r row, nv)) (c, 0)

/-! ### The reads of an instruction that uses the mask or replay (R297) -/

/-- What reading several ranges comes to. -/
inductive RangesRes where
  | data (s : State) (bs : List (List Byte))
  | trap (s : State) (cause : BitVec 8) (taddr : DWord)
  | wait (s : State)

/-- The lowest failure of some ranges: translation, permission, a block that is gone, or an address of the scratchpad (R289, R290,
R297, R354). -/
def State.rangesFail (s : State) (e : Env) (kind : AccessKind) (rs : List (DWord × Nat)) : State × Option Failure :=
  rs.foldl (fun (q : State × Option Failure) r =>
    (pageRuns (r.2 / 65536 + 2) r.1 r.2).foldl (fun (q : State × Option Failure) run =>
      match q.1.runAt e.n e.px kind run.1.toNat run.2 with
      | .ok (s, .spad _) | .ok (s, .stash _ _ _) => (s, lowerFailure q.2 ⟨causeProtect, run.1, s⟩)
      | .ok (s, _) => (s, q.2)
      | .error f => (f.s, lowerFailure q.2 f)) q) (s, none)

/-- The ranges are read as loads that block the bundle (R297, R360). -/
def State.readEach (e : Env) : State → List (DWord × Nat) → RangesRes
  | s, [] => .data s []
  | s, r :: rs =>
    match s.readBlocking e r.1 r.2 with
    | .trap s cause taddr => .trap s cause taddr
    | .wait s => .wait s
    | .data s bs =>
      match State.readEach e s rs with
      | .data s bss => .data s (bs :: bss)
      | x => x

/-- Ranges checked whole, and then read. -/
def State.readRanges (s : State) (e : Env) (rs : List (DWord × Nat)) : RangesRes :=
  match s.rangesFail e .load rs with
  | (s, some f) => .trap s f.cause f.taddr
  | (s, none) => State.readEach e s rs

/-- The address of the replay word of a row and token (R286). -/
def replayAddr (src : DWord) (r : Nat) (id : Word) : DWord :=
  let n := 2 ^ (src.toNat / 2 % 32)
  (src &&& ~~~0xFFF#64) + BitVec.ofNat 64 (4 * (n * r + id.toNat % n))

/-- What latching a pass comes to. -/
inductive Latched where
  | pass (s : State) (p : PassLatch)
  | trap (s : State) (cause : BitVec 8) (taddr : DWord)
  | wait (s : State)

/-- The mask and the uniforms of rows and tokens: a block's with `toks` the tokens of each row (R286, R296, R297). `extra` is
checked as well and not read (R287). -/
def State.latchPass (s : State) (e : Env) (k : Block) (uniforms : Bool) (extra : List (DWord × Nat)) : Latched :=
  let ctl := e.b.latch.ctl
  let rows := List.range k.rows
  let maskAt (m : DWord × BitVec 32) (r : Nat) : DWord × Nat :=
    (m.1 + BitVec.ofNat 64 (m.2.toNat * r + k.v0 / 8), (k.v0 + k.toks - 1) / 8 - k.v0 / 8 + 1)
  let masks := match e.x.units.cand.mask with
    | some m => rows.map fun j => maskAt m (k.r0 + j)
    | none => []
  let replay := uniforms && ctl.rngsrc.getLsbD 0
  let words := if replay then
      rows.flatMap fun j => (List.range k.toks).map fun t => (replayAddr ctl.rngsrc (k.r0 + j) (k.id t), 4)
    else []
  match s.rangesFail e .load (masks ++ words ++ (if replay then extra else [])) with
  | (s, some f) => .trap s f.cause f.taddr
  | (s, none) =>
    match State.readEach e s (masks ++ words) with
    | .trap s cause taddr => .trap s cause taddr
    | .wait s => .wait s
    | .data s bss =>
      let permitted (j t : Nat) : Bool := ((bss.getD j []).getD ((k.v0 + t) / 8 - k.v0 / 8) 0).getLsbD ((k.v0 + t) % 8)
      let masked : SMap (BitVec 128) := if masks = [] then [] else
        mtab 0 k.rows fun j => bitsOf 128 fun t => decide (t < k.toks) && !permitted j t
      let got := bss.drop masks.length
      .pass s { masked := masked, rngkey := ctl.rngkey, rngpos := ctl.rngpos
                replay := if replay then
                    some (got.zipIdx.map fun (b, i) => (128 * (i / k.toks) + i % k.toks, leWord 32 b))
                  else none }

end Sys2Proof.Machine
end

