-- ==== Sys2Proof/Machine/Candidates.lean ====
section
/-! DEFINITION. The candidate instructions (R282 to R292, R296, R300 to R305). -/

namespace Sys2Proof.Machine

/-- The candidate file of a context changed. -/
def Ctx.modCand (x : Ctx) (g : Cand → Cand) : Ctx := { x with units := { x.units with cand := g x.units.cand } }

/-- XCNT counts are added; those of a buffer phase are held (R209). -/
def Ctx.countX (x : Ctx) (o v : Nat) : Ctx :=
  if x.task.record.prot then { x with buf := { x.buf with xof := x.buf.xof + o, xnv := x.buf.xnv + v } }
  else { x with ctl := { x.ctl with xcnt := addXcnt x.ctl.xcnt o v } }

/-- A slot that changes candidate rows, where its operands are legal. -/
def runCand (s : State) (ok : Env → Bool) (g : Env → Cand → Cand) : Host.Outcome State Fault Refusal :=
  runSlot s fun e s =>
    if ok e then .done (s.setCtx e.n e.c (e.x.modCand (g e))) else .trap causeIllegalOperand none

/-! ### Clearing, labels, normalisers and races to come -/

/-- Every row reset, its labels kept (R284). -/
def Cand.cleared (c : Cand) : Cand :=
  { c with rows := c.rows.foldl (fun m e => mset {} m e.1 { ltok := (c.row e.1).ltok }) [] }

def execCfClear (s : State) : Host.Outcome State Fault Refusal := runCand s (fun _ => true) fun _ c => c.cleared

def execCfClearAll (s : State) : Host.Outcome State Fault Refusal :=
  runLocal s fun e => (e.x.modCand fun c => { c with rows := [] }).push 1 (.grammar none)

/-- A label of a row set to a token, and reset (R285). -/
def Row.setLabel (r : Row) (l : Nat) (t : Word) : Row :=
  { r with ltok := r.ltok.set l t, lt := r.lt.set l f32NegInf, ld := r.ld.set l f32NegInf, lu := r.lu.set l 0
           lcap := setBit r.lcap l false }

def execCfLabel (f : Fields) (s : State) : Host.Outcome State Fault Refusal :=
  runCand s
    (fun e => (e.sA f).toNat < 2048 && !(e.sA f).getLsbD 7 && (e.sB f).toNat < 2 ^ 32)
    fun e c =>
      let r := (e.sA f).toNat % 128
      c.setRow r ((c.row r).setLabel ((e.sA f).toNat / 256) ((e.sB f).setWidth 32))

/-- A normaliser that `cf.norm` takes (R302). -/
def normOk (v : DWord) : Bool :=
  let m : Word := v.extractLsb' 0 32
  let s : Word := v.extractLsb' 32 32
  (m = f32NegInf && s = 0) || ((f32 m).isFinite && (f32 s).isFinite && !fLt s 0x3F800000)

/-- `cf.norm` and `cf.norm.d` (R302). -/
def runNorm (s : State) (f : Fields) (g : Row → Word → Word → Row) : Host.Outcome State Fault Refusal :=
  runCand s (fun e => (e.sA f).toNat < 128 && normOk (e.sB f)) fun e c =>
    let r := (e.sA f).toNat
    c.setRow r (g (c.row r) ((e.sB f).extractLsb' 0 32) ((e.sB f).extractLsb' 32 32))

def execCfNorm (f : Fields) (s : State) : Host.Outcome State Fault Refusal :=
  runNorm s f fun r m t => { r with mt := m, st := t }

def execCfNormD (f : Fields) (s : State) : Host.Outcome State Fault Refusal :=
  runNorm s f fun r m t => { r with mdr := m, sdr := t }

def execCfRace (f : Fields) (s : State) : Host.Outcome State Fault Refusal :=
  runCand s (fun e => (e.sA f).toNat < 128 && (e.sB f).toNat ≤ 2) fun e c =>
    let r := (e.sA f).toNat
    c.setRow r { c.row r with rmode := (e.sB f).setWidth 32, key := f32Inf, rtok := noToken }

/-! ### Grammar mask and candidate path -/

def execCfMask (f : Fields) (s : State) : Host.Outcome State Fault Refusal :=
  runSlot s fun e s =>
    let a := e.sA f
    let b := e.sB f
    if a.toNat % 8 ≠ 0 ∨ 2 ^ 32 ≤ b.toNat ∨ b.toNat % 8 ≠ 0 then .trap causeIllegalOperand none
    else .done (s.setCtx e.n e.c (e.x.push 1 (.grammar (some (a, b.setWidth 32)))))

def execCfMaskOff (s : State) : Host.Outcome State Fault Refusal := runLocal s fun e => e.x.push 1 (.grammar none)

/-- The block that a control word names, and whether its values are base-2 logits; none where the word breaks the limits
(R300). -/
def controlBlock (w : DWord) (maxRow maxTok : Nat) : Option (Block × Bool) :=
  let n := w.toNat
  let k : Block := { r0 := field n 54 48, v0 := field n 31 0, rows := field n 38 32 + 1, toks := field n 46 40 + 1 }
  if field n 63 56 ≠ 0 ∨ n.testBit 47 ∨ n.testBit 39 ∨ maxRow < k.rows ∨ maxTok < k.toks ∨ 128 < k.r0 + k.rows
      ∨ 2 ^ 32 < k.v0 + k.toks then none
  else some (k, n.testBit 55)

/-- The lanes of a block that are inactive count as masked (R300). -/
def PassLatch.alsoMasked (p : PassLatch) (rows : Nat) (g : Nat → Nat → Bool) : PassLatch :=
  { p with masked := mtab 0 rows fun j => mget 0 p.masked j ||| bitsOf 128 (g j) }

def execCfMerge (f : Fields) (s : State) : Host.Outcome State Fault Refusal :=
  runSlot s fun e s =>
    match controlBlock (e.sB f) 16 64 with
    | none => .trap causeIllegalOperand none
    | some (k, b2) =>
      match s.latchPass e k true [] with
      | .trap s cause taddr => .trapSet s cause taddr
      | .wait s => .block .read s
      | .pass s p =>
        let v := e.vecA f
        let p := p.alsoMasked k.rows fun j t => decide (t < 64) && !e.b.latch.active.getLsbD (64 * j + t)
        let (c, nv) := e.x.units.cand.statPass k p (fun j t => baseTwo (!b2) (lane v (64 * j + t))) fun _ _ => none
        .done (s.modCtx e.n e.c fun x => (x.modCand fun _ => c).countX 0 nv)

def execCfMergeP (f : Fields) (s : State) : Host.Outcome State Fault Refusal :=
  runSlot s fun e s =>
    match controlBlock (e.sB f) 128 128 with
    | none => .trap causeIllegalOperand none
    | some _ => .done (s.setCtx e.n e.c (e.x.push 1 (.path (e.sB f))))

/-! ### Reading rows -/

/-- A log-normaliser (R291). -/
def logNorm (m s : Word) : Word := if m = f32NegInf then f32NegInf else fAdd m (log2F s)

/-- A lane of `cf.read` for one row (R291). -/
def Row.readLane (r : Row) (k c : Nat) : Word :=
  match k with
  | 0 => (r.ent[c]?.map (·.1)).getD 0
  | 1 => (r.ent[c]?.map (·.2)).getD noToken
  | _ =>
    if c < 8 then r.lt.getD c 0
    else if c = 8 then r.mt
    else if c = 9 then r.st
    else if c = 10 then logNorm r.mt r.st
    else if 16 ≤ c ∧ c < 24 then r.lu.getD (c - 16) 0
    else if c = 24 then r.key
    else if c = 25 then r.rtok
    else if c = 26 then BitVec.ofNat 32 r.ent.length
    else if 32 ≤ c ∧ c < 40 then r.ld.getD (c - 32) 0
    else if c = 40 then r.mdr
    else if c = 41 then r.sdr
    else if c = 42 then logNorm r.mdr r.sdr
    else 0

def execCfRead (f : Fields) (s : State) : Host.Outcome State Fault Refusal :=
  runSlot s fun e s =>
    let r0 := (e.sA f).toNat
    if 128 ≤ r0 then .trap causeIllegalOperand none
    else
      let c := e.x.units.cand
      let v := mtab (0 : Word) 1024 fun i =>
        let r := r0 + i / 64
        if 128 ≤ r then 0 else (c.row r).readLane f.b.toNat (i % 64)
      .done (s.writeVec e f.d.toNat 12 allOnes v)

/-! ### Filtering and sampling -/

/-- The weights of the kept entries (R303): a NaN counts as +0. -/
def Row.keptWeights (r : Row) (n : Nat) : List Word :=
  (r.ent.take n).map fun x =>
    let q := if x.1 = f32NegInf then 0 else weight x.1 r.mt r.st
    if isNan q then 0 else q

/-- The length of the shortest prefix whose mass reaches p (R303). -/
def massCut (p : Word) : List Word → Word → Nat → Option Nat
  | [], _, _ => none
  | q :: qs, cum, n =>
    let cum := fAdd cum q
    if !fLt cum p ∧ !isNan cum then some (n + 1) else massCut p qs cum (n + 1)

/-- What the cuts of `cf.topp` come to: the number of entries kept, or a spill with the bits of its TADDR (R303). -/
def Row.cuts (r : Row) (k : Nat) (p : Word) : Except Nat Nat :=
  let cnt := r.ent.length
  let wide := k = 255 || 64 < k
  if k ≠ 255 ∧ 64 < k ∧ cnt = 64 then .error 0
  else
    let n := if k = 255 then cnt else min k cnt
    if fLt p 0x3F800000 then
      match massCut p (r.keptWeights n) 0 0 with
      | some m => .ok m
      | none => if n = 64 ∧ wide then .error 0x10000 else .ok n
    else .ok n

/-- An empty sample traps where FMODE.SEMPTY says so (R305). -/
def sampled (e : Env) (f : Fields) (s : State) (r : Nat) (found : Bool) (reason : Nat) : SlotRes :=
  let s := s.modCtx e.n e.c fun x => x.putP f.d 12 found
  if !found ∧ e.b.latch.ctl.sempty then .trapDone s causeSampleEmpty (BitVec.ofNat 64 (r + 256 * reason)) else .done s

/-- The reason of an empty sample (R305). -/
def Row.emptyReason (r : Row) : Nat := if r.mt = f32NegInf then 1 else 2

/-- The race among the kept entries (R303). -/
def Row.sample (r : Row) (n : Nat) (p : PassLatch) (i : Nat) : Row :=
  let ws := r.keptWeights n
  (List.range n).foldl (fun (y : Row) j =>
    let id := (r.ent.getD j (0, 0)).2
    y.race (ws.getD j 0) id fun _ => logUniform (p.word 0 j i id)) { r with key := f32Inf, rtok := noToken }

/-- The uniforms of kept entries (R297, R303), each as a block of one token. -/
def State.latchKept (s : State) (e : Env) (r : Nat) (ids : List Word) : Latched :=
  let ctl := e.b.latch.ctl
  if !ctl.rngsrc.getLsbD 0 then .pass s { rngkey := ctl.rngkey, rngpos := ctl.rngpos }
  else
    match s.readRanges e (ids.map fun id => (replayAddr ctl.rngsrc r id, 4)) with
    | .trap s cause taddr => .trap s cause taddr
    | .wait s => .wait s
    | .data s bss => .pass s { replay := some (bss.zipIdx.map fun (b, i) => (i, leWord 32 b)) }

def execCfTopp (f : Fields) (s : State) : Host.Outcome State Fault Refusal :=
  runSlot s fun e s =>
    let a := (e.sA f).toNat
    let r := a % 128
    let k := a / 256
    let p : Word := (e.sB f).setWidth 32
    if a.testBit 7 ∨ 65536 ≤ a ∨ 2 ^ 32 ≤ (e.sB f).toNat ∨ !(f32 p).isFinite ∨ !fLt 0 p then .trap causeIllegalOperand none
    else
      let row := e.x.units.cand.row r
      if k = 0 then sampled e f s r (row.rtok != noToken) row.emptyReason
      else
        match row.cuts k p with
        | .error b => .trap causeHeapSpill (some (BitVec.ofNat 64 (r + 256 * k + b)))
        | .ok n =>
          match s.latchKept e r ((row.ent.take n).map (·.2)) with
          | .trap s cause taddr => .trapSet s cause taddr
          | .wait s => .block .read s
          | .pass s l =>
            let row := row.sample n l r
            sampled e f (s.modCtx e.n e.c fun x => x.modCand fun c => c.setRow r row) r (row.rtok != noToken) row.emptyReason

def execCfToppSet (f : Fields) (s : State) : Host.Outcome State Fault Refusal :=
  runSlot s fun e s =>
    let r := (e.sA f).toNat
    let t : Word := (e.sB f).setWidth 32
    if 128 ≤ r ∨ 2 ^ 32 ≤ (e.sB f).toNat then .trap causeIllegalOperand none
    else
      let s := s.modCtx e.n e.c fun x => x.modCand fun c =>
        c.setRow r { c.row r with rtok := t, key := if t = noToken then f32Inf else 0 }
      sampled e f s r (t != noToken) 3

/-! ### Spilling and merging -/

/-- The places of the images of a spill, row by row, or the lowest failure; the scratchpad is refused (R289). -/
def State.spillPlaces (s : State) (e : Env) (a : DWord) (n : Nat) : Except Failure State :=
  match s.rangesFail e .store [(a, 1024 * n)] with
  | (s, some f) => .error { f with s := s }
  | (s, none) => .ok s

/-- A row's store waits for the scoreboard (R191), or for an earlier access to the same bytes of a peer (R121). -/
def State.rowBusy (s : State) (e : Env) (a : DWord) : Bool :=
  match s.places e.n e.px .store a 1024 with
  | .error _ => false
  | .ok (s, ps) => (s.core e.n).placesBusy true ps || s.peersBusy e.x.task.uid ps

/-- A row is stored as one store (R289). -/
def State.spillRow (s : State) (e : Env) (a : DWord) (r : Row) : State :=
  match s.places e.n e.px .store a 1024 with
  | .error _ => s
  | .ok (s, ps) => s.storeAt e a [(0, r.image)] ps

def execCfSpill (f : Fields) (s : State) : Host.Outcome State Fault Refusal :=
  runSlot s fun e s =>
    let a := e.sA f
    let n := (e.sB f).toNat
    if n = 0 ∨ 128 < n then .trap causeIllegalOperand none
    else if a.toNat % 64 ≠ 0 then .trap causeMisalign (some a)
    else
      match s.spillPlaces e a n with
      | .error g => .trapSet g.s g.cause g.taddr
      | .ok s =>
        if (List.range n).any fun r => s.rowBusy e (a + BitVec.ofNat 64 (1024 * r)) then .stall
        else .done ((List.range n).foldl (fun s r =>
          s.spillRow e (a + BitVec.ofNat 64 (1024 * r)) (e.x.units.cand.row r)) s)

/-- The rows of some images merged (R290). -/
def mergeImages (n : Nat) (bss : List (List Byte)) (c : Cand) : Cand :=
  (List.range n).foldl (fun c r =>
    c.setRow r (combineTree 6 (bss.map fun bs => rowOfImage ((bs.drop (1024 * r)).take 1024)))) c

def execCfXmerge (f : Fields) (s : State) : Host.Outcome State Fault Refusal :=
  runSlot s fun e s =>
    let a := e.sA f
    let b := (e.sB f).toNat
    let n := b % 256
    let c := b / 256
    if n = 0 ∨ 128 < n ∨ c = 0 ∨ 64 < c then .trap causeIllegalOperand none
    else if a.toNat % 8 ≠ 0 then .trap causeMisalign (some a)
    else
      match s.readRanges e [(a, 8 * c)] with
      | .trap s cause taddr => .trapSet s cause taddr
      | .wait s => .block .read s
      | .data s tab =>
        let at_ : List DWord := (List.range c).map fun i => BitVec.ofNat 64 (fieldAt (tab.headD []) (8 * i) 8)
        match at_.find? fun v => v.toNat % 64 ≠ 0 with
        | some v => .trap causeMisalign (some v)
        | none =>
          match s.readRanges e (at_.map fun v => (v, 1024 * n)) with
          | .trap s cause taddr => .trapSet s cause taddr
          | .wait s => .block .read s
          | .data s bss => .done (s.modCtx e.n e.c fun x => x.modCand (mergeImages n bss))

end Sys2Proof.Machine
end

