-- ==== Sys2Proof/Machine/Power.lean ====
section
/-! DEFINITION. The operating point of a core's domain (R128, R129, R350) and the slow-down notices of a job (R351). -/

namespace Sys2Proof.Machine

/-- The fields of OPPT (R128). -/
def opptCur (o : BitVec 10) : Nat := o.toNat % 8
def opptTgt (o : BitVec 10) : Nat := o.toNat / 8 % 8
def opptSettle (o : BitVec 10) : Bool := o.getLsbD 6
def opptCap (o : BitVec 10) : Nat := o.toNat / 128 % 8

/-- OPPT from its fields. -/
def opptOf (cap : Nat) (settle : Bool) (tgt cur : Nat) : BitVec 10 :=
  BitVec.ofNat 10 (128 * (cap % 8) + 64 * settle.toNat + 8 * (tgt % 8) + cur % 8)

/-- A change of the operating point to `t` starts to settle (R129). -/
def Core.startMove (k : Core) (t : Nat) : Core := { k with oppt := opptOf (opptCap k.oppt) true t (opptCur k.oppt) }

/-- The domain moves to CAP where CUR is faster, unless a change is settling (R350). -/
def Core.followCap (k : Core) : Core :=
  if !opptSettle k.oppt ∧ opptCur k.oppt < opptCap k.oppt then k.startMove (opptCap k.oppt) else k

/-- A change of CAP (R350). -/
def Core.setCap (k : Core) (cap : Nat) : Core :=
  Core.followCap { k with oppt := opptOf cap (opptSettle k.oppt) (opptTgt k.oppt) (opptCur k.oppt) }

/-- A core runs a task of a job. -/
def Core.runsJob (k : Core) (job : BitVec 32) : Bool := k.ctxs.any fun e => e.2.task.record.jobtag = job && e.2.run != .ended

/-- The CAP of a core without what a notice has given it, where the core still has that CAP (log 45). -/
def Notice.capWithout (x : Notice) (n cap : Nat) : Nat :=
  match tget x.saved n, tget x.given n with
  | some old, some v => if cap = v.toNat then old.toNat else cap
  | _, _ => cap

/-- A notice is applied to a core: CAP := max(CAP, POINT), what an earlier notice of the job gave the core being replaced (R351). -/
def State.applyNotice (s : State) (n : Nat) (job : BitVec 32) : State :=
  match tget s.board.notices job.toNat with
  | none => s
  | some x =>
    if x.applied.contains n ∨ !(s.core n).runsJob job then s
    else
      let cap := x.capWithout n (opptCap (s.core n).oppt)
      let new := max cap (min 7 x.point.toNat)
      let x := { x with
        applied := n :: x.applied, saved := tset x.saved n (BitVec.ofNat 3 cap), given := tset x.given n (BitVec.ofNat 3 new) }
      let s := { s with board := { s.board with notices := tset s.board.notices job.toNat x } }
      s.modCore n fun k => k.setCap new

/-- The notices that have arrived are applied to a core (R351). -/
def State.applyNotices (s : State) (n : Nat) : State :=
  s.board.notices.foldl (fun s e => s.applyNotice n (BitVec.ofNat 32 e.1)) s

end Sys2Proof.Machine
end

