-- ==== Sys2Proof/Machine/Scalar.lean ====
section
/-! DEFINITION. The integer instructions of class S (R96 to R100). -/

namespace Sys2Proof.Machine

/-- A slot that writes a scalar at distance `l`. -/
def runScalar (s : State) (f : Fields) (l : Nat) (g : Env → DWord) : Host.Outcome State Fault Refusal :=
  runLocal s fun e => e.x.putS e.b.latch f.d l (g e)

/-- A slot that writes a predicate at distance 1. -/
def runPred (s : State) (f : Fields) (g : Env → Bool) : Host.Outcome State Fault Refusal :=
  runLocal s fun e => e.x.putP f.d 1 (g e)

/-- Bits [127:64] of a product (R97). -/
def mulHigh (unsigned : Bool) (a b : DWord) : DWord :=
  if unsigned then BitVec.ofNat 64 (a.toNat * b.toNat / 2 ^ 64) else BitVec.ofInt 64 (a.toInt * b.toInt / 2 ^ 64)

/-- A scalar as a signed or unsigned number. -/
def numberOf (unsigned : Bool) (a : DWord) : Int := if unsigned then a.toNat else a.toInt

/-- Quotient and remainder for B not 0 (R98). -/
def quotient (unsigned : Bool) (a b : DWord) : DWord := BitVec.ofInt 64 ((numberOf unsigned a).tdiv (numberOf unsigned b))
def remainder (unsigned : Bool) (a b : DWord) : DWord := BitVec.ofInt 64 ((numberOf unsigned a).tmod (numberOf unsigned b))

/-- A division (R98). DIV0 leaves TADDR unchanged. -/
def runDivision (s : State) (f : Fields) (g : DWord → DWord → DWord) : Host.Outcome State Fault Refusal :=
  runSlot s fun e s =>
    if e.sB f = 0 then .trap causeDiv0 (some e.x.ctl.taddr)
    else .done (s.setCtx e.n e.c (e.x.putS e.b.latch f.d 20 (g (e.sA f) (e.sB f))))

/-- B[5:0] as a number. -/
def low6 (b : DWord) : Nat := b.toNat % 64

/-- Leading and trailing zero bits (R97). -/
def leadingZeros (a : DWord) : Nat := if a = 0 then 64 else 63 - a.toNat.log2
def trailingZeros (a : DWord) : Nat := lowBit a

/-- A[k:0] with the bits above cleared (R97). -/
def zeroExtendFrom (a : DWord) (k : Nat) : DWord := BitVec.ofNat 64 (a.toNat % 2 ^ (k + 1))

/-- A[k:0] sign-extended from bit k (R97). -/
def signExtendFrom (a : DWord) (k : Nat) : DWord :=
  let z := a.toNat % 2 ^ (k + 1)
  if a.getLsbD k then BitVec.ofInt 64 ((z : Int) - 2 ^ (k + 1)) else BitVec.ofNat 64 z

/-- A < B (R99). -/
def lessThan (unsigned : Bool) (a b : DWord) : Bool := numberOf unsigned a < numberOf unsigned b

def execNop (s : State) : Host.Outcome State Fault Refusal := runSlot s fun _ s => .done s

def execAdd (f : Fields) (s : State) : Host.Outcome State Fault Refusal := runScalar s f 1 fun e => e.sA f + e.sB f

def execSub (f : Fields) (s : State) : Host.Outcome State Fault Refusal := runScalar s f 1 fun e => e.sA f - e.sB f

def execMul (f : Fields) (s : State) : Host.Outcome State Fault Refusal := runScalar s f 3 fun e => e.sA f * e.sB f

def execMulh (f : Fields) (s : State) : Host.Outcome State Fault Refusal :=
  runScalar s f 3 fun e => mulHigh f.md (e.sA f) (e.sB f)

def execDiv (f : Fields) (s : State) : Host.Outcome State Fault Refusal := runDivision s f (quotient f.md)

def execRem (f : Fields) (s : State) : Host.Outcome State Fault Refusal := runDivision s f (remainder f.md)

def execAndS (f : Fields) (s : State) : Host.Outcome State Fault Refusal := runScalar s f 1 fun e => e.sA f &&& e.sB f

def execOrS (f : Fields) (s : State) : Host.Outcome State Fault Refusal := runScalar s f 1 fun e => e.sA f ||| e.sB f

def execXorS (f : Fields) (s : State) : Host.Outcome State Fault Refusal := runScalar s f 1 fun e => e.sA f ^^^ e.sB f

def execAndn (f : Fields) (s : State) : Host.Outcome State Fault Refusal := runScalar s f 1 fun e => e.sA f &&& ~~~e.sB f

def execShl (f : Fields) (s : State) : Host.Outcome State Fault Refusal :=
  runScalar s f 1 fun e => e.sA f <<< low6 (e.sB f)

def execShr (f : Fields) (s : State) : Host.Outcome State Fault Refusal :=
  runScalar s f 1 fun e => e.sA f >>> low6 (e.sB f)

def execSar (f : Fields) (s : State) : Host.Outcome State Fault Refusal :=
  runScalar s f 1 fun e => (e.sA f).sshiftRight (low6 (e.sB f))

def execMinS (f : Fields) (s : State) : Host.Outcome State Fault Refusal :=
  runScalar s f 1 fun e => if lessThan f.md (e.sB f) (e.sA f) then e.sB f else e.sA f

def execMaxS (f : Fields) (s : State) : Host.Outcome State Fault Refusal :=
  runScalar s f 1 fun e => if lessThan f.md (e.sA f) (e.sB f) then e.sB f else e.sA f

def execClz (f : Fields) (s : State) : Host.Outcome State Fault Refusal :=
  runScalar s f 1 fun e => BitVec.ofNat 64 (leadingZeros (e.sA f))

def execCtz (f : Fields) (s : State) : Host.Outcome State Fault Refusal :=
  runScalar s f 1 fun e => BitVec.ofNat 64 (trailingZeros (e.sA f))

def execPopc (f : Fields) (s : State) : Host.Outcome State Fault Refusal :=
  runScalar s f 1 fun e => BitVec.ofNat 64 (popCount (e.sA f))

def execSext (f : Fields) (s : State) : Host.Outcome State Fault Refusal :=
  runScalar s f 1 fun e => signExtendFrom (e.sA f) (low6 (e.sB f))

def execZext (f : Fields) (s : State) : Host.Outcome State Fault Refusal :=
  runScalar s f 1 fun e => zeroExtendFrom (e.sA f) (low6 (e.sB f))

def execMadd (f : Fields) (s : State) : Host.Outcome State Fault Refusal :=
  runScalar s f 3 fun e => e.sD f + e.sA f * e.sB f

def execSel (f : Fields) (s : State) : Host.Outcome State Fault Refusal :=
  runScalar s f 1 fun e => (e.sD f &&& e.sA f) ||| (~~~e.sD f &&& e.sB f)

def execMov (f : Fields) (s : State) : Host.Outcome State Fault Refusal := runScalar s f 1 fun e => e.sA f

def execCmpEq (f : Fields) (s : State) : Host.Outcome State Fault Refusal := runPred s f fun e => e.sA f = e.sB f

def execCmpNe (f : Fields) (s : State) : Host.Outcome State Fault Refusal := runPred s f fun e => e.sA f ≠ e.sB f

def execCmpLt (f : Fields) (s : State) : Host.Outcome State Fault Refusal :=
  runPred s f fun e => lessThan f.md (e.sA f) (e.sB f)

def execCmpLe (f : Fields) (s : State) : Host.Outcome State Fault Refusal :=
  runPred s f fun e => !lessThan f.md (e.sB f) (e.sA f)

def execPlogAnd (f : Fields) (s : State) : Host.Outcome State Fault Refusal :=
  runPred s f fun e => e.b.latch.p f.a.toNat && e.b.latch.p f.b.toNat

def execPlogAndn (f : Fields) (s : State) : Host.Outcome State Fault Refusal :=
  runPred s f fun e => e.b.latch.p f.a.toNat && !e.b.latch.p f.b.toNat

def execLi (f : Fields) (s : State) : Host.Outcome State Fault Refusal := runScalar s f 1 fun _ => i11Value f

def execAddi (f : Fields) (s : State) : Host.Outcome State Fault Refusal := runScalar s f 1 fun e => e.sA f + riValue f

def execAndi (f : Fields) (s : State) : Host.Outcome State Fault Refusal := runScalar s f 1 fun e => e.sA f &&& riValue f

def execOri (f : Fields) (s : State) : Host.Outcome State Fault Refusal := runScalar s f 1 fun e => e.sA f ||| riValue f

def execXori (f : Fields) (s : State) : Host.Outcome State Fault Refusal := runScalar s f 1 fun e => e.sA f ^^^ riValue f

def execShli (f : Fields) (s : State) : Host.Outcome State Fault Refusal :=
  runScalar s f 1 fun e => e.sA f <<< low6 (riValue f)

def execShri (f : Fields) (s : State) : Host.Outcome State Fault Refusal :=
  runScalar s f 1 fun e => e.sA f >>> low6 (riValue f)

def execSari (f : Fields) (s : State) : Host.Outcome State Fault Refusal :=
  runScalar s f 1 fun e => (e.sA f).sshiftRight (low6 (riValue f))

def execCmpiEq (f : Fields) (s : State) : Host.Outcome State Fault Refusal := runPred s f fun e => e.sA f = riValue f

def execCmpiLt (f : Fields) (s : State) : Host.Outcome State Fault Refusal :=
  runPred s f fun e => (e.sA f).slt (riValue f)

end Sys2Proof.Machine
end

