-- ==== Sys2Proof/Machine/System.lean ====
section
/-! DEFINITION. Control registers (R44, R93, R123 to R127, R161, R209, R286, R311), the operating point and time (R129, R130),
and counter events (R119). -/

namespace Sys2Proof.Machine

/-- The value clamped to TBUDGET's range (R93). -/
def clampBudget (i : Int) : BitVec 32 := BitVec.ofInt 32 (max 0 (min i 0xFFFFFFFF))

def execMfc (f : Fields) (s : State) : Host.Outcome State Fault Refusal :=
  runScalar s f 1 fun e => e.b.latch.creg f.a.toNat

/-- A slot that writes a control register of its context. -/
def runCreg (s : State) (f : Fields) (g : Ctl → DWord → Ctl) : Host.Outcome State Fault Refusal :=
  runLocal s fun e => { e.x with ctl := g e.x.ctl (e.sA f) }

/-- An `mtc` to a register without behaviour of its own (R124). -/
def Ctl.writePlain (c : Ctl) (n : Nat) (v : DWord) : Option Ctl :=
  match n with
  | 0x01 => some { c with cause := v.setWidth 8 }
  | 0x02 => some { c with taddr := v }
  | 0x03 => some { c with tbun := v }
  | 0x04 => some { c with evtvec := v &&& ~~~3#64 }
  | 0x05 => some { c with evtsrc := v.setWidth 8 }
  | 0x06 => some { c with savebase := v &&& ~~~0x3FFFFF#64 }
  | 0x08 => some { c with leglim := v.setWidth 48 }
  | 0x09 => some { c with equota := v }
  | 0x0A => some { c with eused := v }
  | 0x10 => some { c with rngpos := v }
  | _ => none

def execMtc (f : Fields) (s : State) : Host.Outcome State Fault Refusal :=
  runSlot s fun e s =>
    match e.x.ctl.writePlain f.d.toNat (e.sA f) with
    | some c => .done (s.setCtx e.n e.c { e.x with ctl := c })
    | none => .trap causeIllegalOperand none

/-- STATUS (R125): user privilege writes EVTEN alone. The bundle's privilege is that of its latch. -/
def Ctl.writeStatus (c : Ctl) (priv : Bool) (v : DWord) : Ctl :=
  { c with status := if priv then v.setWidth 7 else setBit c.status 5 (v.getLsbD 5) }

def execMtcStatus (f : Fields) (s : State) : Host.Outcome State Fault Refusal :=
  runLocal s fun e => { e.x with ctl := e.x.ctl.writeStatus e.b.latch.ctl.priv (e.sA f) }

def execMtcFflags (f : Fields) (s : State) : Host.Outcome State Fault Refusal :=
  runCreg s f fun c v => { c with fflags := v.setWidth 5 }

def execMtcFmode (f : Fields) (s : State) : Host.Outcome State Fault Refusal :=
  runSlot s fun e s =>
    if fmodeOk (e.sA f) then
      .done (s.setCtx e.n e.c { e.x with ctl := { e.x.ctl with fmode := (e.sA f).setWidth 11 } })
    else .trap causeIllegalOperand none

/-- EMASK (R161). A SEL that names a mask register beyond the header's NM is taken, and reads a mask of 0 (DESIGN CHOICE, log 65). -/
def execMtcEmask (f : Fields) (s : State) : Host.Outcome State Fault Refusal :=
  runCreg s f fun c v => { c with emask := v.setWidth 3 }

/-- RNGKEY is set, QPOS reset, and the vectors made ahead discarded (R311). -/
def Ctx.setKey (x : Ctx) (key : DWord) : Ctx := { x with rqAhead := 0, ctl := { x.ctl with rngkey := key, qpos := 0 } }

def execMtcRngkey (f : Fields) (s : State) : Host.Outcome State Fault Refusal := runLocal s fun e => e.x.setKey (e.sA f)

/-- A value that RNGSRC takes (R286). -/
def rngsrcOk (v : DWord) : Bool := v.toNat / 64 % 64 = 0 && v.toNat / 2 % 32 ≤ 24

def execMtcRngsrc (f : Fields) (s : State) : Host.Outcome State Fault Refusal :=
  runSlot s fun e s =>
    if rngsrcOk (e.sA f) then .done (s.setCtx e.n e.c { e.x with ctl := { e.x.ctl with rngsrc := e.sA f } })
    else .trap causeIllegalOperand none

def execMtcTbudget (f : Fields) (s : State) : Host.Outcome State Fault Refusal :=
  runCreg s f fun c v => { c with tbudget := clampBudget v.toInt }

/-- XCNT is written, and the counts that a buffer phase holds are replaced with it (R155, R209). -/
def Ctx.setXcnt (x : Ctx) (v : DWord) : Ctx :=
  { x with ctl := { x.ctl with xcnt := v }, buf := { x.buf with xof := 0, xnv := 0 } }

def execMtcXcnt (f : Fields) (s : State) : Host.Outcome State Fault Refusal := runLocal s fun e => e.x.setXcnt (e.sA f)

/-- Every class keeps a live instance (R44). -/
def slotmapOk (v : BitVec 9) : Bool :=
  v.extractLsb' 0 2 != 0 && v.extractLsb' 2 3 != 0 && v.extractLsb' 5 2 != 0 && v.getLsbD 7 && v.getLsbD 8

/-- SLOTMAP (R44, R46). A value that keeps of a class only instances that PWRMASK has cleared is taken: the class has no effective
instance, and a bundle with a slot of it runs as split (DESIGN CHOICE, log 71). -/
def execMtcSlotmap (f : Fields) (s : State) : Host.Outcome State Fault Refusal :=
  runSlot s fun e s =>
    let v : BitVec 9 := (e.sA f).setWidth 9
    if slotmapOk v then .done (s.modCore e.n fun k => { k with slotmap := v }) else .trap causeIllegalOperand none

/-! ### Operating point and time -/

/-- The settling time of a change from `cur` to `t` (R129). -/
def settleTime (cur t : Nat) : DWord := if t < cur then BitVec.ofNat 64 (4000 * (cur - t)) else 1000

def execOpsel (f : Fields) (s : State) : Host.Outcome State Fault Refusal :=
  runSlot s fun e s =>
    let k := s.core e.n
    if opptSettle k.oppt then .trap causeOpselBusy none
    else
      let s := s.irrevocable e.n e.c
      let t := max ((e.sA f).toNat % 8) (opptCap k.oppt)
      let cur := opptCur k.oppt
      let put (v : DWord) (s : State) : State := s.modCtx e.n e.c fun x => x.putS e.b.latch f.d 1 v
      if t = cur then .done (put 0 s) else .done (put (settleTime cur t) (s.modCore e.n fun k => k.startMove t))

/-- GTIME as a core reads it (R130). -/
def State.gtimeAt (s : State) (n : Nat) : DWord := BitVec.ofNat 64 (s.gtime.toNat + (s.core n).skew.val - 2)

def execGtime (f : Fields) (s : State) : Host.Outcome State Fault Refusal := runScalar s f 1 fun e => s.gtimeAt e.n

def execCcyc (f : Fields) (s : State) : Host.Outcome State Fault Refusal := runScalar s f 1 fun e => (s.core e.n).ccyc

/-! ### Events on counters -/

def execEvt (f : Fields) (s : State) : Host.Outcome State Fault Refusal :=
  runLocal s fun e => { e.x with
    cnt := Counters.check { e.x.cnt with armed := tset e.x.cnt.armed f.d.toNat ((e.sA f).setWidth 32) } }

def execEvtOff (f : Fields) (s : State) : Host.Outcome State Fault Refusal :=
  runLocal s fun e => { e.x with cnt := { e.x.cnt with armed := tdel e.x.cnt.armed f.d.toNat } }

end Sys2Proof.Machine
end

