-- ==== Sys2Proof/Machine/Launch.lean ====
section
/-! DEFINITION. The dispatch slots (R13 to R17, R82 to R93): tail launch, barriers, phases, buffer swaps, shape records, the
request heap and the token budget. -/

namespace Sys2Proof.Machine

/-- A hand-off of the dispatcher to a core (R331). -/
def State.handOff (s : State) (n : Nat) : State := s.raiseT n (max s.dispT s.mem.rt)

/-- A request that the dispatcher answers with a value (R82). An accepted request is an irrevocable act (R280). -/
def State.answerWith (s : State) (e : Env) (v : DWord) : State :=
  ((s.hear e.n).irrevocable e.n e.c).reply e (.value v)

/-- The slot writes the answer to sD at distance 1. -/
def putAnswer (f : Fields) (e : Env) (s : State) (v : DWord) : State :=
  s.modCtx e.n e.c fun x => x.putS e.b.latch f.d 1 v

/-! ### Tail launch and barriers -/

def execTlaunch (f : Fields) (s : State) : Host.Outcome State Fault Refusal :=
  runRequest s
    (fun e s =>
      let a := e.sA f
      let g := e.x.task.grid
      if a.toNat % 128 ≠ 0 then .trap causeMisalign (some a)
      else
        match tget s.grids g with
        | none => .trap causeResource none
        | some x =>
          if x.tail.isSome then .trap causeResource none
          else .done ({ s with grids := tset s.grids g { x with tail := some a } }.answerWith e 0))
    fun _ s _ => s

/-- The domain of a core at a level (R77). -/
def domainOf (level n : Nat) : Nat :=
  match level with
  | 1 => n
  | 2 => n / 8
  | 3 => n / 72
  | _ => 0

/-- A generation is the one that a slot arrives at. -/
def Barrier.is (b : Barrier) (grid level dom n : Nat) : Bool := b.grid = grid && b.level = level && b.dom = dom && b.n = n

/-- An arrival at a barrier (R83). -/
def State.arrive (s : State) (grid level dom n uid : Nat) : State :=
  if s.barriers.any fun b => b.is grid level dom n then
    { s with barriers := s.barriers.map fun b => if b.is grid level dom n then { b with arrived := uid :: b.arrived } else b }
  else { s with barriers := s.barriers ++ [{ grid := grid, level := level, dom := dom, n := n, arrived := [uid] }] }

def execBar (f : Fields) (s : State) : Host.Outcome State Fault Refusal :=
  runRequest s
    (fun e s =>
      let level := f.d.toNat
      let n := f.a.toNat
      let t := e.x.task
      if t.hdr.nbar ≤ n ∨ t.hdr.level < level then .trap causeResource none
      else if level = 0 then .done (s.answerWith e 0)
      else
        .done ((((s.hear e.n).irrevocable e.n e.c).arrive t.grid level (domainOf level e.n) n t.uid).reply e .waiting))
    fun _ s _ => s

/-! ### Phases -/

def execPhase (f : Fields) (s : State) : Host.Outcome State Fault Refusal :=
  runSlot s fun e s =>
    let s := s.modCtx e.n e.c fun x =>
      { x with phases := x.phases + 1, comm := (e.sA f).getLsbD 0 }.putS e.b.latch f.d 1 (BitVec.ofNat 64 (x.phases + 1))
    .done (s.applyNotices e.n)

/-- Every landing of a context has arrived, those frozen included (R274, R278). -/
def Ctx.landed (x : Ctx) : Bool :=
  x.pend.all PWrite.ready && x.frame.all (fun f => f.pend.all PWrite.ready) && x.eframe.all fun f => f.pend.all PWrite.ready

/-- A snapshot that stands from the `bswap` to the end of its bundle, which takes the one that stays (R86, R278). -/
def Ctx.firstSnapshot (x : Ctx) (next : DWord) : Ctx :=
  { x with buf := { x.buf with snap := some { x.snapshot with pc := .at next, count := x.count + 1 } } }

/-- A buffer phase ends and the next one opens (R86, R278): the copy goes to address `dst` of the core's scratchpad. PHASEK of the
save area follows (R264). -/
def State.swapPhase (s : State) (e : Env) (f : Fields) (src : DWord) (dst len : Nat) (runs : List (Option Nat × Nat × Nat)) :
    State :=
  let prot := e.x.task.record.prot
  let s := if prot then s.commitPhase e.n e.c else s
  let s := s.startCopy e.n e.c src dst len runs
  let s := s.modCtx e.n e.c fun x =>
    { x with buf := { x.buf with
        k := x.buf.k + 1, desc := some (e.sA f), irrevocable := false, cancelled := false } }.putS e.b.latch f.d 1
      (BitVec.ofNat 64 (x.buf.k + 1))
  let s := s.saveStore e.n e.x 48 (natLe 8 (e.x.buf.k + 1))
  if prot then
    (s.modCtx e.n e.c fun x => x.firstSnapshot e.b.next).modBundle e.n e.c fun b => { b with acts := b.acts ++ [.snap] }
  else s

/-- The checks of `bswap`, made before its bundle issues (R82, R86): its descriptor is read, and the copy that it asks for is the
answer. -/
def askBswap (f : Fields) (e : Env) (s : State) : SlotRes :=
  let a := e.sA f
  if a.toNat % 32 ≠ 0 then .trap causeMisalign (some a)
  else
    match s.readBlocking e a 32 with
    | .trap s cause taddr => .trapSet s cause taddr
    | .wait s => .block .read s
    | .data s bs =>
      match inputDesc bs e.x.task.hdr.scratch with
      | none => .trap causeResource none
      | some d =>
        match s.copyRuns e.n e.px d.src d.len with
        | .error g => .trapSet g.s g.cause g.taddr
        | .ok (s, runs) =>
          let dst := e.x.task.spBase + d.dst
          match (s.core e.n).foreignRange e.x [(dst, d.len)] with
          | some t => .trap causeProtect (some t)
          | none =>
            if (s.core e.n).rangesBusy [] [(dst, d.len)] then .stall else .done (s.reply e (.copy d.src dst d.len runs))

/-- `bswap` (R86). In a phase-protected kernel it waits for the landings of its context (R278). Its copy comes after earlier accesses to
the same bytes of a peer (R121). -/
def execBswap (f : Fields) (s : State) : Host.Outcome State Fault Refusal :=
  runAnswered s (askBswap f) fun e s a =>
    match a with
    | .copy src dst len runs =>
      if e.x.task.record.prot ∧ !e.x.landed then .block .landings s
      else if s.copyBusy e.x.task.uid runs then .stall
      else .done (s.swapPhase e f src dst len runs)
    | _ => .block .answer s

/-- The shape record is read before the bundle issues (R82, R89). -/
def askShapeLd (f : Fields) (e : Env) (s : State) : SlotRes :=
  let a := e.sA f
  if a.toNat % 8 ≠ 0 then .trap causeMisalign (some a)
  else
    match s.readBlocking e a 40 with
    | .trap s cause taddr => .trapSet s cause taddr
    | .wait s => .block .read s
    | .data s bs =>
      if e.x.loops.state.any fun l => l.2.active then .trap causeResource none
      else
        .done (((s.hear e.n).irrevocable e.n e.c).reply e
          (.words ((List.range 5).map fun i => BitVec.ofNat 64 (fieldAt bs (8 * i) 8))))

/-- `shape.ld` (R16, R89). -/
def execShapeLd (f : Fields) (s : State) : Host.Outcome State Fault Refusal :=
  runAnswered s (askShapeLd f) fun e s a =>
    match a with
    | .words ws =>
      .done (s.modCtx e.n e.c fun x =>
        let x := (List.range 4).foldl (fun x i => { x with loops := x.loops.setCounter i (ws.getD i 0) }) x
        (List.range 7).foldl (fun (x : Ctx) i => x.push 1 (.p (i + 1) ((ws.getD 4 0).getLsbD (i + 1)))) x)
    | _ => .block .answer s

/-! ### The request heap -/

/-- An entry comes after those of its deadline and id that were inserted before it (R90). -/
def heapInsert (x : HeapEntry) : List HeapEntry → List HeapEntry
  | [] => [x]
  | y :: ys =>
    if x.deadline.toNat < y.deadline.toNat ∨ (x.deadline = y.deadline ∧ x.id.toNat < y.id.toNat) then x :: y :: ys
    else y :: heapInsert x ys

/-- The entry of a push (R15, R90). -/
def heapEntry (deadline key : DWord) : HeapEntry :=
  { deadline := if deadline = BitVec.allOnes 64 then deadline - 1 else deadline
    id := key.extractLsb' 16 32, cost := key.extractLsb' 0 16 }

/-- The key of an entry, bits [63:48] zero (R15). -/
def HeapEntry.key (x : HeapEntry) : DWord := (x.id ++ x.cost).setWidth 64

def execHeapPush (f : Fields) (s : State) : Host.Outcome State Fault Refusal :=
  runRequest s
    (fun e s =>
      if 4096 ≤ s.heap.length then .trap causeResource none
      else .done ({ s with heap := heapInsert (heapEntry (e.sA f) (e.sB f)) s.heap }.answerWith e 0))
    fun _ s _ => s

/-- The pop takes the head's cost from the TBUDGET that the bundle latched when it reached issue; the answer carries the key, and
TBUDGET follows when the slot commits (R15, R93): where a handler has changed it meanwhile, the cost is taken from the changed one, modulo
2^32 (DESIGN CHOICE, log 70). -/
def execHeapPop (f : Fields) (s : State) : Host.Outcome State Fault Refusal :=
  runRequest s
    (fun e s =>
      match s.heap with
      | [] => .done (s.answerWith e (BitVec.allOnes 64))
      | x :: xs =>
        if e.b.latch.ctl.tbudget.toNat < x.cost.toNat then .done (s.answerWith e (BitVec.allOnes 64))
        else .done (({ s with heap := xs }.answerWith e x.key).handOff e.n))
    fun e s v =>
      let cost : BitVec 32 := if v = BitVec.allOnes 64 then 0 else (v.extractLsb' 0 16).setWidth 32
      (putAnswer f e s v).modCtx e.n e.c fun x => { x with ctl := { x.ctl with tbudget := x.ctl.tbudget - cost } }

/-- The head as a peek answers it (R91). -/
def heapHead (g : HeapEntry → DWord) (h : List HeapEntry) : DWord := match h with | [] => BitVec.allOnes 64 | x :: _ => g x

def execHeapPeek (f : Fields) (s : State) : Host.Outcome State Fault Refusal :=
  runRequest s (fun e s => .done (s.answerWith e (heapHead HeapEntry.key s.heap))) (putAnswer f)

def execHeapPeekDl (f : Fields) (s : State) : Host.Outcome State Fault Refusal :=
  runRequest s (fun e s => .done (s.answerWith e (heapHead (·.deadline) s.heap))) (putAnswer f)

/-- TBUDGET + sA, clamped (R14). -/
def execBudget (f : Fields) (s : State) : Host.Outcome State Fault Refusal :=
  runRequest s
    (fun e s => .done (s.answerWith e ((clampBudget ((e.b.latch.ctl.tbudget.toNat : Int) + (e.sA f).toInt)).setWidth 64)))
    fun e s v => (putAnswer f e s v).modCtx e.n e.c fun x => { x with ctl := { x.ctl with tbudget := v.setWidth 32 } }

end Sys2Proof.Machine
end

