-- ==== Sys2Proof/Machine/Checkpoint.lean ====
section
/-! DEFINITION. The checkpoint instructions (R342 to R346). -/

namespace Sys2Proof.Machine

/-! ### Opening a step -/

/-- A `ckpt.begin` as the unit performs it when no seal or diff is outstanding (R344). -/
def State.beginStep (s : State) (step : DWord) : State × Answer :=
  if s.ckpt.opened.isSome ∨ step ≠ s.ckpt.last + 1 then (s, .refused causeIllegalOperand none)
  else ({ s with ckpt := { s.ckpt with opened := some step } }, .value s.ckpt.last)

/-- A `ckpt.begin` that the unit holds: core, context and position of its slot, and the step. -/
structure HeldBegin where
  n : Nat
  uid : Nat
  pos : Nat
  step : DWord
  deriving DecidableEq, Repr

def State.heldBegins (s : State) : List HeldBegin :=
  s.cores.flatMap fun k => k.2.tasks.flatMap fun x =>
    match x.bundle with
    | none => []
    | some b => b.answers.filterMap fun a =>
      match a.2 with
      | .ckpt step => some ⟨k.1, x.task.uid, a.1, step⟩
      | _ => none

/-- The unit performs what it holds, once no seal or diff is outstanding. -/
def State.serveBegins (s : State) : State :=
  if s.ckpt.copy.isSome then s
  else
    s.heldBegins.foldl (fun s r =>
      let (s, a) := s.beginStep r.step
      s.modCore r.n fun k => k.modTask r.uid fun x =>
        { x with bundle := x.bundle.map fun b => { b with answers := tset b.answers r.pos a } }) s

/-- The issuing task may use the checkpoint unit (R344). -/
def State.ckptAllowed (s : State) (e : Env) : Bool :=
  e.x.task.record.jobtag != 0 && e.x.task.record.jobtag = s.ckpt.cfg.ckjob

def execCkptBegin (f : Fields) (s : State) : Host.Outcome State Fault Refusal :=
  runRequest s
    (fun e s =>
      if !s.ckptAllowed e then .trap causePrivilege none
      else if s.ckpt.copy.isSome then .done ((s.irrevocable e.n e.c).reply e (.ckpt (e.sA f)))
      else
        match s.beginStep (e.sA f) with
        | (s, .value v) => .done (s.answerWith e v)
        | _ => .trap causeIllegalOperand none)
    (putAnswer f)

/-! ### Seals and diffs -/

/-- The number of pages of the shard. -/
def ckptPages (c : CkptCfg) : Nat := c.cklen / 65536

/-- The snapshot of step `n` into its image: the pages to copy, and the dirty bits and undo generation of the image
(R343, R344, R346). -/
def Ckpt.snapshot (k : Ckpt) (every : Bool) (n : DWord) (core uid issued : Nat) : Ckpt :=
  let x := n.toNat % 2
  let ds := if x = 0 then k.ds0 else k.ds1
  let k := { k with
    opened := none
    copy := some { step := n, image := x, left := if every then { all := true } else ds, core := core, uid := uid, issued := issued } }
  let u : UndoGen := { step := n, active := true }
  if x = 0 then { k with ds0 := {}, undo0 := u } else { k with ds1 := {}, undo1 := u }

/-- Every line of the shard that a stash owns is recalled: what was stored to it comes before the snapshot (R335, R336, R344). -/
def State.recallShard (s : State) : State :=
  (s.mem.lines.filter fun e => e.2.own.isSome && (s.ckpt.page (64 * e.1)).isSome).foldl (fun s e => s.recall e.1) s

/-- `ckpt.seal` and `ckpt.diff` (R344). The snapshot takes its place after the context's stores. -/
def runSeal (s : State) (f : Fields) (every : Bool) : Host.Outcome State Fault Refusal :=
  runRequest s
    (fun e s =>
      let n := e.sA f
      if !s.ckptAllowed e then .trap causePrivilege none
      else if s.ckpt.opened ≠ some n then .trap causeIllegalOperand none
      else
        let s := (s.placeAll e.n).recallShard
        let s := { s with ckpt := s.ckpt.snapshot every n e.n e.x.task.uid s.gtime.toNat }
        .done ((s.modCtx e.n e.c fun x => { x with cnt := { x.cnt with rm := x.cnt.rm + 1 } }).answerWith e 0))
    fun _ s _ => s

def execCkptSeal (f : Fields) (s : State) : Host.Outcome State Fault Refusal := runSeal s f true

def execCkptDiff (f : Fields) (s : State) : Host.Outcome State Fault Refusal := runSeal s f false

end Sys2Proof.Machine
end

