-- ==== Sys2Proof/Machine/Placement.lean ====
section
/-! DEFINITION. The dispatcher's placement of tasks (R75 to R78, R251, R258), the freeing of contexts and the retirement of
grids (R80, R87), and what a reset of a queue discards (R67). -/

namespace Sys2Proof.Machine

/-! ### A task at its first bundle -/

/-- DMR (R77). -/
def dmrOf (jobtag : BitVec 32) (n c level : Nat) : DWord :=
  let chip := if jobtag = 0 then 0 else (Config.chipIndex jobtag).toNat
  BitVec.ofNat 64 (2 ^ 24 * chip + 2 ^ 18 * (n / 72) + 2 ^ 14 * (n / 8 % 9) + 2 ^ 6 * n + 8 * c + level)

/-- The initial LEGLIM (R68). -/
def leglimOf (r : Record) (legmax : BitVec 32) : BitVec 48 :=
  let limit : BitVec 32 := r.leglim.setWidth 32
  if legmax ≠ 0 ∧ (limit = 0 ∨ legmax.toNat < limit.toNat) then r.leglim.extractLsb' 32 16 ++ legmax else r.leglim.setWidth 48

/-- The context of a task at its first bundle (R11, R76). Its first suspension saves every declared register (R274). -/
def firstCtx (t : Task) (n c : Nat) (legmax : BitVec 32) (ready : Bool) : Ctx :=
  { task := t
    run := if ready then .ready else .edges 0
    regs := { s := mset 0 (mset 0 [] 1 (BitVec.ofNat 64 t.index)) 2 t.record.param }
    ctl :=
      { savebase := BitVec.ofNat 64 (Config.saveBase + 4194304 * (8 * n + c))
        dmr := dmrOf t.record.jobtag n c t.hdr.level
        leglim := leglimOf t.record legmax
        equota := t.record.equota }
    dirty := t.hdr.declared
    pc := .at t.hdr.code }

/-- An end of a local pipe: role, local number, and the pipe of the core. -/
structure PipeEnd where
  role : Nat
  loc : Nat
  pipe : Nat
  deriving DecidableEq, Repr

/-- The pipes of an instance (R78): the ends at which tasks push and those at which they pop. Numbers of the core's pipe store
are given in order, the lowest free ones first. -/
def bindPipes (used : SMap Pipe) (hdrs : List Header) (map : BitVec 32) : List PipeEnd × List PipeEnd :=
  let links : List ((Nat × Nat) × (Nat × Nat)) := match hdrs with
    | [h] => (List.range h.npipe).map fun i => ((h.role, i), (h.role, i))
    | _ => (gangPipes map).map fun p => ((p.prole, p.ppipe), (p.crole, p.cpipe))
  let free := (List.range 16).filter fun p => (tget used p).isNone
  ((links.zip free).map fun l => ⟨l.1.1.1, l.1.1.2, l.2⟩, (links.zip free).map fun l => ⟨l.1.2.1, l.1.2.2, l.2⟩)

/-- The uid of the member of a role. -/
def uidOf (ms : List (Header × Nat)) (role : Nat) : Nat := ((ms.find? fun m => m.1.role = role).map (·.2)).getD 0

/-- The ends of a member, by local number. -/
def endsOf (ps : List PipeEnd) (role : Nat) : SMap Nat :=
  ps.foldl (fun m p => if p.role = role then tset m p.loc p.pipe else m) []

/-- The pipes of a core with those of a new instance, empty. -/
def openPipes (used : SMap Pipe) (ms : List (Header × Nat)) (ends : List PipeEnd × List PipeEnd) : SMap Pipe :=
  (ends.1.zip ends.2).foldl (fun m p => tset m p.1.pipe { pusher := uidOf ms p.1.role, popper := uidOf ms p.2.role }) used

/-- A member of an instance is placed on a context; LIVE and PHASEK of its save area are 0 (R264). -/
def State.placeMember (s : State) (n c : Nat) (t : Task) : State :=
  let ready := match t.gslot with | none => true | some g => (s.core n).edgeReady g t.hdr.role
  let x := firstCtx t n c (s.queue t.queue).cfg.legmax ready
  ((s.setCtx n c x).unitWrite (x.saveAt 41) [0]).unitWrite (x.saveAt 48) (natLe 8 0)

/-- A task, or an instance of a gang, is placed on a core (R75 to R78, R182, R251). The core's instruction cache is emptied (R323), and
the core takes the time of the dispatcher, and of the slice controller where a walk has queued the grid (R226, R245, R331). -/
def State.placeOn (s : State) (gid : Nat) (g : Grid) (n : Nat) : State :=
  let k := s.core n
  let ms := g.hdrs.zipIdx.map fun h => (h.1, s.fresh + h.2)
  let ends := bindPipes k.pipes g.hdrs g.record.pipemap
  let gslot := if g.hdrs.length = 1 then none else some (if k.gangHeld 0 then 1 else 0)
  let task (m : Header × Nat) : Task :=
    { uid := m.2, grid := gid, index := g.placed, hdr := m.1, record := g.record, queue := g.queue
      spBase := 4194304 * s.fresh, spSize := total (g.hdrs.map (·.scratch)), gslot := gslot
      mates := if g.hdrs.length = 1 then [] else ms.map (·.2)
      pushEnd := endsOf ends.1 m.1.role, popEnd := endsOf ends.2 m.1.role }
  let s := { s with fresh := s.fresh + g.hdrs.length }
  let s := s.setCore n { k with pipes := openPipes k.pipes ms ends, icache := [] }
  let s := (ms.zip (k.freeSlots g.taken)).foldl (fun s m => s.placeMember n m.2 (task m.1)) s
  let s := { s with grids := tset s.grids gid { g with
    placed := g.placed + 1, live := g.live + g.hdrs.length, from_ := n + 1
    born := if g.placed = 0 then s.clock else g.born } }
  let s := s.handOff n
  if g.walk.isSome then s.raiseT n s.slcTime else s

/-! ### The search -/

/-- The next task of a grid is placed on the first core that can hold it. -/
def State.placeTask (s : State) (cores : List Nat) (gid : Nat) : Option State :=
  match tget s.grids gid with
  | none => none
  | some g => ((searchOrder cores g.from_).find? fun n => (s.core n).canPlace gid g).map fun n => s.placeOn gid g n

/-- Tasks of a grid are placed until one finds no core; with how many there are left. -/
def State.placeTasks (cores : List Nat) (gid : Nat) : Nat → State → State × Nat
  | 0, s => (s, 0)
  | left + 1, s =>
    match s.placeTask cores gid with
    | none => (s, left + 1)
    | some t => State.placeTasks cores gid left t

/-- The whole grid is placed at once (R75). -/
def Grid.whole (g : Grid) : Bool := g.hdrs.length ≠ 1 || g.hdrs.any fun h => h.level ≠ 0

/-- The package with every core idle (R75). -/
def State.idle (s : State) : State :=
  { s with cores := s.cores.map fun e =>
      (e.1, { e.2 with ctxs := [], suspended := [], pipes := [], running := none }) }

/-- The search would fail on an idle mask (R75). No mask holds more than 1,152 tasks at once. -/
def State.tooLarge (s : State) (cores : List Nat) (gid : Nat) (g : Grid) : Bool :=
  let n := if g.whole then g.record.grid else 1
  if 1152 < n then true else ((State.placeTasks cores gid n s.idle).2 ≠ 0)

/-- The orientation of a chosen gang slot is cyclic (R258). -/
def State.gangCyclic (s : State) (gid : Nat) : Bool :=
  s.cores.any fun k => k.2.ctxs.any fun x =>
    x.2.task.grid = gid && match x.2.task.gslot with | some g => k.2.slotCyclic g | none => false

/-- What the dispatcher's attempt to place the rest of a grid comes to: nothing, some or all of it, or a refusal for a cyclic
orientation. -/
inductive Tried where
  | none
  | some (s : State)
  | cycle

/-- An attempt to place what is left of a grid (R75, R258). -/
def State.tryPlace (s : State) (gid : Nat) : Tried :=
  match tget s.grids gid with
  | Option.none => .none
  | Option.some g =>
    let left := g.record.grid - g.placed
    if g.whole ∧ 1152 < left then .none
    else
      let (t, rest) := State.placeTasks (s.maskCores g.queue) gid (min left 1153) s
      let done := decide (rest = 0 ∧ left ≤ 1153)
      if g.whole then
        if !done then .none
        else if t.gangCyclic gid then .cycle
        else .some (t.setQueue g.queue { t.queue g.queue with waiting := Option.none })
      else if done then .some (t.setQueue g.queue { t.queue g.queue with waiting := Option.none })
      else if rest = min left 1153 then .none
      else .some t

/-! ### Retirement -/

/-- The step of a walk has a coarse failure, where the walk still awaits its start (R237). -/
def State.failStep (s : State) (w : WalkStep) : State :=
  match tget s.chains w.chain with
  | none => s
  | some c =>
    match c.phase with
    | .walk _ (some n) =>
      if w = ⟨w.chain, n, c.opened, c.walks⟩ then (s.coarseFail w.chain n).serveSlices else s
    | _ => s

/-- The coarse failure of an entry that a walk queued. -/
def State.failWalk (s : State) (w : Option WalkStep) : State := match w with | some w => s.failStep w | none => s

/-- A grid retires (R71, R80, R87, R237): its completion entry, its tail, the start that its walk awaits. -/
def State.retireGrid (s : State) (gid : Nat) (g : Grid) : State :=
  let s := { s with grids := tdel s.grids gid, barriers := s.barriers.filter fun b => b.grid != gid }
  let s := s.setQueue g.queue { s.queue g.queue with running := none, waiting := none }
  let s := if g.record.notify then
      s.complete g.queue { seq := g.seq, status := 0, done := g.done, ended := g.ended } else s
  let s := match g.tail with
    | none => s
    | some a =>
      match s.readRecord g.queue a 128 with
      | (s, some bs) => s.setQueue g.queue { s.queue g.queue with tail := some (bs, g.seq) }
      | (s, none) => s.complete g.queue { seq := g.seq, status := 7 }
  s.failWalk g.walk

/-- A grid whose tasks have all ended and whose contexts are free retires (R67, R80). -/
def State.retireOver (s : State) (gid : Nat) : State :=
  match tget s.grids gid with
  | none => s
  | some g => if g.live = 0 ∧ (g.cut ∨ g.placed = g.record.grid) then s.retireGrid gid g else s

/-- The task on a context has ended and its counters are 0 (R80). -/
def Ctx.over (x : Ctx) : Bool := x.run = .ended && x.cnt.st = 0 && x.cnt.rm = 0 && x.cnt.as = 0

/-- A core that a task has left: its pipes and its scratchpad are free once no mate holds them (R75, R182). -/
def Core.withoutTask (k : Core) (x : Ctx) : Core :=
  let named (p : Nat) : Bool := k.tasks.any fun y => y.task.popEnd.any (·.2 = p) || y.task.pushEnd.any (·.2 = p)
  { k with
    pipes := k.pipes.filter fun e => named e.1
    spad := if k.tasks.any fun y => y.task.spBase = x.task.spBase then k.spad else mcut k.spad x.task.spBase 4194304 }

/-- A core without a context whose task is over. -/
def Core.dropCtx (k : Core) (c : Nat) (x : Ctx) : Core := Core.withoutTask { k with ctxs := tdel k.ctxs c } x

/-- A task has been freed, and is counted in its grid (R71, R80). -/
def State.countFreed (s : State) (x : Ctx) : State :=
  match tget s.grids x.task.grid with
  | none => s
  | some g =>
    let g := { g with
      live := g.live - 1, done := g.done + (if x.trapped then 0 else 1), ended := g.ended + (if x.trapped then 1 else 0) }
    ({ s with grids := tset s.grids x.task.grid g } : State).retireOver x.task.grid

/-- A context is freed (R80), and the dispatcher hears its core (R331). -/
def State.freeContext (s : State) (n c : Nat) : State :=
  let x := s.ctx n c
  let s := s.hear n
  (s.setCore n ((s.core n).dropCtx c x)).countFreed x

/-- A task that ended while it was suspended is freed (R80, R349). -/
def State.freeSuspended (s : State) (n uid : Nat) (x : Ctx) : State :=
  let s := s.hear n
  let k := s.core n
  (s.setCore n (Core.withoutTask { k with suspended := tdel k.suspended uid } x)).countFreed x

/-- The task of a context of a core that is over is freed: the one on it, or one suspended from it. -/
def State.freeOver (s : State) (n c : Nat) : Option State :=
  if (s.ctx? n c).any Ctx.over then some (s.freeContext n c)
  else ((s.core n).suspended.find? fun e => e.2.slot = c && e.2.ctx.over).map fun e => s.freeSuspended n e.1 e.2.ctx

/-! ### Queues -/

/-- The unplaced work of a queue is discarded (R67): a waiting grid of which nothing is placed, the unplaced tasks of one
partly placed, and every accepted record. A walk's step has a coarse failure (R237). -/
def State.discardWork (s : State) (q : Nat) : State :=
  let x := s.queue q
  let steps := x.items.filterMap fun i => match i with | .walk _ w => some w | _ => none
  let s := s.setQueue q { x with items := [], timer := none, waiting := none }
  let (s, more) := match x.waiting with
    | none => (s, none)
    | some gid =>
      match tget s.grids gid with
      | none => (s, none)
      | some g =>
        if g.placed = 0 then
          (({ s with grids := tdel s.grids gid } : State).setQueue q { s.queue q with running := none }, g.walk)
        else (({ s with grids := tset s.grids gid { g with cut := true } } : State).retireOver gid, none)
  (more.toList ++ steps).foldl (fun s w => s.failStep w) s

/-- A queue is reset (R67). What retires with its unplaced work discarded writes its completion entry into the ring from entry 0. -/
def State.resetQueue (s : State) (q : Nat) : State :=
  let s := s.setQueue q { s.queue q with expected := 0, consumed := 0, cdone := 0 }
  (s.unitWrite (windowOf q + 0xA000) (natLe 8 0)).discardWork q

end Sys2Proof.Machine
end

