-- ==== Sys2Proof/Machine/Dispatcher.lean ====
section
/-! DEFINITION. What the dispatcher does of itself and what the host asks of it (R67 to R75, R80, R82, R83): each is an event
of the package, which brings its data in `State.input`. -/

namespace Sys2Proof.Machine

/-- An event of the package: what it brings is used up; where `g` gives none the event is not enabled and nothing else
changes. -/
def runEvent (s : State) (g : Input → State → Option State) : Host.Outcome State Fault Refusal :=
  let t := { s with input := .none }
  .next ((g s.input t).getD t)

/-! ### Queues as the management interface sets them (R67) -/

/-- The numbers of record slots that a queue may have. -/
def qsizeOk (n : Nat) : Bool := [16, 32, 64, 128, 256].contains n

/-- The settings are within their ranges (R67, R320). -/
def settingsOk (c : QueueCfg) : Bool :=
  10000 ≤ c.timeoutNs && c.timeoutNs ≤ 10000000 && c.troot % 2097152 = 0 && c.troot < Config.memBytes

def execQueueEnable (s : State) : Host.Outcome State Fault Refusal :=
  runEvent s fun i s =>
    match i with
    | .queueEnable q =>
      if 64 ≤ q then none
      else
        let s := s.resetQueue q
        some (State.monitor 256 (s.setQueue q { s.queue q with enable := true }) q)
    | _ => none

def execQueueDisable (s : State) : Host.Outcome State Fault Refusal :=
  runEvent s fun i s =>
    match i with
    | .queueDisable q =>
      if 64 ≤ q then none else some ((s.setQueue q { s.queue q with enable := false }).discardWork q)
    | _ => none

def execQueueSetQsize (s : State) : Host.Outcome State Fault Refusal :=
  runEvent s fun i s =>
    match i with
    | .queueSetQsize q n =>
      if 64 ≤ q ∨ !qsizeOk n then none
      else
        let s := s.resetQueue q
        some (State.monitor 256 (s.setQueue q { s.queue q with qsize := n }) q)
    | _ => none

def execQueueSettings (s : State) : Host.Outcome State Fault Refusal :=
  runEvent s fun i s =>
    match i with
    | .queueSettings q c => if 64 ≤ q ∨ !settingsOk c then none else some (s.setQueue q { s.queue q with cfg := c })
    | _ => none

/-! ### Records (R70, R72) -/

/-- The TIMEOUT of the watched slot of a queue has expired (R70). -/
def State.timeoutOver (s : State) (q : Nat) : Bool :=
  match (s.queue q).timer with
  | some t => decide (t + (s.queue q).cfg.timeoutNs ≤ s.gtime.toNat)
  | none => false

/-- The record that the monitor waits for is discarded (R70). -/
def State.discardLate (s : State) (q : Nat) : State :=
  let seq := (s.queue q).expected
  let s := s.setQueue q { s.queue q with expected := seq + 1, timer := none }
  State.monitor 256 (s.complete q { seq := seq, status := 1 }) q

def execRecordTimeout (s : State) : Host.Outcome State Fault Refusal :=
  runEvent s fun i s =>
    match i with
    | .recordTimeout q => if s.timeoutOver q then some (s.discardLate q) else none
    | _ => none

/-- The first record that is still in the window, with what stands before and behind it. -/
def splitHeld : List QItem → Option (List QItem × BitVec 32 × List QItem)
  | [] => none
  | .inWindow seq :: rest => some ([], seq, rest)
  | x :: rest => (splitHeld rest).map fun r => (x :: r.1, r.2.1, r.2.2)

/-- The oldest record in the window enters the on-chip ring, or is discarded where its check fails (R72). -/
def State.refill (s : State) (q : Nat) : Option State :=
  let x := s.queue q
  match splitHeld x.items with
  | none => none
  | some (before, seq, behind) =>
    if 16 ≤ x.onChip then none
    else
      let bs := s.slotBytes q seq
      if fieldAt bs 120 4 = seq.toNat && crcOk bs then
        some ((s.setQueue q { x with items := before ++ .onChip bs :: behind, consumed := seq }).unitWrite
          (windowOf q + 0xA000) (wordLe 4 seq))
      else some ((s.setQueue q { x with items := before ++ behind }).complete q { seq := seq, status := 6 })

def execOnChipRingRefill (s : State) : Host.Outcome State Fault Refusal :=
  runEvent s fun i s => match i with | .onChipRingRefill q => s.refill q | _ => none

/-! ### The head of a queue (R74) -/

/-- An entry at the head of a queue. -/
structure Head where
  bytes : List Byte
  seq : BitVec 32
  tail : Bool := false
  walk : Option WalkStep := none
  deriving DecidableEq, Repr

/-- The head of a queue and the queue without it: a tail launch comes first (R87). A record still in the window is not yet at
the head (R72). -/
def Queue.takeHead (x : Queue) : Option (Head × Queue) :=
  match x.tail with
  | some (bs, seq) => some ({ bytes := bs, seq := seq, tail := true }, { x with tail := none })
  | none =>
    match x.items with
    | .onChip bs :: rest => some ({ bytes := bs, seq := BitVec.ofNat 32 (fieldAt bs 120 4) }, { x with items := rest })
    | .walk bs w :: rest => some ({ bytes := bs, seq := 0xFFFFFFFF, walk := some w }, { x with items := rest })
    | _ => none

/-- What the checks of an entry come to: a refusal with its status, a push, or a grid with its headers. -/
inductive Checked where
  | bad (status : Nat)
  | push (r : Record)
  | grid (r : Record) (hs : List Header)
  deriving DecidableEq, Repr

/-- The header records of a launch record, read from local memory (R73); none where one cannot be read. -/
def State.readHeaders (s : State) (q : Nat) : List DWord → State × Option (List (List Byte))
  | [] => (s, some [])
  | a :: as =>
    match s.readRecord q a 64 with
    | (s, none) => (s, none)
    | (s, some bs) =>
      match State.readHeaders s q as with
      | (s, none) => (s, none)
      | (s, some rest) => (s, some (bs :: rest))

/-- The roles of a record's headers (R73). -/
def rolesOk (kind : Nat) (hs : List Header) : Bool := hs.map (·.role) = if kind = 2 then [1, 2, 3] else [0]

/-- The checks of R68, R73 and R87 on an entry. A bad header comes before a refusal for PIPEMAP or JOBTAG (DESIGN CHOICE, log 73). -/
def State.checkHead (s : State) (q : Nat) (h : Head) : State × Checked :=
  let r := parseRecord h.bytes
  let refused := if h.tail then 7 else 2
  if !recordOk h.bytes ∨ (h.tail ∧ (!crcOk h.bytes ∨ r.kind = 1)) then (s, .bad refused)
  else if r.kind = 1 then (s, .push r)
  else
    match s.readHeaders q (if r.kind = 2 then [r.kaddr, r.kaddr2, r.kaddr3] else [r.kaddr]) with
    | (s, none) => (s, .bad 3)
    | (s, some bss) =>
      let hs := bss.map parseHeader
      if !bss.all headerOk ∨ !rolesOk r.kind hs then (s, .bad 3)
      else if (r.jobtag = 0 ∧ hs.any (fun h => h.level = 5)) ∨ (r.kind = 2 ∧ !pipemapOk r.pipemap (hs.map (·.npipe))) then
        (s, .bad refused)
      else (s, .grid r hs)

/-- An entry is refused with a status (R71, R237). -/
def State.refuseHead (s : State) (q : Nat) (h : Head) (status : Nat) : State :=
  (s.complete q { seq := h.seq, status := status }).failWalk h.walk

/-- A KIND 1 record performs its push (R71, R90). -/
def State.pushRecord (s : State) (q : Nat) (h : Head) (r : Record) : State :=
  let s := if 4096 ≤ s.heap.length then s.complete q { seq := h.seq, status := 8 }
    else
      let s := { s with heap := heapInsert (heapEntry r.deadline r.key) s.heap }
      if r.notify then s.complete q { seq := h.seq, status := 0 } else s
  s.failWalk h.walk

/-- A waiting grid is refused for a cyclic orientation (R258). -/
def State.refuseCycle (s : State) (q gid : Nat) : State :=
  match tget s.grids gid with
  | none => s
  | some g =>
    let s := { s with grids := tdel s.grids gid }
    let s := s.setQueue q { s.queue q with running := none, waiting := none }
    (s.complete q { seq := g.seq, status := 5 }).failWalk g.walk

/-- The search for a waiting grid is made again; true where it placed something or refused the grid. -/
def State.searchAgain (s : State) (q gid : Nat) : State × Bool :=
  match s.tryPlace gid with
  | .none => (s, false)
  | .some t => (t, true)
  | .cycle => (s.refuseCycle q gid, true)

/-- A grid comes to the head of its queue (R75). -/
def State.takeGrid (s : State) (q : Nat) (h : Head) (r : Record) (hs : List Header) : State × Bool :=
  let (gid, s) := s.takeId
  let g : Grid := { queue := q, record := r, hdrs := hs, seq := h.seq, walk := h.walk, taken := s.clock }
  let t := { s with grids := tset s.grids gid g }
  if t.tooLarge (t.maskCores q) gid g then (s.refuseHead q h 4, true)
  else (t.setQueue q { t.queue q with running := some gid, waiting := some gid }).searchAgain q gid

/-- The dispatcher serves a queue (R74); true where it did something that ends its round. -/
def State.serveQueue (s : State) (q : Nat) : State × Bool :=
  let x := s.queue q
  match x.waiting, x.running, x.takeHead with
  | some gid, _, _ => s.searchAgain q gid
  | none, some _, _ => (s, false)
  | none, none, none => (s, false)
  | none, none, some (h, y) =>
    match (s.setQueue q y).checkHead q h with
    | (s, .bad status) => (s.refuseHead q h status, true)
    | (s, .push r) => (s.pushRecord q h r, true)
    | (s, .grid r hs) => s.takeGrid q h r hs

/-- A round over queues in order, up to the first that is served. -/
def State.serveRound : List Nat → State → State
  | [], s => s
  | q :: qs, s =>
    match s.serveQueue q with
    | (t, true) => { t with served := q }
    | (t, false) => State.serveRound qs t

/-- The queues in the order in which the dispatcher serves them: after the one served last (R74). -/
def State.round (s : State) : List Nat := (List.range 64).map fun i => (s.served + 1 + i) % 64

/-- The dispatcher can serve a queue now: place some of its waiting grid, or take its head (R74). -/
def State.servable (s : State) (q : Nat) : Bool :=
  let x := s.queue q
  match x.waiting, x.running with
  | some gid, _ => match s.tryPlace gid with | .none => false | _ => true
  | none, some _ => false
  | none, none => x.takeHead.isSome

/-- The queue that the dispatcher serves next (R74). -/
def State.nextServed (s : State) : Option Nat := s.round.find? s.servable

def execDispatchHead (s : State) : Host.Outcome State Fault Refusal :=
  runEvent s fun _ s => some (State.serveRound s.round s)

def execPlacementRetry (s : State) : Host.Outcome State Fault Refusal :=
  runEvent s fun i s =>
    match i with
    | .placementRetry q =>
      if s.nextServed = some q then
        (s.queue q).waiting.map fun gid => { (s.searchAgain q gid).1 with
          served := q }
      else none
    | _ => none

def execContextFree (s : State) : Host.Outcome State Fault Refusal :=
  runEvent s fun i s =>
    match i with
    | .contextFree n c => s.freeOver n c
    | _ => none

/-! ### Barriers (R83) -/

/-- The tasks that are members of a domain of a grid (R77, R80). -/
def State.members (s : State) (gid level dom : Nat) : List Nat :=
  s.cores.flatMap fun k =>
    if domainOf level k.1 = dom then
      (k.2.tasks.filter fun x => x.task.grid = gid && x.run != .ended).map (·.task.uid)
    else []

/-- The slot is a `bar` of a level and number whose request is not answered. -/
def Bundle.waitsAt (b : Bundle) (level n : Nat) (p : Placed) : Bool :=
  tget b.answers p.pos = some .waiting &&
    match p.word.instr with | .bar f => f.d.toNat = level && f.a.toNat = n | _ => false

/-- A task's arrival is answered, and its core hears it (R82, R331). -/
def State.passBarrier (s : State) (level n uid : Nat) : State :=
  match s.cores.findSome? fun k => (k.2.findTask uid).map fun x => (k.1, x) with
  | none => s
  | some (m, x) =>
    match x.bundle.bind fun b => b.slots.find? (b.waitsAt level n) with
    | none => s
    | some p => (s.modCore m fun k => k.modTask uid fun x =>
        { x with bundle := x.bundle.map fun b => { b with answers := tset b.answers p.pos (.value 0) } }).handOff m

/-- A generation releases: each task that has arrived proceeds, and what came for the next generation opens it. -/
def State.releaseBarrier (s : State) (b : Barrier) : State :=
  let first := b.arrived.dedup
  let rest := { b with
    arrived := first.foldl (fun l u => l.erase u) b.arrived, peers := b.peers - 1, sent := false }
  let keep := s.barriers.filter fun x => !x.is b.grid b.level b.dom b.n
  let s := { s with barriers := if rest.arrived = [] ∧ rest.peers = 0 then keep else keep ++ [rest] }
  first.foldl (fun s u => s.passBarrier b.level b.n u) s

/-- The arrivals of this package at a level 5 barrier are sent, once for a generation. -/
def State.sendArrivals (s : State) (b : Barrier) : State :=
  match tget s.grids b.grid with
  | none => s
  | some g =>
    ({ s with barriers := s.barriers.map fun x => if x.is b.grid b.level b.dom b.n then { x with sent := true } else x } :
      State).send (.arrival g.record.jobtag b.n)

/-- Every member of a generation's domain has arrived or ended, and some task has arrived. A package of which every member has ended
sends no arrival to a generation of level 5 that peers have opened (DESIGN CHOICE, log 75). -/
def State.allArrived (s : State) (b : Barrier) : Bool :=
  b.arrived != [] && (s.members b.grid b.level b.dom).all fun u => b.arrived.contains u

/-- A generation goes on as far as it can (R83): `none` where it can do nothing. -/
def State.barrierStep (s : State) (b : Barrier) : Option State :=
  if !s.allArrived b then none
  else if b.level ≠ 5 then some (s.releaseBarrier b)
  else
    let t := if b.sent then s else s.sendArrivals b
    if 0 < b.peers then some (t.releaseBarrier b) else if b.sent then none else some t

def execBarrierRelease (s : State) : Host.Outcome State Fault Refusal :=
  runEvent s fun i s =>
    match i with
    | .barrierRelease g level dom n => (s.barriers.find? fun b => b.is g level dom n).bind s.barrierStep
    | _ => none

/-- The arrivals of another chip of a group at a level 5 barrier (R83). -/
def State.peerArrivals (s : State) (jobtag : BitVec 32) (n : Nat) : Option State :=
  match s.grids.find? fun g => g.2.record.jobtag = jobtag && jobtag != 0 with
  | none => none
  | some (gid, _) =>
    if s.barriers.any fun b => b.is gid 5 0 n then
      some { s with barriers := s.barriers.map fun b => if b.is gid 5 0 n then { b with peers := b.peers + 1 } else b }
    else some { s with barriers := s.barriers ++ [{ grid := gid, level := 5, dom := 0, n := n, peers := 1 }] }

/-- Nothing is taken from a node that has FAILED (R341). -/
def State.hearsNode (s : State) (node : Nat) : Bool := !(mget {} s.fabric.nodes node).failed

def execBarD5Exchange (s : State) : Host.Outcome State Fault Refusal :=
  runEvent s fun i s =>
    match i with
    | .barD5Exchange node j n => if s.hearsNode node then s.peerArrivals j n else none
    | _ => none

/-! ### Answers (R82) -/

def execDispatchAnswer (s : State) : Host.Outcome State Fault Refusal :=
  runEvent s fun i s =>
    match i with
    | .dispatchAnswer n c =>
      (s.ctx? n c).bind fun x =>
        if x.run = .blocked .answer ∧ x.bundle.all Bundle.answered then
          some (s.setCtx n c { x with run := .ready }) else none
    | _ => none

end Sys2Proof.Machine
end

