-- ==== Sys2Proof/Machine/EdgeOps.lean ====
section
/-! DEFINITION. The edge instructions (R252 to R257): requests of the cluster's edge unit. -/

namespace Sys2Proof.Machine

/-- The edge unit of a core's cluster answers a request: it hears the core's T and the core takes its time (R331). -/
def State.edgeAnswer (s : State) (e : Env) (v : DWord) : State :=
  let c := e.n / 8
  let t := max (max (mget 0 s.edgeT c) (s.core e.n).t) s.mem.rt
  ((({ s with edgeT := mset 0 s.edgeT c t }.raiseT e.n t).irrevocable e.n e.c)).reply e (.value v)

/-- A value of an entry (R252, R257): reserved bits 0, two different roles. -/
def edgeOk (v : DWord) : Bool :=
  !edgeValid v || (v.extractLsb' 16 47 = 0 && v.extractLsb' 9 3 = 0 && edgeA v ≠ 0 && edgeB v ≠ 0 && edgeA v ≠ edgeB v)

/-- An entry is not valid, or is incident to a role. -/
def edgeFreeOr (v : DWord) (role : Nat) : Bool := !edgeValid v || edgeIncident v role

/-- An entry of a core's table set, with the turns of dead members that follow (R259). -/
def Core.setEdge (k : Core) (i : Nat) (v : DWord) (dead : List Nat) : Core :=
  Core.settleEdges { k with edges := mset 0 k.edges i v } (i / 32) dead

/-- `er.set` (R257): the new core, or the trap. -/
def Core.edgeSet (k : Core) (x : Ctx) (i : Nat) (v : DWord) : Except (BitVec 8) Core :=
  let g := i / 32
  if !edgeOk v then .error causeIllegalOperand
  else if !k.gangHeld g then .ok { k with edges := mset 0 k.edges i v }
  else
    let role := x.task.hdr.role
    let new := k.setEdge i v (k.deadRoles x.task.mates)
    if x.task.gslot ≠ some g ∨ !edgeFreeOr v role ∨ !edgeFreeOr (mget 0 k.edges i) role then .error causeResource
    else if edgeValid v ∧ edgePoints v ≠ role ∧ Core.slotCyclic { k with edges := mset 0 k.edges i v } g then
      .error causeEdgeCycle
    else .ok new

def execErSet (f : Fields) (s : State) : Host.Outcome State Fault Refusal :=
  runRequest s
    (fun e s =>
      match (s.core e.n).edgeSet e.x ((e.sA f).toNat % 64) (e.sB f) with
      | .error cause => .trap cause none
      | .ok k => .done ((s.setCore e.n k).edgeAnswer e 0))
    fun _ s _ => s

def execErGet (f : Fields) (s : State) : Host.Outcome State Fault Refusal :=
  runRequest s (fun e s => .done (s.edgeAnswer e (mget 0 (s.core e.n).edges ((e.sA f).toNat % 64)))) (putAnswer f)

/-- The status of a member (R254). -/
def Core.memberWord (k : Core) (x : Ctx) : DWord :=
  match x.task.gslot with
  | none => 0
  | some g =>
    let dead := (k.deadRoles x.task.mates).foldl (fun n r => n + 2 ^ r) 0
    BitVec.ofNat 64 (2 ^ 32 * x.fires.toNat + 64 * g + 16 * x.task.hdr.role + dead + 1)

def execErGetS (f : Fields) (s : State) : Host.Outcome State Fault Refusal :=
  runRequest s (fun e s => .done (s.edgeAnswer e ((s.core e.n).memberWord e.x))) (putAnswer f)

/-- The edge unit has answered a firing slot, which fires when its bundle ends (R255, R256). -/
def runFire (s : State) (a : Env → EndAct) : Host.Outcome State Fault Refusal :=
  runRequest s (fun e s => .done (s.edgeAnswer e 0)) fun e s _ =>
    s.modBundle e.n e.c fun b => { b with acts := b.acts ++ [a e] }

def execYieldEr (s : State) : Host.Outcome State Fault Refusal := runFire s fun _ => .yieldEr

def execErIdle (f : Fields) (s : State) : Host.Outcome State Fault Refusal :=
  runFire s fun e => .erIdle ((e.sA f).toNat % 2 ^ 32)

end Sys2Proof.Machine
end

