-- ==== Sys2Proof/Machine/VectorConvert.lean ====
section
/-! DEFINITION. Conversions of vector lanes (R132, R141 to R144, R173 to R176). -/

namespace Sys2Proof.Machine

/-! ### vcvt (R173) -/

/-- Part `n` of a lane of parts of `w` bits. -/
def partOf (a : Word) (w n : Nat) : Nat := a.toNat / 2 ^ (w * n) % 2 ^ w

/-- A lane with part `n` of `w` bits replaced. -/
def putPart (d : Word) (w n v : Nat) : Word :=
  BitVec.ofNat 32 (d.toNat - 2 ^ (w * n) * partOf d w n + 2 ^ (w * n) * (v % 2 ^ w))

/-- The format and the width of the narrow side of a kind. -/
def cvtFmt (kind : Nat) : Fmt :=
  match kind with
  | 4 | 6 => fmtBf16
  | 5 | 7 => fmtF16
  | 8 | 13 => fmtE4M3
  | 9 | 14 => fmtE5M2
  | 10 => fmtE2M3
  | _ => fmtE3M2

/-- An integer that has been converted. -/
def intCode (w : Nat) (x : Int × BitVec 5) : Nat × BitVec 5 := ((BitVec.ofInt w x.1).toNat, x.2)

/-- A byte as a signed integer. -/
def byteInt (b : Nat) : Int := (BitVec.ofNat 8 b).toInt

/-- One lane of `vcvt`: `a` is the source, `d` the old destination. -/
def convertLane (rm : Rnd) (kind n : Nat) (a d : Word) : Word × BitVec 5 :=
  let wide (x : Num) : Word × BitVec 5 := let r := fmtF32.round rm x; (BitVec.ofNat 32 r.1, r.2)
  let whole (r : Nat × BitVec 5) : Word × BitVec 5 := (BitVec.ofNat 32 r.1, r.2)
  let into (w : Nat) (r : Nat × BitVec 5) : Word × BitVec 5 := (putPart d w n r.1, r.2)
  match kind with
  | 0 => wide (.ofInt a.toInt)
  | 1 => wide (.ofInt a.toNat)
  | 2 => whole (intCode 32 (roundToInt rm (-2147483648) 2147483647 (f32 a)))
  | 3 => whole (intCode 32 (roundToInt rm 0 4294967295 (f32 a)))
  | 4 | 5 => into 16 ((cvtFmt kind).round rm (f32 a))
  | 6 | 7 => wide ((cvtFmt kind).value (partOf a 16 n))
  | 8 | 9 | 10 | 11 => into 8 ((cvtFmt kind).round rm (f32 a))
  | 12 => into 8 (intCode 8 (roundToInt rm (-128) 127 (f32 a)))
  | 13 | 14 => wide ((cvtFmt kind).value (partOf a 8 n))
  | _ => wide (.ofInt (byteInt (partOf a 8 n)))

/-- The bits of a lane that a kind writes: those of its part, for a kind that reads D (R173). -/
def cvtBits (kind n : Nat) : Word :=
  if kind = 4 ∨ kind = 5 then 0xFFFF <<< (16 * n) else if 8 ≤ kind ∧ kind ≤ 12 then 0xFF <<< (8 * n) else 0xFFFFFFFF

def execVcvt (f : Fields) (s : State) : Host.Outcome State Fault Refusal :=
  runSlot s fun e s => s.vecBits (.vcvt f) (cvtBits (cvtKind f) (cvtPart f)) (fun e a _ d r =>
    mapLanes e.b.latch.active fun k =>
      convertLane (e.b.latch.ctl.rnd (lane r k) 1 0) (cvtKind f) (cvtPart f) (lane a k) (lane d k)) e

/-! ### vround (R174) -/

/-- One lane of `vround`. -/
def roundLane (rm : Rnd) (fmt : Nat) (a : Word) : Word × BitVec 5 :=
  if fmt = 10 then
    match f32 a with
    | .fin s n d e =>
      let (x, y) := scaled n d e
      let (i, inexact) := roundInt rm s x y
      (toF32 (.fin s i 1 0), if inexact then flagNx else 0)
    | x => (toF32 x, 0)
  else
    let g := if fmt = 3 then fmtE4M3 else if fmt = 4 then fmtE5M2 else elementFmt fmt
    let (c, fl) := g.round rm (f32 a)
    (toF32 (g.value c), fl)

def execVround (f : Fields) (s : State) : Host.Outcome State Fault Refusal :=
  runLanes s (.vround f) fun e a _ _ r => roundLane (e.b.latch.ctl.rnd r 1 0) f.b.toNat a

/-! ### vquant and vdeq (R175, R176) -/

/-- The target and the band of sB are legal. -/
def quantOk (v : DWord) : Bool :=
  let t := v.toNat % 16
  let band := bf16 (v.extractLsb' 16 16)
  [1, 2, 8, 9].contains t || (t = 0 && band.isFinite && !band.neg && !band.isZero)

/-- Elements of a block (R141, R144). -/
def blockLen (target : Nat) : Nat := if target = 0 then 8 else 32

/-- The bytes of the elements of a block (R141, R144). -/
def packElements (target : Nat) (cs : List Nat) : List Byte :=
  if target = 0 then natLe 4 (cs.foldr (fun c v => c % 16 + 16 * v) 0)
  else if fp6 target then packBlock (cs.map (BitVec.ofNat 8))
  else cs.map (BitVec.ofNat 8)

/-- The planes that `vquant` writes, with the flags (R175). -/
def quantLanes (ctl : Ctl) (v : DWord) (a r : Lanes) : Lanes × BitVec 5 :=
  let target := v.toNat % 16
  let band := bf16 (v.extractLsb' 16 16)
  let len := blockLen target
  let blocks := (List.range (1024 / len)).map fun k =>
    let xs := (List.range len).map fun i => f32 (lane a (len * k + i))
    let rm (i : Nat) : Rnd := ctl.rnd (lane r (len * k + i)) 1 0
    if target = 0 then quantB4Block rm band xs else quantMxBlock rm target xs
  let elems := blocks.flatMap fun b => packElements target (b.2.map (·.1))
  let scales := blocks.map fun b => BitVec.ofNat 8 b.1
  let bytes := elems ++ List.replicate (3072 - elems.length) 0 ++ scales ++ List.replicate (1024 - scales.length) 0
  (lanesOf bytes, blocks.foldl (fun fl b => b.2.foldl (fun fl c => fl ||| c.2) fl) 0)

def execVquant (f : Fields) (s : State) : Host.Outcome State Fault Refusal :=
  runSlot s fun e s =>
    if !quantOk (e.sB f) then .trap causeIllegalOperand none
    else
      let (v, fl) := quantLanes e.b.latch.ctl (e.sB f) (e.vecA f) (e.rs 0)
      if e.b.latch.ctl.fpTraps fl then fpTrap fl
      else .done ((s.modCtx e.n e.c fun x => x.raise fl).writeVec e f.d.toNat 4 allOnes v)

/-- Byte `j` of the image of a register (R159). -/
def imageByte (a : Lanes) (j : Nat) : Nat := partOf (lane a (j / 4)) 8 (j % 4)

/-- The element code of lane `l` (R141, R144). -/
def elementCode (target : Nat) (a : Lanes) (l : Nat) : Nat :=
  if target = 0 then imageByte a (l / 2) / 16 ^ (l % 2) % 16
  else if fp6 target then
    leNat ((List.range 24).map fun j => BitVec.ofNat 8 (imageByte a (24 * (l / 32) + j))) / 64 ^ (l % 32) % 64
  else imageByte a l

/-- One lane of `vdeq` (R176): the exact product of element, scale and band. -/
def dequantLane (v : DWord) (a : Lanes) (l : Nat) : Num :=
  let target := v.toNat % 16
  let x := (elementFmt target).value (elementCode target a l)
  let sc := imageByte a (3072 + l / blockLen target)
  if target = 0 then ((x.mul (fmtE3M5.value sc)).1.mul (bf16 (v.extractLsb' 16 16))).1 else (x.mul (e8m0Value sc)).1

def execVdeq (f : Fields) (s : State) : Host.Outcome State Fault Refusal :=
  runSlot s fun e s =>
    if !quantOk (e.sB f) then .trap causeIllegalOperand none
    else
      s.vecBody (.vdeq f) (fun e a _ _ r => mapLanes e.b.latch.active fun l =>
        let y := fmtF32.round (e.b.latch.ctl.rnd (lane r l) 1 0) (dequantLane (e.sB f) a l)
        (BitVec.ofNat 32 y.1, y.2)) e

/-! ### vsplit3 (R132) -/

/-- RoundNEBf16 with overflow to the largest finite value. -/
def bf16Sat (x : Num) : BitVec 16 :=
  let c := toBf16 x
  if (bf16 c).isInf ∧ x.isFinite then (if x.neg then 0xFF7F else 0x7F7F) else c

/-- hi, mid and lo of a value (R132). -/
def splitTerms (w : Word) : BitVec 16 × BitVec 16 × BitVec 16 :=
  let x := f32 w
  if !x.isFinite then (toBf16 x, 0, 0)
  else
    let hi := bf16Sat x
    let d := x.sub (bf16 hi)
    let mid := toBf16 d
    (hi, mid, toBf16 (d.sub (bf16 mid)))

/-- The value e_i: the lanes of A, then those of B. -/
def splitSource (a b : Lanes) (i : Nat) : Word := if i < 1024 then lane a i else lane b (i - 1024)

def execVsplit3 (f : Fields) (s : State) : Host.Outcome State Fault Refusal :=
  runSlot s fun e s =>
    let act := e.b.latch.active
    let src := splitSource (e.vecA f) (e.vecB f)
    let plane (g : BitVec 16 × BitVec 16 × BitVec 16 → BitVec 16) : Lanes :=
      fillLanes act fun l => halves (g (splitTerms (src (2 * l)))).toNat (g (splitTerms (src (2 * l + 1)))).toNat
    let d := f.d.toNat
    .done (((s.writeVec e d 4 act (plane (·.1))).writeVec e (d + 1) 4 act (plane (·.2.1))).writeVec e (d + 2) 4 act
      (plane (·.2.2)))

end Sys2Proof.Machine
end

