-- ==== Sys2Proof/Machine/VectorFloat.lean ====
section
/-! DEFINITION. Floating-point vector instructions (R164 to R166), reductions (R172), and the time-parallel correction
(R177). -/

namespace Sys2Proof.Machine

/-! ### Values of a lane -/

/-- A lane computed value by value: as f32, or with MD 1 as two bf16 halves (R149, R160). `rnd n j` rounds result j of n. -/
def perValue (md : Bool) (rnd : Nat → Nat → Rnd) (g : Rnd → Num → Num → Num → Num × BitVec 5) (a b d : Word) :
    Word × BitVec 5 :=
  if md then
    let h (j : Nat) (part : Word → BitVec 16) : Nat × BitVec 5 :=
      fmtBf16.result (rnd 2 j) (g (rnd 2 j) (bf16 (part a)) (bf16 (part b)) (bf16 (part d)))
    let lo := h 0 lowHalf
    let hi := h 1 highHalf
    (halves lo.1 hi.1, lo.2 ||| hi.2)
  else
    let r := fmtF32.result (rnd 1 0) (g (rnd 1 0) (f32 a) (f32 b) (f32 d))
    (BitVec.ofNat 32 r.1, r.2)

/-- A slot of the floating-point elementwise group. -/
def runFloat (s : State) (i : Instr) (md : Bool) (g : Rnd → Num → Num → Num → Num × BitVec 5) :
    Host.Outcome State Fault Refusal :=
  runLanes s i fun e a b d r => perValue md (fun n j => e.b.latch.ctl.rnd r n j) g a b d

/-- As `runFloat`, for an instruction that is exact and raises no flag (R165). -/
def runExact (s : State) (i : Instr) (md : Bool) (g : Num → Num → Num) : Host.Outcome State Fault Refusal :=
  runBits s i fun a b d => (perValue md (fun _ _ => rne) (fun _ x y _ => (g x y, 0)) a b d).1

/-! ### Elementwise -/

def execVadd (f : Fields) (s : State) : Host.Outcome State Fault Refusal :=
  runFloat s (.vadd f) f.md fun r a b _ => a.add r.rdn b

def execVsub (f : Fields) (s : State) : Host.Outcome State Fault Refusal :=
  runFloat s (.vsub f) f.md fun r a b _ => a.add r.rdn b.negate

def execVmul (f : Fields) (s : State) : Host.Outcome State Fault Refusal :=
  runFloat s (.vmul f) f.md fun _ a b _ => a.mul b

def execVfma (f : Fields) (s : State) : Host.Outcome State Fault Refusal :=
  runFloat s (.vfma f) f.md fun r a b d => d.fma r.rdn a b

def execVfms (f : Fields) (s : State) : Host.Outcome State Fault Refusal :=
  runFloat s (.vfms f) f.md fun r a b d => d.fma r.rdn a.negate b

/-- The order of R165, in which −0 is less than +0. -/
def Num.below (x y : Num) : Bool := x.lt y || (x.eq y && x.neg && !y.neg)

/-- The lesser and the greater of two operands (R165). -/
def lesser (x y : Num) : Num := if x.isNan then y else if y.isNan then x else if y.below x then y else x
def greater (x y : Num) : Num := if x.isNan then y else if y.isNan then x else if x.below y then y else x

def execVmin (f : Fields) (s : State) : Host.Outcome State Fault Refusal := runExact s (.vmin f) f.md lesser

def execVmax (f : Fields) (s : State) : Host.Outcome State Fault Refusal := runExact s (.vmax f) f.md greater

def execVabs (f : Fields) (s : State) : Host.Outcome State Fault Refusal := runExact s (.vabs f) f.md fun a _ => a.abs

def execVneg (f : Fields) (s : State) : Host.Outcome State Fault Refusal := runExact s (.vneg f) f.md fun a _ => a.negate

/-! ### Compares -/

/-- A relation of a lane: with MD 1 it must hold for both halves (R166). -/
def bothHalves (md : Bool) (g : Num → Num → Bool) (a b : Word) : Bool :=
  if md then g (bf16 (lowHalf a)) (bf16 (lowHalf b)) && g (bf16 (highHalf a)) (bf16 (highHalf b)) else g (f32 a) (f32 b)

def execVcmpEq (f : Fields) (s : State) : Host.Outcome State Fault Refusal :=
  runCompare s (.vcmpEq f) (bothHalves f.md Num.eq)

def execVcmpLt (f : Fields) (s : State) : Host.Outcome State Fault Refusal :=
  runCompare s (.vcmpLt f) (bothHalves f.md Num.lt)

def execVcmpLe (f : Fields) (s : State) : Host.Outcome State Fault Refusal :=
  runCompare s (.vcmpLe f) (bothHalves f.md Num.le)

def execVcmpUn (f : Fields) (s : State) : Host.Outcome State Fault Refusal :=
  runCompare s (.vcmpUn f) (bothHalves f.md fun x y => x.isNan || y.isNan)

/-! ### Reductions (R172) -/

/-- The exact sum of values, with the special cases of R172; a NaN raises no flag, +∞ with −∞ is invalid. -/
def sumValues (rdn : Bool) (vs : List Num) : Num × BitVec 5 :=
  if vs.any Num.isNan then (.nan, 0)
  else if vs.contains (.inf false) ∧ vs.contains (.inf true) then (.nan, flagNv)
  else if vs.contains (.inf false) then (.inf false, 0)
  else if vs.contains (.inf true) then (.inf true, 0)
  else
    let t := vs.foldl (fun t v => if v.isZero then t else (t.add false v).1) (.zero false)
    if !t.isZero then (t, 0)
    else if vs.all Num.isZero then (.zero (vs.all Num.neg || (vs.any Num.neg && rdn)), 0)
    else (.zero rdn, 0)

/-- The row or column of a lane. -/
def groupOf (row : Bool) (i : Nat) : Nat := if row then i / 64 else i % 64

/-- The active lanes of a row or a column, ascending. -/
def groupLanes (row : Bool) (act : Mask) (g : Nat) : List Nat :=
  (if row then (List.range 64).map fun c => 64 * g + c else (List.range 16).map fun r => 64 * r + g).filter
    fun i => act.getLsbD i

/-- A reduction: the result of each row or column with an active lane, in every active lane of it (R172). -/
def reduceLanes (row : Bool) (act : Mask) (g : List Nat → Word × BitVec 5) : Lanes × BitVec 5 :=
  let rs := (List.range (if row then 16 else 64)).map fun k =>
    match groupLanes row act k with
    | [] => ((0 : Word), (0 : BitVec 5))
    | ls => g ls
  (fillLanes act fun i => (rs.getD (groupOf row i) (0, 0)).1, rs.foldl (fun f r => f ||| r.2) 0)

/-- A slot that reduces rows or columns, value by value. -/
def runReduce (s : State) (i : Instr) (row md : Bool) (g : Rnd → List Num → Num × BitVec 5) : Host.Outcome State Fault Refusal :=
  runVec s i fun e a _ _ r =>
    reduceLanes row e.b.latch.active fun ls =>
      let rnd (n j : Nat) : Rnd := e.b.latch.ctl.rnd (lane r (ls.headD 0)) n j
      if md then
        let h (j : Nat) (part : Word → BitVec 16) : Nat × BitVec 5 :=
          fmtBf16.result (rnd 2 j) (g (rnd 2 j) (ls.map fun l => bf16 (part (lane a l))))
        let lo := h 0 lowHalf
        let hi := h 1 highHalf
        (halves lo.1 hi.1, lo.2 ||| hi.2)
      else
        let x := fmtF32.result (rnd 1 0) (g (rnd 1 0) (ls.map fun l => f32 (lane a l)))
        (BitVec.ofNat 32 x.1, x.2)

/-- The greatest or the least of values, which rounds nothing. -/
def pickValues (g : Num → Num → Num) (_ : Rnd) (vs : List Num) : Num × BitVec 5 := (vs.foldl g .nan, 0)

def execVsumR (f : Fields) (s : State) : Host.Outcome State Fault Refusal :=
  runReduce s (.vsumR f) true f.md fun r vs => sumValues r.rdn vs

def execVmaxR (f : Fields) (s : State) : Host.Outcome State Fault Refusal :=
  runReduce s (.vmaxR f) true f.md (pickValues greater)

def execVminR (f : Fields) (s : State) : Host.Outcome State Fault Refusal :=
  runReduce s (.vminR f) true f.md (pickValues lesser)

def execVsumC (f : Fields) (s : State) : Host.Outcome State Fault Refusal :=
  runReduce s (.vsumC f) false f.md fun r vs => sumValues r.rdn vs

def execVmaxC (f : Fields) (s : State) : Host.Outcome State Fault Refusal :=
  runReduce s (.vmaxC f) false f.md (pickValues greater)

def execVminC (f : Fields) (s : State) : Host.Outcome State Fault Refusal :=
  runReduce s (.vminC f) false f.md (pickValues lesser)

/-! ### The time-parallel correction (R177) -/

/-- The values of a lane: one f32, or two bf16 halves. -/
def laneValues (md : Bool) (w : Word) : List Num := if md then [bf16 (lowHalf w), bf16 (highHalf w)] else [f32 w]

/-- P of R177: the greatest |U − Fold|, rounded up. -/
def jumpNorm (us folds : List Num) : Word :=
  if us.any fun u => !u.isFinite then f32Inf
  else BitVec.ofNat 32 (fmtF32.roundUp ((us.zip folds).foldl (fun m p => m.max (p.1.sub p.2).abs) (.zero false)))

def execVcorr (f : Fields) (s : State) : Host.Outcome State Fault Refusal :=
  runSlot s fun e s =>
    let act := e.b.latch.active
    let new := e.vecA f
    let fold := e.vecB f
    let old := e.b.latch.vreg f.d.toNat
    let (u, fl) := mapLanes act fun i =>
      perValue f.md (fun n j => e.b.latch.ctl.rnd (lane (e.rs 0) i) n j)
        (fun r a b d => sumValues r.rdn [a, b, d.negate]) (lane new i) (lane fold i) (lane old i)
    if e.b.latch.ctl.fpTraps fl then fpTrap fl
    else
      let ls := (List.range 1024).filter fun i => act.getLsbD i
      let p := jumpNorm (ls.flatMap fun i => laneValues f.md (lane u i)) (ls.flatMap fun i => laneValues f.md (lane fold i))
      let s := s.modCtx e.n e.c fun x => x.raise fl
      .done ((s.writeVec e f.d.toNat 4 act u).writeVec e (f.d.toNat + 1) 4 act (fillLanes act fun _ => p))

end Sys2Proof.Machine
end

