-- ==== Sys2Proof/Machine/MatrixEngine.lean ====
section
/-! DEFINITION. What the matrix engine computes: chunk sums (R133, R156, R157), cell patterns (R203, R204), compressed
operands (R205 to R207), the epilogue (R210 to R212), accumulation into rows (R214), projection passes (R288, R299), and
the execution and retirement of the entries of its queue (R189, R201, R209). -/

namespace Sys2Proof.Machine

/-! ### The elements of a ring row -/

/-- The 16-bit codes of some bytes. -/
def halfCodes : List Byte → List Nat
  | a :: b :: bs => (a.toNat + 256 * b.toNat) :: halfCodes bs
  | _ => []

/-- The element codes of a ring row (R134, R141, R146). -/
def ringCodes (fmt : Nat) (bs : List Byte) : List Nat :=
  if fmt = 0 then bs.flatMap fun b => [b.toNat % 16, b.toNat / 16]
  else if fmt = 5 ∨ fmt = 6 then halfCodes bs
  else bs.map BitVec.toNat

/-- The nibbles of a row, the first of each pair low. -/
def packNibbles : List Nat → List Byte
  | a :: b :: cs => BitVec.ofNat 8 (a % 16 + 16 * (b % 16)) :: packNibbles cs
  | _ => []

/-- The bytes of a ring row from its element codes. -/
def ringBytes (fmt : Nat) (cs : List Nat) : List Byte :=
  if fmt = 0 then packNibbles cs
  else if fmt = 5 ∨ fmt = 6 then cs.flatMap (natLe 2)
  else cs.map (BitVec.ofNat 8)

/-- Value of an element code (R136, R140). -/
def elementValue (fmt code : Nat) : Num := if fmt = 7 then .ofInt (byteInt code) else (elementFmt fmt).value code

/-- Value of a scale code (R142, R144). -/
def scaleValue (fmt code : Nat) : Num := if fmt = 0 then fmtE3M5.value code else e8m0Value code

def Tile.rowBytes (t : Tile) (m : SMap Byte) (r : Nat) : List Byte := readBytes m (t.base + 128 * r) 128

/-- The scale bytes of a row (R182). -/
def Tile.scaleRow (t : Tile) (m : SMap Byte) (r : Nat) : List Byte :=
  let n := scaleBytes t.fmt t.cmp
  readBytes m (t.scale + n * r) n

/-- Value × Scale of the elements of a ring row (R156, R206). -/
def Tile.values (t : Tile) (m : SMap Byte) (r : Nat) : List Num :=
  let vs := (ringCodes t.fmt (t.rowBytes m r)).map (elementValue t.fmt)
  if scaledFmt t.fmt then
    let sc := (t.scaleRow m r).map fun b => scaleValue t.fmt b.toNat
    let per := if t.cmp then blockLen t.fmt / 2 else blockLen t.fmt
    vs.zipIdx.map fun (v, k) => (v.mul (sc.getD (k / per) .nan)).1
  else vs

/-- Elements of a ring row (R134). -/
def rowElements (fmt : Nat) : Nat := if fmt = 0 then 256 else if fmt = 5 ∨ fmt = 6 then 64 else 128

/-! ### Chunk sums and accumulation -/

/-- The term of an element pair under a cell code (R203, R204). -/
def cellTerm (code : Nat) (a b : Num) : Num :=
  match code with
  | 1 => (a.sub b).abs
  | 2 => if a.isNan ∨ b.isNan then .nan else if b.le a then a else .zero false
  | _ => (a.mul b).1

/-- The chunk sum of some terms; a zero enters as +0 (R156, R157). -/
def chunkSum (ts : List Num) : Num :=
  let t := (sumValues false ts).1
  if t.isZero then .zero false else t

/-- The exception counts of a step (R209): whether its result counts in OFCNT and in NVCNT. -/
def stepCounts (infinite nan : Bool) (operands : List Num) : Nat × Nat :=
  ((infinite && operands.all Num.isFinite).toNat, (nan && operands.all fun x => !x.isNan).toNat)

/-- A sum that enters an accumulator or a row: the result with its counts. -/
def addStep (acc : Word) (t : Num) (operands : List Num) : Word × Nat × Nat :=
  let y := toF32 ((f32 acc).add false t).1
  (y, stepCounts (f32 y).isInf (isNan y) (f32 acc :: operands))

/-- A row of operand A by chunks: the element at each position with its cell code, none at a pruned position. -/
abbrev ARow := List (List (Option (Nat × Num)))

/-- One element of an accumulator (R133): the chunks of rows m of A and n of B in ascending K. -/
def productElement (acc : Word) (a : ARow) (b : List (List Num)) : Word × Nat × Nat :=
  (a.zip b).foldl (fun (r : Word × Nat × Nat) c =>
    let ps := (c.1.zip c.2).filterMap fun (x, y) => x.map fun (q : Nat × Num) => (q.1, q.2, y)
    let q := addStep r.1 (chunkSum (ps.map fun p => cellTerm p.1 p.2.1 p.2.2)) (ps.flatMap fun p => [p.2.1, p.2.2])
    (q.1, r.2.1 + q.2.1, r.2.2 + q.2.2)) (acc, 0, 0)

/-- An accumulator after a product, with the counts. -/
def accumulate (acc : SMap Word) (as : List ARow) (bs : List (List (List Num))) : SMap Word × Nat × Nat :=
  let es := as.zipIdx.flatMap fun (a, m) => bs.zipIdx.map fun (b, n) =>
    (128 * m + n, productElement (mget 0 acc (128 * m + n)) a b)
  (es.filterMap fun e => if e.2.1 = 0 then none else some (e.1, e.2.1),
    es.foldl (fun k e => k + e.2.2.1) 0, es.foldl (fun k e => k + e.2.2.2) 0)

/-- The elements of a row cut into the chunks of 32 bytes (R156). -/
def chunksOf {α : Type} (fmt : Nat) (xs : List α) : List (List α) :=
  let g := rowElements fmt / 4
  cutBy (List.replicate (xs.length / g) g) xs

/-- The cell code of element position `k` (R204). -/
def cellCode (pat : BitVec 128) (fmt k : Nat) : Nat := pat.toNat / 4 ^ (64 * k / rowElements fmt) % 4

/-- A dense row of operand A under a cell pattern. -/
def denseRow (pat : BitVec 128) (fmt : Nat) (vs : List Num) : ARow :=
  chunksOf fmt (vs.zipIdx.map fun (v, k) => some (cellCode pat fmt k, v))

/-- The rows of a tile as operand B. -/
def Tile.bRows (t : Tile) (m : SMap Byte) : List (List (List Num)) :=
  (List.range 128).map fun r => chunksOf t.fmt (t.values m r)

/-- `tmma` and `tmma.cell` (R202, R204). -/
def tileProduct (m : SMap Byte) (acc : SMap Word) (a b : Tile) (pat : BitVec 128) : SMap Word × Nat × Nat :=
  accumulate acc ((List.range 128).map fun r => denseRow pat a.fmt (a.values m r)) (b.bRows m)

/-! ### Compressed operands -/

/-- The number whose bits are the low bits of some bytes of 0 or 1. -/
def bitsNat : List Nat → Nat
  | [] => 0
  | b :: bs => b % 2 + 2 * bitsNat bs

/-- The metadata field of a kept element. -/
def metaField (info : List Lanes) (i w : Nat) : Nat :=
  bitsNat ((List.range w).map fun j =>
    let k := i + j
    ((lane (info.getD (k / 32768) []) (k % 32768 / 32)).getLsbD (k % 32)).toNat)

/-- Group size, kept elements of a group, and bits of an index: 4:8 when `fine`, else 2:4. -/
def groupSize (fine : Bool) : Nat := if fine then 8 else 4
def keptSize (fine : Bool) : Nat := if fine then 4 else 2
def indexBits (fine : Bool) : Nat := if fine then 3 else 2

/-- Bits of the metadata field of a row (R206). -/
def rowMeta (fine : Bool) : Nat := if fine then 768 else 512

/-- The dense position of kept element `j` of row `r` (R205). -/
def keptPosition (fine : Bool) (info : List Lanes) (r j : Nat) : Nat :=
  groupSize fine * (j / keptSize fine) + metaField info (rowMeta fine * r + indexBits fine * j) (indexBits fine)

/-- Expand of R205 for row `r`: a later kept element replaces an earlier one of its position. -/
def expandRow (fine : Bool) (info : List Lanes) (fmt r : Nat) (kept : List Num) : ARow :=
  let tab : SMap Num := kept.zipIdx.foldl (fun t (v, j) => tset t (keptPosition fine info r j) v) []
  chunksOf fmt ((List.range (2 * rowElements fmt)).map fun p => (tget tab p).map fun v => (0, v))

/-- `tspmma` (R205, R158). -/
def sparseProduct (m : SMap Byte) (acc : SMap Word) (fine : Bool) (a b0 b1 : Tile) (info : List Lanes) :
    SMap Word × Nat × Nat :=
  accumulate acc ((List.range 128).map fun r => expandRow fine info a.fmt r (a.values m r))
    ((List.range 128).map fun r => chunksOf b0.fmt (b0.values m r ++ b1.values m r))

/-- A magnitude ranks above another one; NaN ranks above every number (R207). -/
def outranks (x y : Num) : Bool := (x.isNan && !y.isNan) || (!x.isNan && !y.isNan && y.lt x)

/-- The positions of a group that are kept: the largest magnitudes, ties to the lower position (R207). -/
def keptOf (k : Nat) (vs : List Num) : List Nat :=
  let xs := vs.map Num.abs
  (List.range xs.length).filter fun i =>
    let x := xs.getD i .nan
    ((List.range xs.length).filter fun j =>
      let y := xs.getD j .nan
      outranks y x || (!outranks x y && j < i)).length < k

/-- A row of a dense pair compressed: the kept codes, and their indices within their groups. -/
def compressRow (fine : Bool) (codes : List Nat) (vs : List Num) : List (Nat × Nat) :=
  let g := groupSize fine
  let cut {α : Type} (xs : List α) : List (List α) := cutBy (List.replicate (xs.length / g) g) xs
  ((cut codes).zip (cut vs)).flatMap fun (cs, xs) => (keptOf (keptSize fine) xs).map fun i => (cs.getD i 0, i)

/-- The bits of the metadata field of a row; those beyond the kept elements are a free value (log 14). -/
def metaRow (fine : Bool) (clock r : Nat) (idx : List Nat) : List Nat :=
  let bits := idx.flatMap fun i => (List.range (indexBits fine)).map fun j => i / 2 ^ j % 2
  bits ++ (List.range (rowMeta fine - bits.length)).map fun j => (Config.metaPad (128 * clock + r) j).toNat

/-- Words of 32 bits from bits, lowest first. -/
def wordsOfBits : Nat → List Nat → List Word
  | 0, _ => []
  | n + 1, bs => BitVec.ofNat 32 (bitsNat (bs.take 32)) :: wordsOfBits n (bs.drop 32)

/-- `tcomp` (R207): the rows of the output tile with their scale rows, and the metadata registers. -/
def compressTiles (m : SMap Byte) (clock : Nat) (fine : Bool) (a0 a1 : Tile) :
    List (List Byte × List Byte) × List Lanes :=
  let rows := (List.range 128).map fun r =>
    compressRow fine (ringCodes a0.fmt (a0.rowBytes m r) ++ ringCodes a1.fmt (a1.rowBytes m r))
      (a0.values m r ++ a1.values m r)
  let out := rows.zipIdx.map fun (ks, r) =>
    (ringBytes a0.fmt (ks.map (·.1)), if scaledFmt a0.fmt then a0.scaleRow m r ++ a1.scaleRow m r else [])
  let words := rows.zipIdx.flatMap fun (ks, r) => wordsOfBits (rowMeta fine / 32) (metaRow fine clock r (ks.map (·.2)))
  let regs := cutBy (List.replicate (rowMeta fine / 256) 1024) words
  (out, regs.map fun ws => ws.zipIdx.filterMap fun (w, i) => if w = 0 then none else some (i, w))

/-! ### The epilogue -/

/-- A field of an epilogue parameter block (R210). -/
def epiField (e : SMap Byte) (off w : Nat) : Nat := leNat (readBytes e off w)

def epiQt (e : SMap Byte) : Nat := epiField e 1 1
def epiDest (e : SMap Byte) : Nat := epiField e 2 1
def epiFlag (e : SMap Byte) (i : Nat) : Bool := (epiField e 3 1).testBit i
def epiBand (e : SMap Byte) (off b : Nat) : BitVec 16 := BitVec.ofNat 16 (epiField e (off + 2 * b) 2)

/-- The value y of an element and its operands besides the accumulator (R211). -/
def epiElement (e : SMap Byte) (bias : Nat → Word) (m n : Nat) (acc : Word) : Word × List Num :=
  let ab := bf16 (epiBand e 16 (m / 64))
  let bb := bf16 (epiBand e 20 (n / 64))
  let cap : Word := BitVec.ofNat 32 (epiField e 8 4)
  let x : Word := if epiFlag e 1 then toF32 (((f32 acc).mul ab).1.mul bb).1 else acc
  let x : Word := if epiFlag e 0 then toF32 ((f32 x).add false (f32 (bias n))).1 else x
  let v := f32 x
  let fn (r : Nat × BitVec 5) : Num := fmtF32.value r.1
  let y : Word := match epiField e 0 1 with
    | 0 => x
    | 1 => if v.isNan then x else if (Num.zero false).lt v then x else 0
    | 2 => BitVec.ofNat 32 (geluOf v).1
    | 3 => toF32 (v.mul (fn (sigOf fmtF32 v))).1
    | _ => toF32 ((f32 cap).mul (fn (tanhOf fmtF32 (v.div (f32 cap))))).1
  (toF32 (f32 y),
    (if epiFlag e 1 then [ab, bb] else []) ++ (if epiFlag e 0 then [f32 (bias n)] else [])
      ++ if epiField e 0 1 = 4 then [f32 cap] else [])

/-- What a drain puts out (R211): the codes of the rows, B4's block scales of each row and band values, the value of each
element as f32, and the counts. -/
structure Drained where
  rows : List (List Nat)
  scales : List (List Nat)
  bands : List Nat
  values : List (List Word)
  xof : Nat
  xnv : Nat

/-- A band of 64 rows as B4: for each row its blocks, scale code and element codes with flags. -/
def drainBand (band : BitVec 16) (ys : List (List Word)) : List (List (Nat × List (Nat × BitVec 5))) :=
  ys.map fun row => (cutBy (List.replicate 16 8) row).map fun xs => quantB4Block (fun _ => rne) (bf16 band) (xs.map f32)

/-- The counts of the elements of a row: `y` with its operands, and whether the conversion gave a NaN or overflowed. -/
def drainCounts (acc : Word) (ops : List Num) (y : Word) (nan sat : Bool) : Nat × Nat :=
  stepCounts (!nan && !isNan y && ((f32 y).isInf || sat)) (nan || isNan y) (f32 acc :: ops)

/-- The epilogue over an accumulator (R211). -/
def drain (e : SMap Byte) (e4nan : Bool) (bias : Nat → Word) (acc : SMap Word) : Drained :=
  let idx := List.range 128
  let a (m n : Nat) : Word := mget 0 acc (128 * m + n)
  let ys := idx.map fun m => idx.map fun n => epiElement e bias m n (a m n)
  let sum (cs : List (List (Nat × Nat))) : Nat × Nat :=
    cs.foldl (fun r l => l.foldl (fun (r : Nat × Nat) c => (r.1 + c.1, r.2 + c.2)) r) (0, 0)
  let count (m n : Nat) (y : Word × List Num) (nan sat : Bool) : Nat × Nat := drainCounts (a m n) y.2 y.1 nan sat
  match epiQt e with
  | 0 =>
    let c := sum (ys.zipIdx.map fun (r, m) => r.zipIdx.map fun (y, n) => count m n y false false)
    { rows := ys.map fun r => r.map fun y => y.1.toNat, scales := [], bands := [], values := ys.map fun r => r.map (·.1)
      xof := c.1, xnv := c.2 }
  | 3 =>
    let band (b : Nat) : BitVec 16 :=
      let q := epiBand e 28 b
      let rows := (ys.drop (64 * b)).take 64
      if q = 0 then BitVec.ofNat 16 (quantB4Band (rows.flatMap fun r => r.map fun y => f32 y.1)) else q
    let blocks := (List.range 2).flatMap fun b =>
      drainBand (band b) (((ys.drop (64 * b)).take 64).map fun r => r.map (·.1))
    let codes := blocks.map fun r => r.flatMap fun k => k.2
    let c := sum ((ys.zip codes).zipIdx.map fun (p, m) => (p.1.zip p.2).zipIdx.map fun (q, n) =>
      count m n q.1 false (q.2.2 &&& flagOf != 0))
    { rows := codes.map fun r => r.map (·.1), scales := blocks.map fun r => r.map (·.1), bands := [(band 0).toNat, (band 1).toNat]
      values := blocks.zipIdx.map fun (r, m) => r.flatMap fun k => k.2.map fun x =>
        toF32 (((fmtE2M1.value x.1).mul (fmtE3M5.value k.1)).1.mul (bf16 (band (m / 64)))).1
      xof := c.1, xnv := c.2 }
  | q =>
    let f := if q = 1 then fmtBf16 else fmtE4M3
    let codes := ys.map fun r => r.map fun y => f.round ⟨.rne, e4nan, 0, 0⟩ (f32 y.1)
    let c := sum ((ys.zip codes).zipIdx.map fun (p, m) => (p.1.zip p.2).zipIdx.map fun (x, n) =>
      count m n x.1 (f.value x.2.1).isNan (x.2.2 &&& flagOf != 0))
    { rows := codes.map fun r => r.map (·.1), scales := [], bands := []
      values := codes.map fun r => r.map fun x => toF32 (f.value x.1), xof := c.1, xnv := c.2 }

/-- The bytes of a row of output in a format (R212). -/
def drainBytes (qt : Nat) (cs : List Nat) : List Byte :=
  match qt with
  | 0 => cs.flatMap (natLe 4)
  | 1 => cs.flatMap (natLe 2)
  | 2 => cs.map (BitVec.ofNat 8)
  | _ => packNibbles cs

/-- Bytes of a row of output (R212). -/
def drainWidth (qt : Nat) : Nat := if qt = 0 then 512 else if qt = 1 then 256 else if qt = 2 then 128 else 64

/-! ### Effects of an entry -/

/-- The accumulator of a context. -/
def Ctx.accumulator (x : Ctx) (d : Nat) : SMap Word := mget [] x.units.acc d

def Ctx.setAcc (x : Ctx) (d : Nat) (a : SMap Word) : Ctx := { x with units := { x.units with acc := mset [] x.units.acc d a } }

/-- The context of an entry changed. -/
def State.modOwner (s : State) (n uid : Nat) (g : Ctx → Ctx) : State := s.modCore n fun k => k.modTask uid g

/-- An entry with counts added (R209). -/
def MatEntry.count (m : MatEntry) (o v : Nat) : MatEntry := { m with xof := m.xof + o, xnv := m.xnv + v }

/-- The rows of output written to ring slots, from byte FILL of each row of the first on (R212). -/
def State.writeRing (s : State) (n qt : Nat) (ts : List Tile) (fill bands : Nat) (d : Drained) : State :=
  let rows := d.rows.zipIdx.flatMap fun (cs, r) =>
    (ts.zip (cutBy (List.replicate ts.length 128) (drainBytes qt cs))).map fun p => (p.1.base + 128 * r + fill, p.2)
  let scales := d.scales.zipIdx.flatMap fun (cs, r) =>
    ts.map fun t => (t.scale + scaleBytes t.fmt t.cmp * r + fill / 4, cs.map (BitVec.ofNat 8))
  s.writeSpad n (rows ++ if qt = 3 then scales ++ [(bands, d.bands.flatMap (natLe 2))] else [])

/-- The registers that a drain fills (R212). -/
def drainRegs (qt f k frow : Nat) (d : Drained) : List (Nat × Lanes) :=
  let per := 4096 / drainWidth qt
  (List.range k).map fun i => (f + i, lanesOf (((d.rows.drop (frow + per * i)).take per).flatMap (drainBytes qt)))

/-- A drain of an accumulator (R212, R301). -/
def State.runDrain (s : State) (n : Nat) (x : Ctx) (m : MatEntry) (acc : Nat) (epi : SMap Byte) (e4nan : Bool) (bias : Nat)
    (dest : DrainDest) (pass : PassLatch) : State × MatEntry :=
  let sp := (s.core n).spad
  let d := drain epi e4nan (fun i => leWord 32 (readBytes sp (bias + 4 * i) 4)) (x.accumulator acc)
  let s := if epiFlag epi 2 then s.modOwner n x.task.uid fun y => y.setAcc acc [] else s
  match dest with
  | .regs f k frow =>
    (s.modOwner n x.task.uid fun y =>
      (drainRegs (epiQt epi) f k frow d).foldl (fun y r => y.push 1 (.v r.1 allOnes r.2)) y, m.count d.xof d.xnv)
  | .ring ts fill bands => (s.writeRing n (epiQt epi) ts fill bands d, m.count d.xof d.xnv)
  | .cand path =>
    match controlBlock path 128 128 with
    | none => (s, m.count d.xof d.xnv)
    | some (k, b2) =>
      let (c, nv) := x.units.cand.statPass k pass (fun j t => baseTwo (!b2) ((d.values.getD j []).getD t 0)) fun _ _ => none
      (s.modOwner n x.task.uid fun y => y.modCand fun _ => c, m.count d.xof (d.xnv + nv))

/-- One row of a `tdacc` (R214): the new bytes and the counts. -/
def accumulateRow (clamp : Bool) (acc : Nat → Word) (old : List Byte) : List Byte × Nat × Nat :=
  let es := (wordsAt old 128).zipIdx.map fun (w, i) =>
    let r := addStep w (f32 (acc i)) [f32 (acc i)]
    if clamp ∧ (f32 r.1).isInf then ((if (f32 r.1).neg then (0xFF7FFFFF : Word) else 0x7F7FFFFF), r.2) else r
  (es.flatMap fun e => wordLe 4 e.1, es.foldl (fun k e => k + e.2.1) 0, es.foldl (fun k e => k + e.2.2) 0)

/-- A row of local memory takes new bytes in one indivisible step (R214), which is an irrevocable act of its context (R280). -/
def State.writeRow (s : State) (n uid pa : Nat) (bs : List Byte) : State :=
  ((s.storeTogether n (cutLines pa bs)).monitorWrite pa bs.length).modOwner n uid fun x =>
    { x with buf := { x.buf with irrevocable := true } }

/-- A `tdacc` (R214): each row is one indivisible step. -/
def State.runDacc (s : State) (n : Nat) (x : Ctx) (m : MatEntry) (clamp : Bool) (acc : Nat) (rows : List RowPlace) :
    State × MatEntry :=
  let a := x.accumulator acc
  rows.zipIdx.foldl (fun (r : State × MatEntry) (p, i) =>
    let row (old : List Byte) := accumulateRow clamp (fun j => mget 0 a (128 * i + j)) old
    match p with
    | .spad b =>
      let q := row (readBytes (r.1.core n).spad b 512)
      (r.1.writeSpad n [(b, q.1)], r.2.count q.2.1 q.2.2)
    | .mem pa _ =>
      let q := row (r.1.peek pa 512)
      (r.1.writeRow n x.task.uid pa q.1, r.2.count q.2.1 q.2.2)) (s.placeAll n, m)

/-- The rows and tokens of a projection's control word (R287, R298). -/
def projBlock (w : DWord) : Block :=
  { r0 := 0, v0 := field w.toNat 31 0, rows := field w.toNat 38 32 + 1, toks := field w.toNat 46 40 + 1 }

/-- The gradient of a regeneration pass (R299): the element and whether it counts in NVCNT. -/
def gradient (row : Row) (masked : Bool) (id xt : Word) : Word :=
  let p := if masked ∨ xt = f32NegInf ∨ row.mt = f32NegInf then 0 else weight xt row.mt row.st
  if row.ltok.getD 0 noToken = id then fSub p 0x3F800000 else p

/-- A regeneration pass (R299): the new accumulator and the count of NVCNT. -/
def regenerate (c : Cand) (k : Block) (p : PassLatch) (acc : SMap Word) : SMap Word × Nat :=
  let es := (List.range k.rows).flatMap fun j => (List.range k.toks).map fun t =>
    let x := baseTwo true (mget 0 acc (128 * j + t))
    let g := gradient (c.row j) (p.isMasked j t) (k.id t) x.1
    (128 * j + t, g, x.2 + (isNan g).toNat)
  (es.filterMap fun e => if e.2.1 = 0 then none else some (e.1, e.2.1), es.foldl (fun k e => k + e.2.2) 0)

/-- A projection of one model (R298, R299). -/
def State.runProj (s : State) (n : Nat) (x : Ctx) (m : MatEntry) (race regen : Bool) (acc : Nat) (a b : Tile) (ctl : DWord)
    (p : PassLatch) : State × MatEntry :=
  let (v, o, nv) := tileProduct (s.core n).spad [] a b 0
  let k := projBlock ctl
  let c := x.units.cand
  let value (j t : Nat) : Word × Nat := baseTwo true (mget 0 v (128 * j + t))
  if regen then
    let (g, w) := regenerate c k p v
    (s.modOwner n x.task.uid fun y => y.setAcc acc g, m.count o (nv + w))
  else
    let (c, w) := if race then c.racePass k p value (fun _ _ => none) else c.statPass k p value fun _ _ => none
    (s.modOwner n x.task.uid fun y => (y.setAcc acc v).modCand fun _ => c, m.count o (nv + w))

/-- A projection of target and draft (R287, R288). -/
def State.runPair (s : State) (n : Nat) (x : Ctx) (m : MatEntry) (race : Bool) (acc : Nat) (ts : List Tile) (ctl : DWord)
    (p : PassLatch) : State × MatEntry :=
  match ts with
  | [ha, va, hd, vd] =>
    let sp := (s.core n).spad
    let (t, o, nv) := tileProduct sp [] ha va 0
    let (d, o', nv') := tileProduct sp [] hd vd 0
    let k := projBlock ctl
    let xt (j i : Nat) : Word × Nat := baseTwo true (mget 0 t (128 * j + i))
    let xd (j i : Nat) : Option (Word × Nat) := some (baseTwo true (mget 0 d (128 * j + i)))
    let c := x.units.cand
    let (c, w) := if race then c.racePass k p xt xd else c.statPass k p xt xd
    (s.modOwner n x.task.uid fun y => ((y.setAcc acc t).setAcc (acc + 1) d).modCand fun _ => c, m.count (o + o') (nv + nv' + w))
  | _ => (s, m)

/-- The compressed tile and its metadata are written (R207); the metadata goes to the registers from `d` on. -/
def State.runComp (s : State) (n : Nat) (x : Ctx) (fine : Bool) (d : Nat) (a0 a1 out : Tile) : State :=
  let (rows, regs) := compressTiles (s.core n).spad s.clock fine a0 a1
  let s := s.writeSpad n (rows.zipIdx.flatMap fun (q, r) =>
    [(out.base + 128 * r, q.1), (out.scale + scaleBytes out.fmt out.cmp * r, q.2)])
  s.modOwner n x.task.uid fun y => regs.zipIdx.foldl (fun y (v, i) => y.push 1 (.v (d + i) allOnes v)) y

/-- What an operation of the engine does when it executes, with its counts. A `tcall` starts its routine, or goes
on with it where it was pre-empted (R220). -/
def State.runOp (s : State) (n : Nat) (m : MatEntry) : State × MatEntry :=
  match (s.core n).findTask m.uid with
  | none => (s, m)
  | some x =>
    let sp := (s.core n).spad
    let put (d : Nat) (r : SMap Word × Nat × Nat) : State × MatEntry :=
      (s.modOwner n m.uid fun y => y.setAcc d r.1, m.count r.2.1 r.2.2)
    match m.op with
    | .mma d a b cell => put d (tileProduct sp (x.accumulator d) a b (cell.getD 0))
    | .spmma fine d a b0 b1 info => put d (sparseProduct sp (x.accumulator d) fine a b0 b1 info)
    | .comp fine d a0 a1 out => (s.runComp n x fine d a0 a1 out, m)
    | .zero d => put d ([], 0, 0)
    | .drain d epi e4nan bias dest pass => s.runDrain n x m d epi e4nan bias dest pass
    | .dacc clamp d rows => s.runDacc n x m clamp d rows
    | .call w st =>
      let r : Routine := { uid := m.uid, entry := m.id, word := w, status := st }
      ((s.modCore n fun k => { k with routine := some (x.parkedRoutine.getD r) }).modOwner n m.uid fun y =>
        { y with parkedRoutine := none }, m)
    | .vproj race regen d a b ctl pass => s.runProj n x m race regen d a b ctl pass
    | .vprojPair race d ts ctl pass => s.runPair n x m race d ts ctl pass

/-! ### The queue -/

/-- Two operations on the scratchpad may not change places (R191): one writes a granule that the other reads or writes. -/
def rangesClash (reads writes reads' writes' : List (Nat × Nat)) : Bool :=
  reads.any (fun r => writes'.any fun w => shareGranule r.1 r.2 w.1 w.2)
    || writes.any fun r => writes'.any (fun w => shareGranule r.1 r.2 w.1 w.2)
      || reads'.any fun w => shareGranule r.1 r.2 w.1 w.2

/-- The entries parked with a pre-empted routine that were issued before entry `id` (R220). -/
def Core.parkedBefore (k : Core) (id : Nat) : List MatEntry := (k.tasks.flatMap (·.parked)).filter fun o => decide (o.id < id)

/-- An operation issued earlier holds entry `id` (R191): an asynchronous one outside the queue, or one parked with a pre-empted
routine. -/
def Core.holds (k : Core) (id : Nat) (reads writes : List (Nat × Nat)) : Bool :=
  k.async.any (fun o => rangesClash reads writes o.reads o.writes)
    || (k.parkedBefore id).any fun o => rangesClash reads writes o.reads o.writes

/-- A routine of a task waits for the parked entries of another one of its allocation that use the scratchpad: its own operations come
after them (R191). -/
def Core.routineHeld (k : Core) (m : MatEntry) : Bool :=
  match m.op with
  | .call _ _ => (k.tasks.find? fun x => x.task.uid = m.uid).any fun x =>
      k.tasks.any fun y => y.task.uid != x.task.uid && y.task.spBase = x.task.spBase
        && y.parked.any fun o => decide (o.id < m.id) && (o.reads != [] || o.writes != [])
  | _ => false

/-- The entry that the engine may execute now (R201): the first, when nothing holds it and no routine runs. -/
def Core.nextEntry (k : Core) : Option MatEntry :=
  match k.queue with
  | [] => none
  | m :: _ => if m.done ∨ k.routine.isSome ∨ k.holds m.id m.reads m.writes ∨ k.routineHeld m then none else some m

/-- The lowest address of the data that an operation of a context reads from a marked block: in its ranges of the scratchpad, or in the
rows of memory of a `tdacc` (R353). -/
def State.entryBad (s : State) (n : Nat) (x : Ctx) (op : MatOp) (reads : List (Nat × Nat)) : Option DWord :=
  if s.noMarks n then none
  else
    let k := s.core n
    let here := reads.filterMap fun r =>
      ((List.range r.2).find? fun i => k.marked (r.1 + i) 1).map fun i =>
        BitVec.ofNat 64 (apertureBase + (r.1 + i - x.task.spBase))
    let rows := match op with
      | .dacc _ _ rows => rows.filterMap fun r => match r with
        | .mem pa va => if s.mem.isBad pa 512 then some va else none
        | .spad _ => none
      | _ => []
    (here ++ rows).foldl (fun m a => some (lowerAddr m a)) none

/-- An operation of the engine executes: its consumer sees the uncorrectable data that it reads (R353), and it computes with that data
as it stands (log 67). -/
def State.runChecked (s : State) (n : Nat) (m : MatEntry) : State × MatEntry :=
  let bad := ((s.core n).findTask m.uid).bind fun x => s.entryBad n x m.op m.reads
  let r := s.runOp n m
  (r.1.uncorrAt n m.uid m.id bad, r.2)

/-- An entry of a queue replaced. -/
def Core.setEntry (k : Core) (m : MatEntry) : Core := { k with queue := k.queue.map fun e => if e.id = m.id then m else e }

/-- The engine executes the next entry (R201). -/
def State.executeEntry (s : State) (n : Nat) : State :=
  match (s.core n).nextEntry with
  | none => s
  | some m =>
    let (s, m) := s.runChecked n m
    let started := match m.op with | .call _ _ => true | _ => false
    s.modCore n fun k => k.setEntry { m with done := !started }

/-- An entry retires (R189, R192, R209): its tiles are freed, its counts added, and CNTAS falls. -/
def State.retireEntry (s : State) (n : Nat) : State :=
  match (s.core n).queue with
  | [] => s
  | m :: rest =>
    if !m.done then s
    else
      let s := s.modCore n fun k => { k with queue := rest }
      (s.modOwner n m.uid fun x => (x.release m.id).countX m.xof m.xnv).leaveCounter n m.uid 2

end Sys2Proof.Machine
end

