-- ==== Sys2Proof/Machine/Streams.lean ====
section
/-! DEFINITION. Stream registers, tile loads and stores, gathers, scatters and pipe tokens (R185 to R199). -/

namespace Sys2Proof.Machine

/-! ### Stream registers -/

/-- The stream of a descriptor (R183, R185), without checks. -/
def streamOf (bs : List Byte) : Stream :=
  let w (i : Nat) : BitVec 32 := BitVec.ofNat 32 (fieldAt bs (4 * i) 4)
  let size := (w 1).toNat
  { base := w 0, size := w 1, head := w 2, tail := w 3, fmtw := w 4, sbase := w 5, sstride := w 6, sdelta := w 7
    cnt := ((w 3).toNat + size - (w 2).toNat) % size / tileSize }

/-- The fields of a descriptor are of their values (R183). -/
def Stream.legal (x : Stream) : Bool :=
  let size := x.size.toNat
  x.base.toNat % 256 = 0 && tileSize ≤ size && size ≤ 4194304 && size % tileSize = 0
    && x.head.toNat % tileSize = 0 && x.head.toNat < size && x.tail.toNat % tileSize = 0 && x.tail.toNat < size
    && !x.fmtw.getLsbD 11 && x.fmtw.toNat / 32 % 8 = 0 && x.fmt ≤ 9 && x.sbase.toNat % 256 = 0
    && (scaledFmt x.fmt || (x.sbase = 0 && x.sstride = 0 && x.sdelta = 0))

/-- The rings lie within an allocation (R185). -/
def Stream.fits (x : Stream) (size : Nat) : Bool :=
  x.base.toNat + x.size.toNat ≤ size && x.sbase.toNat + x.slots * (128 * scaleBytes x.fmt x.cmp) ≤ size

/-- A matrix entry fills tiles of a stream, or may do so. -/
def MatEntry.fills (m : MatEntry) (st : Nat) : Bool :=
  match m.op with
  | .comp _ _ _ _ out => out.stream = st
  | .drain _ _ _ _ (.ring ts _ _) _ => ts.any fun t => t.stream = st
  | .call _ _ => true
  | _ => false

/-- An operation of a context that claims or fills a tile of a stream has not retired (R185). -/
def Core.streamBusy (k : Core) (x : Ctx) (st : Nat) : Bool :=
  (mget {} x.units.st st).claims != []
    || x.pend.any (fun w => match w.dest with | .st n y => n = st && y.claims != [] | _ => false)
    || k.async.any (fun a => a.uid = x.task.uid && a.stream = some st)
    || (k.entriesOf x).any fun m => m.fills st

def execStset (f : Fields) (s : State) : Host.Outcome State Fault Refusal :=
  runSlot s fun e s =>
    let a := e.sA f
    let st := f.d.toNat
    if a.toNat % 32 ≠ 0 then .trap causeMisalign (some a)
    else if (s.core e.n).streamBusy e.x st then .block (.stream st) s
    else
      match s.readBlocking e a 32 with
      | .trap s cause taddr => .trapSet s cause taddr
      | .wait s => .block .read s
      | .data s bs =>
        let x := streamOf bs
        if !x.legal then .trap causeIllegalOperand none
        else if !x.fits e.x.task.spSize then .trap causeResource none
        else .done (s.modCtx e.n e.c fun y => y.push 8 (.st st x))

/-- The word of `stget` (R187). -/
def Stream.word (x : Stream) : DWord :=
  BitVec.ofNat 64 (2 ^ 25 * x.cnt + 2 ^ 16 * x.clm + 2 ^ 8 * (x.tail.toNat / tileSize) + x.head.toNat / tileSize)

/-- `stget` (R187). Its bundle blocks where an `stset` of the stream by an earlier bundle is pending, which takes effect meanwhile;
it then sees the stream as the earlier slots have left it (DEDUCED, log 59). -/
def execStget (f : Fields) (s : State) : Host.Outcome State Fault Refusal :=
  runSlot s fun e s =>
    let st := f.a.toNat
    if (e.x.pendingStream st).isSome then .block (.stset st) (s.setCtx e.n e.c (e.x.settleStream st))
    else .done (s.setCtx e.n e.c (e.x.putS e.b.latch f.d 1 ((mget {} e.x.units.st st).word)))

/-- `radv` (R188): `none` is STREAM. -/
def Stream.advance (x : Stream) (n : Nat) : Option Stream :=
  if 256 < n ∨ x.fill ≠ 0 ∨ x.slots < x.cnt + n then none else some { x with tail := x.ahead x.tail n, cnt := x.cnt + n }

/-- `radv.h` (R188): the tiles are claimed and the claim retires at once. -/
def Stream.discard (x : Stream) (n : Nat) : Option Stream :=
  if 256 < n ∨ x.fill ≠ 0 ∨ x.cnt < x.clm + n then none
  else some (Stream.freeHead { x with claims := x.claims ++ List.replicate n (0, true) })

/-- A slot that advances a ring. -/
def runAdvance (s : State) (f : Fields) (g : Stream → Nat → Option Stream) : Host.Outcome State Fault Refusal :=
  runSlot s fun e s =>
    let st := f.d.toNat
    match g (e.x.stream s.clock st) (e.sA f).toNat with
    | none => .trap causeStream none
    | some y => .done (s.setCtx e.n e.c (e.x.setStream s.clock st y))

def execRadv (f : Fields) (s : State) : Host.Outcome State Fault Refusal := runAdvance s f Stream.advance

def execRadvH (f : Fields) (s : State) : Host.Outcome State Fault Refusal := runAdvance s f Stream.discard

/-! ### Tokens of pipes -/

def execPadv (f : Fields) (s : State) : Host.Outcome State Fault Refusal :=
  runSlot s fun e s =>
    let w : Word := (e.sA f).setWidth 32
    .done (s.pushPipe e.n e.c f.d.toNat (mset 0 [] 0 w))

def execPwait (f : Fields) (s : State) : Host.Outcome State Fault Refusal :=
  runLocal s fun e =>
    e.x.putS e.b.latch f.d 1 ((lane (mget [] e.b.pops (popKey e.p.pos 0 0)) 0).setWidth 64)

/-! ### Tile loads and stores -/

/-- The rows of an access to tiles: the check of alignment, the rows for `n` tiles, and the ranges that take zeros. -/
structure TileAccess where
  misaligned : Option DWord
  n : Nat
  rows : List Tile → List RowRef
  zeros : List Tile → List (Nat × Nat)

/-- The address of the scale row of a row base (R183). -/
def Stream.scaleBase (x : Stream) (a : DWord) : DWord := a + 256 * x.sdelta.signExtend 64

/-- The access of `tld` and `tst` (R193). -/
def Stream.rowAccess (x : Stream) (a stride : DWord) : TileAccess :=
  let sc := x.scaleBase a
  let ss := x.sstride.setWidth 64
  let at_ (b k : DWord) (i : Nat) : DWord := b + BitVec.ofNat 64 i * k
  { misaligned := misalignedRow [a, a + stride] (if scaledFmt x.fmt then [sc, sc + ss] else [])
    n := 1
    rows := fun ts => ts.flatMap fun t => t.rows (List.range 128) (at_ a stride) (at_ sc ss)
    zeros := fun _ => [] }

/-- The access of `gld` and `gst` (R195, R196). -/
def Stream.laneAccess (x : Stream) (act : Mask) (idx : Lanes) (a : DWord) : TileAccess :=
  let elem (l : Nat) : DWord := a + BitVec.ofNat 64 ((lane idx l).toNat * 32 * x.gstride)
  let scale (l : Nat) : DWord := x.scaleBase a + BitVec.ofNat 64 ((lane idx l).toNat * x.sstride.toNat)
  let lanes (k : Nat) (b : Bool) : List Nat := (List.range 128).filter fun r => act.getLsbD (128 * k + r) = b
  let active := (List.range (128 * x.gtiles)).filter fun l => act.getLsbD l
  { misaligned := misalignedRow (a :: active.map elem) (if scaledFmt x.fmt then active.map scale else [])
    n := x.gtiles
    rows := fun ts => ts.zipIdx.flatMap fun (t, k) =>
      t.rows (lanes k true) (fun r => elem (128 * k + r)) fun r => scale (128 * k + r)
    zeros := fun ts => ts.zipIdx.flatMap fun (t, k) => (lanes k false).flatMap fun r =>
      (t.base + 128 * r, 128) ::
        (if scaledFmt t.fmt then [(t.scale + scaleBytes t.fmt t.cmp * r, scaleBytes t.fmt t.cmp)] else []) }

/-- A tile load or gather (R193, R195). -/
def State.loadTiles (s : State) (e : Env) (st : Nat) (g : Stream → TileAccess) : SlotRes :=
  let x := e.x.stream s.clock st
  let w := g x
  match w.misaligned with
  | some a => .trap causeMisalign (some a)
  | none =>
    let rows := w.rows ((List.range w.n).map fun i => x.tileAt e.x.task st (x.ahead x.tail i))
    match s.rowRuns e.n e.px .load (rows.map fun r => (r.va, r.len)) with
    | .error f => .trapSet f.s f.cause f.taddr
    | .ok (s, runs) =>
      match x.takeTail e.x.task st w.n with
      | .short => .trap causeStream none
      | .wait => .block (.room st w.n) s
      | .tiles y ts =>
        let ranges := ts.flatMap Tile.ranges
        match (s.core e.n).foreignRange e.x ranges with
        | some a => .trap causeProtect (some a)
        | none =>
          if (s.core e.n).rangesBusy [] ranges then .stall
          else
            .done ((s.modCtx e.n e.c fun z => z.setStream s.clock st y).startLoad e.n e.c st rows runs ranges (w.zeros ts))

/-- A tile store or scatter (R194, R196). -/
def State.storeTiles (s : State) (e : Env) (st : Nat) (g : Stream → TileAccess) : SlotRes :=
  let x := e.x.stream s.clock st
  let w := g x
  match w.misaligned with
  | some a => .trap causeMisalign (some a)
  | none =>
    let rows := w.rows ((List.range w.n).map fun i => x.tileAt e.x.task st (x.ahead x.head (x.clm + i)))
    match s.rowRuns e.n e.px .store (rows.map fun r => (r.va, r.len)) with
    | .error f => .trapSet f.s f.cause f.taddr
    | .ok (s, runs) =>
      let (id, s) := s.takeId
      match x.claim e.x.task st id w.n with
      | none => .trap causeStream none
      | some (y, ts) =>
        let ranges := ts.flatMap Tile.ranges
        match (s.core e.n).foreignRange e.x ranges with
        | some a => .trap causeProtect (some a)
        | none =>
          match ranges.find? fun r => (s.core e.n).asyncWritesAt r.1 r.2 with
          | some r => .block (.written r.1 r.2) s
          | none =>
            let ws := s.rowWrites e.n rows runs
            let bad := s.storeBad e.n rows
            .done (((s.modCtx e.n e.c fun z => z.setStream s.clock st y).startStore e.n e.c id ws ranges).uncorrAt e.n e.x.task.uid
              id bad)

def execTld (f : Fields) (s : State) : Host.Outcome State Fault Refusal :=
  runSlot s fun e s => s.loadTiles e f.d.toNat fun x => x.rowAccess (e.sA f) (e.sB f)

def execTst (f : Fields) (s : State) : Host.Outcome State Fault Refusal :=
  runSlot s fun e s => s.storeTiles e f.d.toNat fun x => x.rowAccess (e.sA f) (e.sB f)

def execGld (f : Fields) (s : State) : Host.Outcome State Fault Refusal :=
  runSlot s fun e s => s.loadTiles e f.d.toNat fun x => x.laneAccess e.b.latch.active (e.vecA f) (e.sB f)

def execGst (f : Fields) (s : State) : Host.Outcome State Fault Refusal :=
  runSlot s fun e s => s.storeTiles e f.d.toNat fun x => x.laneAccess e.b.latch.active (e.vecA f) (e.sB f)

end Sys2Proof.Machine
end

