-- ==== Sys2Proof/Machine/Matrix.lean ====
section
/-! DEFINITION. The T-class instructions (R133, R201 to R221, R287, R298), as slots of a bundle and as words of a routine that
the matrix engine runs (R215 to R221). -/

namespace Sys2Proof.Machine

/-! ### Who runs a T-class instruction -/

/-- The routine that acts: its core, the routine and the context that called it. -/
structure RoutineEnv where
  n : Nat
  r : Routine
  x : Ctx
  deriving DecidableEq, Repr

/-- The acting routine of the state. -/
def State.routineEnv (s : State) : Option RoutineEnv :=
  match s.actor with
  | .core _ => none
  | .engine n =>
    match (s.core n).routine with
    | none => none
    | some r => ((s.core n).findTask r.uid).map fun x => ⟨n, r, x⟩

/-- A scalar field of a routine's word names a matrix parameter register (R218). -/
def RoutineEnv.mp (v : RoutineEnv) (a : BitVec 5) : DWord := mget 0 v.x.regs.mp a.toNat

/-- The context with the privilege of the calling bundle. -/
def RoutineEnv.px (v : RoutineEnv) : Ctx := { v.x with ctl := { v.x.ctl with status := v.r.status } }

/-- The word after which a routine goes on: passes of loops that end there start again or end (R219). -/
def Routine.goTo (r : Routine) (w : Nat) : Nat → Routine
  | 0 => { r with word := w }
  | fuel + 1 =>
    match r.loops with
    | [] => { r with word := w }
    | l :: ls =>
      if w < l.stop then { r with word := w }
      else if 1 < l.left then { r with word := l.first, loops := { l with left := l.left - 1 } :: ls }
      else Routine.goTo { r with loops := ls } w fuel

/-- The routine goes on at a word. -/
def State.routineTo (s : State) (v : RoutineEnv) (w : Nat) : State :=
  s.modCore v.n fun k => { k with routine := some (v.r.goTo w 5) }

/-- The routine has ended: its entry is done (R219, R221). -/
def State.routineDone (s : State) (n : Nat) (r : Routine) : State :=
  s.modCore n fun k =>
    { k with routine := none, queue := k.queue.map fun m => if m.id = r.entry then { m with done := true } else m }

/-- A routine error (R221): the calling context's next bundle raises the trap. -/
def State.routineError (s : State) (n : Nat) (r : Routine) (cause : BitVec 8) (taddr : Option DWord) (w : Nat) : State :=
  (s.routineDone n r).modOwner n r.uid fun x =>
    { x with deferred := x.deferred ++
      [{ id := r.entry, cause := cause, taddr := taddr.getD (BitVec.ofNat 64 w), word := some w }] }

/-- What a word of a routine comes to: the next word, another one or the end of the routine as the state has it, an error, or
a wait. An error may have walked tables first. -/
inductive WordRes where
  | next (s : State)
  | moved (s : State)
  | error (cause : BitVec 8) (taddr : Option DWord)
  | failed (s : State) (cause : BitVec 8) (taddr : DWord)
  | hold

/-- One word of the routine that acts (R218). -/
def runWord (s : State) (body : RoutineEnv → State → WordRes) : Host.Outcome State Fault Refusal :=
  match s.routineEnv with
  | none => .fault .noBundle
  | some v =>
    match body v s with
    | .next t => .next (t.routineTo v (v.r.word + 1))
    | .moved t => .next t
    | .error cause taddr => .next (s.routineError v.n v.r cause taddr v.r.word)
    | .failed t cause taddr => .next (t.routineError v.n v.r cause (some taddr) v.r.word)
    | .hold => .next s

/-- A T-class instruction as a slot of a bundle and as a word of a routine. -/
def runT (s : State) (slot : Env → State → SlotRes) (word : RoutineEnv → State → WordRes) :
    Host.Outcome State Fault Refusal :=
  match s.actor with
  | .core _ => runSlot s slot
  | .engine _ => runWord s word

/-- A T-class instruction that no routine may hold (R218). -/
def runTSlot (s : State) (slot : Env → State → SlotRes) : Host.Outcome State Fault Refusal :=
  runT s slot fun _ _ => .error causeIllegalOp none

/-! ### Plans of entries -/

/-- What issuing an operation comes to: a trap, a trap after walks of the tables (R320), too few tiles (R189), a wait for room (R190), for a read or for an accumulator
(R212), or the operation with the context after its claims and its footprint in the scratchpad. -/
inductive Plan where
  | trap (cause : BitVec 8) (taddr : Option DWord)
  | fail (s : State) (cause : BitVec 8) (taddr : DWord)
  | short
  | wait (why : Wait) (s : State)
  | op (s : State) (x : Ctx) (op : MatOp) (reads writes : List (Nat × Nat))

/-- An entry enters the matrix queue (R192, R201). -/
def State.enqueue (s : State) (e : Env) (id : Nat) (x : Ctx) (op : MatOp) (reads writes : List (Nat × Nat)) : State :=
  (s.setCtx e.n e.c { x with cnt := { x.cnt with as := x.cnt.as + 1 } }).modCore e.n fun k =>
    { k with queue := k.queue ++
      [{ id := id, uid := x.task.uid, ctx := e.c, op := op, reads := reads, writes := writes }] }

/-- The bundle blocks until the entry retires (R207, R212). -/
def MatOp.blocks : MatOp → Bool
  | .comp _ _ _ _ _ => true
  | .drain _ _ _ _ (.regs _ _ _) _ => true
  | _ => false

/-- A slot that queues an operation (R201). A slot whose entry is queued blocks until it has retired. While entries of the context
are parked with a routine nothing enters the queue before them (R220). -/
def queueSlot (plan : Env → State → Nat → Plan) (e : Env) (s : State) : SlotRes :=
  match tget e.b.answers e.p.pos with
  | some (.value v) =>
    if ((s.core e.n).entriesOf e.x).any fun m => m.id = v.toNat then .block (.entry v.toNat) s else .done s
  | _ =>
    if e.x.parked ≠ [] then .stall
    else if 8 ≤ (s.core e.n).queue.length then .block .issue s
    else
    let (id, s) := s.takeId
    match plan e s id with
    | .trap cause taddr => .trap cause taddr
    | .fail t cause taddr => .trapSet t cause taddr
    | .short => .trap causeStream none
    | .wait why t => .block why t
    | .op t x op reads writes =>
      match (t.core e.n).foreignRange x (reads ++ writes) with
      | some a => .trap causeProtect (some a)
      | none =>
        let t := t.enqueue e id x op reads writes
        if op.blocks then .block (.entry id) (t.reply e (.value (BitVec.ofNat 64 id))) else .done t

/-- A word of a routine that runs an operation, which retires at once (R189, R209). -/
def engineWord (plan : RoutineEnv → State → Nat → Plan) (v : RoutineEnv) (s : State) : WordRes :=
  let (id, s) := s.takeId
  match plan v s id with
  | .trap cause taddr => .error cause taddr
  | .fail t cause taddr => .failed t cause taddr
  | .short | .wait _ _ => .hold
  | .op t x op reads writes =>
    match (t.core v.n).foreignRange x (reads ++ writes) with
    | some a => .error causeProtect (some a)
    | none =>
      if (t.core v.n).holds v.r.entry reads writes then .hold
      else
        let t := t.modOwner v.n v.r.uid fun _ => x
        let (t, m) := t.runChecked v.n { id := id, uid := v.r.uid, ctx := 0, op := op, reads := reads, writes := writes }
        let t := t.modOwner v.n v.r.uid fun y => y.release id
        .next (t.modCore v.n fun k =>
          { k with queue := k.queue.map fun q => if q.id = v.r.entry then q.count m.xof m.xnv else q })

/-- An operation that both a slot and a word may name. -/
def runQueued (s : State) (slot : Env → State → Nat → Plan) (word : RoutineEnv → State → Nat → Plan) :
    Host.Outcome State Fault Refusal :=
  runT s (queueSlot slot) (engineWord word)

/-- The oldest unclaimed tiles of a stream are claimed (R189). -/
def Ctx.claimTiles (x : Ctx) (clock st id n : Nat) : Option (Ctx × List Tile) :=
  ((x.stream clock st).claim x.task st id n).map fun r => (x.setStream clock st r.1, r.2)

/-- The format groups of R202. -/
def formatGroup (fmt : Nat) : Nat := if fmt = 0 then 0 else if fmt = 5 ∨ fmt = 6 then 2 else if fmt = 7 then 3 else 1

/-- Two streams may be multiplied (R202). -/
def pairOk (a b : Stream) : Bool := formatGroup a.fmt = formatGroup b.fmt && !a.cmp && !b.cmp

/-! ### Products -/

/-- `tmma` and `tmma.cell` (R133, R202, R204). -/
def planMma (f : Fields) (cell : Bool) (x : Ctx) (s : State) (id : Nat) : Plan :=
  let a := f.a.toNat
  let b := f.b.toNat
  if !pairOk (x.stream s.clock a) (x.stream s.clock b) then .trap causeIllegalOperand none
  else
    match x.claimTiles s.clock a id 1 with
    | some (x, [t]) =>
      match x.claimTiles s.clock b id 1 with
      | some (x, [u]) => .op s x (.mma f.d.toNat t u (if cell then some x.units.cell else none)) (t.ranges ++ u.ranges) []
      | _ => .short
    | _ => .short

def runMma (s : State) (f : Fields) (cell : Bool) : Host.Outcome State Fault Refusal :=
  runQueued s (fun e => planMma f cell e.x) fun v => planMma f cell v.x

def execTmma (f : Fields) (s : State) : Host.Outcome State Fault Refusal := runMma s f false

def execTmmaCell (f : Fields) (s : State) : Host.Outcome State Fault Refusal := runMma s f true

/-- `tspmma` and `tspmma.48` (R205); `v` reads a metadata register. -/
def planSpmma (f : Fields) (fine : Bool) (v : Nat → Lanes) (x : Ctx) (s : State) (id : Nat) : Plan :=
  let a := x.stream s.clock f.a.toNat
  let b := x.stream s.clock (f.a.toNat + 1)
  if !a.cmp ∨ b.cmp ∨ formatGroup a.fmt ≠ formatGroup b.fmt then .trap causeIllegalOperand none
  else
    match x.claimTiles s.clock f.a.toNat id 1 with
    | some (x, [t]) =>
      match x.claimTiles s.clock (f.a.toNat + 1) id 2 with
      | some (x, [u, w]) =>
        let info := (List.range (if fine then 3 else 2)).map fun i => v (f.b.toNat + i)
        .op s x (.spmma fine f.d.toNat t u w info) (t.ranges ++ u.ranges ++ w.ranges) []
      | _ => .short
    | _ => .short

def runSpmma (s : State) (f : Fields) (fine : Bool) : Host.Outcome State Fault Refusal :=
  runQueued s (fun e => planSpmma f fine e.b.latch.vreg e.x) fun v => planSpmma f fine (fun i => mget [] v.x.regs.v i) v.x

def execTspmma (f : Fields) (s : State) : Host.Outcome State Fault Refusal := runSpmma s f false

def execTspmma48 (f : Fields) (s : State) : Host.Outcome State Fault Refusal := runSpmma s f true

/-- `tcomp` and `tcomp.48` (R207). -/
def planComp (f : Fields) (fine : Bool) (e : Env) (s : State) (id : Nat) : Plan :=
  let a := e.x.stream s.clock f.a.toNat
  let b := e.x.stream s.clock f.b.toNat
  if a.cmp ∨ !b.cmp ∨ a.fmt ≠ b.fmt then .trap causeIllegalOperand none
  else
    match e.x.claimTiles s.clock f.a.toNat id 2 with
    | some (x, [t, u]) =>
      match b.takeTail x.task f.b.toNat 1 with
      | .tiles y [o] =>
        .op s (x.setStream s.clock f.b.toNat y) (.comp fine f.d.toNat t u o) (t.ranges ++ u.ranges) o.ranges
      | .wait => .wait (.room f.b.toNat 1) s
      | _ => .short
    | _ => .short

def execTcomp (f : Fields) (s : State) : Host.Outcome State Fault Refusal := runTSlot s (queueSlot (planComp f false))

def execTcomp48 (f : Fields) (s : State) : Host.Outcome State Fault Refusal := runTSlot s (queueSlot (planComp f true))

/-! ### Accumulators -/

def execTzero (f : Fields) (s : State) : Host.Outcome State Fault Refusal :=
  runQueued s (fun e s _ => .op s e.x (.zero f.d.toNat) [] []) fun v s _ => .op s v.x (.zero f.d.toNat) [] []

/-- An entry makes an accumulator busy (R201). -/
def MatEntry.names (m : MatEntry) (d : Nat) : Bool :=
  match m.op with
  | .mma a _ _ _ | .spmma _ a _ _ _ _ | .zero a | .drain a _ _ _ _ _ | .dacc _ a _ | .vproj _ _ a _ _ _ _ => a = d
  | .vprojPair _ a _ _ _ => a = d || a + 1 = d
  | .call _ _ => true
  | .comp _ _ _ _ _ => false

/-- An accumulator of a context is busy (R201). -/
def Core.accBusy (k : Core) (x : Ctx) (d : Nat) : Bool := (k.entriesOf x).any fun m => m.names d

/-- Rows 8k to 8k + 7 of an accumulator as a register (R213). -/
def accLanes (a : SMap Word) (k : Nat) : Lanes := (mslice a (1024 * k) 1024).map fun e => (e.1 - 1024 * k, e.2)

def execTread (f : Fields) (s : State) : Host.Outcome State Fault Refusal :=
  runTSlot s fun e s =>
    let a := f.a.toNat
    if (s.core e.n).accBusy e.x a then .block (.acc a) s
    else .done (s.writeVec e f.d.toNat 1 allOnes (accLanes (e.x.accumulator a) ((e.sB f).toNat % 16)))

/-! ### Drains -/

/-- The format that a ring must have for QT (R212). -/
def ringFmt (qt : Nat) : Nat := if qt = 1 then 5 else if qt = 2 then 3 else 0

/-- The scratchpad ranges that an epilogue reads: the biases (R210). -/
def epiReads (x : Ctx) (e : SMap Byte) : List (Nat × Nat) :=
  if epiFlag e 0 then [(x.task.spBase + epiField e 12 4, 512)] else []

/-- The operation of a drain with the latched parameters of a context (R212). -/
def drainOp (f : Fields) (x : Ctx) (e4nan : Bool) (dest : DrainDest) (p : PassLatch) : MatOp :=
  .drain f.d.toNat x.units.epi e4nan (x.task.spBase + epiField x.units.epi 12 4) dest p

/-- A drain to a ring (R212); `w` is the value of the operand. -/
def planRing (f : Fields) (w : DWord) (e4nan : Bool) (x : Ctx) (s : State) : Plan :=
  let e := x.units.epi
  let st := epiField e 4 1
  let y := x.stream s.clock st
  let qt := epiQt e
  if w ≠ 0 then .trap causeIllegalOperand none
  else if x.task.hdr.nst ≤ st then .trap causeResource none
  else if y.fmt ≠ ringFmt qt ∨ y.cmp then .trap causeIllegalOperand none
  else
    let bands := x.task.spBase + epiField e 24 4
    let go (y : Stream) (ts : List Tile) (fill : Nat) : Plan :=
      .op s (x.setStream s.clock st y) (drainOp f x e4nan (.ring ts fill bands) {}) (epiReads x e)
        (ts.flatMap Tile.ranges ++ if qt = 3 then [(bands, 4)] else [])
    if y.fill = 0 then
      match y.takeTail x.task st (if qt = 1 then 2 else 1) with
      | .tiles z ts => go { z with fill := if qt = 3 then 64 else 0 } ts 0
      | .wait => .wait (.room st (if qt = 1 then 2 else 1)) s
      | .short => .short
    else go { y with fill := 0 } [y.tileAt x.task st (y.ahead y.tail (y.slots - 1))] y.fill

/-- A drain to vector registers (R212). -/
def planRegs (f : Fields) (w : DWord) (e4nan : Bool) (x : Ctx) (s : State) : Plan :=
  let v := w.toNat
  let first := v % 16
  let n := v / 16 % 16 + 1
  let frow := v / 256 % 128
  if 2 ^ 15 ≤ v ∨ 16 < first + n ∨ 128 < frow + n * (4096 / drainWidth (epiQt x.units.epi)) then .trap causeIllegalOperand none
  else if x.task.hdr.nv < first + n then .trap causeResource none
  else .op s x (drainOp f x e4nan (.regs first n frow) {}) (epiReads x x.units.epi) []

/-- A drain to the candidate path (R301). -/
def planPath (f : Fields) (w : DWord) (e4nan : Bool) (e : Env) (s : State) : Plan :=
  let path := e.x.units.cand.path
  if w ≠ 0 then .trap causeIllegalOperand none
  else if !e.x.task.hdr.cf then .trap causeResource none
  else
    match controlBlock path 128 128 with
    | none => .trap causeIllegalOperand none
    | some (k, _) =>
      match s.latchPass e k true [] with
      | .trap s cause taddr => .fail s cause taddr
      | .wait s => .wait .read s
      | .pass s p => .op s (s.ctx e.n e.c) (drainOp f e.x e4nan (.cand path) p) (epiReads e.x e.x.units.epi) []

/-- `tdrain` (R212). A slot that reads a busy accumulator blocks its bundle. -/
def execTdrain (f : Fields) (s : State) : Host.Outcome State Fault Refusal :=
  runQueued s
    (fun e s _ =>
      let e4 := e.b.latch.ctl.e4nan
      if (s.core e.n).accBusy e.x f.d.toNat then .wait (.acc f.d.toNat) s
      else match epiDest e.x.units.epi with
      | 0 => planRegs f (e.sA f) e4 e.x s
      | 1 => planRing f (e.sA f) e4 e.x s
      | _ => planPath f (e.sA f) e4 e s)
    fun v s _ =>
      if epiDest v.x.units.epi = 1 then planRing f (v.mp f.a) v.x.ctl.e4nan v.x s else .trap causeIllegalOp none

/-! ### Accumulation into rows -/

/-- Where the rows of a `tdacc` lie, or the lowest failure (R214). -/
def State.daccRows (s : State) (n : Nat) (x : Ctx) (a stride : DWord) : Except Failure (State × List RowPlace) :=
  let r := (List.range 128).foldl (fun (q : State × Option Failure × List RowPlace) m =>
    let va := a + BitVec.ofNat 64 m * stride
    match q.1.places n x .load va 512 with
    | .error f => (f.s, lowerFailure q.2.1 f, q.2.2)
    | .ok (s, _) =>
      match s.places n x .store va 512 with
      | .error f => (f.s, lowerFailure q.2.1 f, q.2.2)
      | .ok (s, (.mem pa, _) :: _) => (s, q.2.1, q.2.2 ++ [.mem pa va])
      | .ok (s, (.spad b, _) :: _) => (s, q.2.1, q.2.2 ++ [.spad b])
      | .ok (s, _) => (s, lowerFailure q.2.1 ⟨causeProtect, va, s⟩, q.2.2)) (s, none, [])
  match r.2.1 with
  | some f => .error { f with s := r.1 }
  | none => .ok (r.1, r.2.2)

/-- The context with an irrevocable act, where some rows lie in memory (R280). -/
def Ctx.actOn (x : Ctx) (rows : List RowPlace) : Ctx :=
  if rows.any fun r => match r with | .mem _ _ => true | .spad _ => false then
    { x with buf := { x.buf with irrevocable := true } }
  else x

/-- `tdacc` (R214) at an address with a stride; `px` has the privilege of the access. -/
def planDacc (f : Fields) (clamp : Bool) (n : Nat) (x px : Ctx) (a stride : DWord) (s : State) : Plan :=
  if a.toNat % 512 ≠ 0 then .trap causeMisalign (some a)
  else if stride.toNat % 512 ≠ 0 then .trap causeMisalign (some (a + stride))
  else
    match s.daccRows n px a stride with
    | .error g => .fail g.s g.cause g.taddr
    | .ok (s, rows) =>
      let spad := rows.filterMap fun r => match r with | .spad b => some (b, 512) | _ => none
      .op s ((((s.core n).findTask x.task.uid).getD x).actOn rows) (.dacc clamp f.d.toNat rows) spad spad

def runDacc (s : State) (f : Fields) (clamp : Bool) : Host.Outcome State Fault Refusal :=
  runQueued s
    (fun e s _ => planDacc f clamp e.n e.x e.px (e.sA f) (if f.b = 0 then 512 else e.sB f) s)
    fun v s _ => planDacc f clamp v.n v.x v.px (v.mp f.a) (v.mp f.b) s

def execTdacc (f : Fields) (s : State) : Host.Outcome State Fault Refusal := runDacc s f false

def execTdaccClamp (f : Fields) (s : State) : Host.Outcome State Fault Refusal := runDacc s f true

/-! ### Cell pattern, epilogue block and parameters -/

/-- Every code of a cell pattern has a meaning (R203). -/
def cellOk (p : BitVec 128) : Bool := (List.range 64).all fun j => field p.toNat (2 * j + 1) (2 * j) ≠ 3

def execTcellp (f : Fields) (s : State) : Host.Outcome State Fault Refusal :=
  let set (p : BitVec 128) (x : Ctx) : Ctx := { x with units := { x.units with cell := p } }
  runT s
    (fun e s =>
      let p := e.sB f ++ e.sA f
      if cellOk p then .done (s.setCtx e.n e.c (set p e.x)) else .trap causeIllegalOperand none)
    fun v s =>
      let p := v.mp f.b ++ v.mp f.a
      if cellOk p then .next (s.modOwner v.n v.r.uid (set p)) else .error causeIllegalOperand none

/-- A band value is finite and above 0. -/
def bandOk (b : BitVec 16) : Bool := (bf16 b).isFinite && !(bf16 b).neg && !(bf16 b).isZero

/-- An epilogue parameter block holds values of R210, whose codes of QT are taken, not those of R134 (DESIGN CHOICE, log 62). -/
def epiOk (e : SMap Byte) : Bool :=
  let cap := f32 (BitVec.ofNat 32 (epiField e 8 4))
  let act := epiField e 0 1
  act ≤ 4 && epiQt e ≤ 3 && epiDest e ≤ 2 && epiField e 3 1 < 8 && epiField e 4 1 < 16
    && (epiDest e = 1 || epiField e 4 1 = 0) && epiField e 5 3 = 0
    && (if act = 4 then cap.isFinite && (Num.zero false).lt cap else epiField e 8 4 = 0)
    && (if epiFlag e 0 then epiField e 12 4 % 64 = 0 else epiField e 12 4 = 0)
    && (!epiFlag e 1 || [16, 18, 20, 22].all fun i => bandOk (epiBand e i 0))
    && epiField e 24 4 % 4 = 0
    && [28, 30].all (fun i => epiBand e i 0 = 0 || bandOk (epiBand e i 0))
    && epiField e 32 224 = 0 && !(epiDest e = 1 && epiQt e = 0) && !(epiDest e = 0 && epiQt e = 3)

/-- The ranges of a block lie within an allocation (R210). -/
def epiFits (e : SMap Byte) (size : Nat) : Bool :=
  (!epiFlag e 0 || epiField e 12 4 + 512 ≤ size) && (epiQt e ≠ 3 || epiField e 24 4 + 4 ≤ size)

/-- Bytes as a table from 0 on. -/
def byteTable (bs : List Byte) : SMap Byte := writeBytes [] 0 bs

def execEpiSet (f : Fields) (s : State) : Host.Outcome State Fault Refusal :=
  runTSlot s fun e s =>
    let a := e.sA f
    if a.toNat % 256 ≠ 0 then .trap causeMisalign (some a)
    else
      match s.readBlocking e a 256 with
      | .trap s cause taddr => .trapSet s cause taddr
      | .wait s => .block .read s
      | .data s bs =>
        let b := byteTable bs
        if !epiOk b then .trap causeIllegalOperand none
        else if !epiFits b e.x.task.spSize then .trap causeResource none
        else .done (s.modCtx e.n e.c fun x => { x with units := { x.units with epi := b } })

/-- A routine of a context is queued, running or pre-empted (R217). -/
def Core.ownRoutine (k : Core) (x : Ctx) : Bool :=
  (k.entriesOf x).any fun m => match m.op with | .call _ _ => true | _ => false

/-- A routine writes a matrix parameter register of its context, which is present then (R275). One that is suspended has it saved (R220,
R274). -/
def State.setMp (s : State) (n uid d : Nat) (v : DWord) : State :=
  let s := s.modOwner n uid fun x =>
    let x := x.apply (.mp d v)
    { x with absent := x.absent.without { mp := setBit 0 d true } }
  match tget (s.core n).suspended uid with
  | some e => s.saveStore n e.ctx (0x330 + 8 * d) (wordLe 8 v)
  | none => s

/-- `mpset` and `mpset.add` (R217): `g` gives the new value from the old one and the operand. -/
def runMpset (s : State) (f : Fields) (g : DWord → DWord → DWord) : Host.Outcome State Fault Refusal :=
  let d := f.d.toNat
  runT s
    (fun e s =>
      if (s.core e.n).ownRoutine e.x then .block .ownRoutine s
      else .done (s.setCtx e.n e.c (e.x.push 1 (.mp d (g (e.b.latch.mp d) (e.sA f))))))
    fun v s =>
      .next (s.setMp v.n v.r.uid d (g (v.mp (f.d)) (v.mp f.a)))

def execMpset (f : Fields) (s : State) : Host.Outcome State Fault Refusal := runMpset s f fun _ v => v

def execMpsetAdd (f : Fields) (s : State) : Host.Outcome State Fault Refusal := runMpset s f fun x v => x + v

/-! ### Routines -/

def execTcall (f : Fields) (s : State) : Host.Outcome State Fault Refusal :=
  runTSlot s (queueSlot fun e s _ =>
    if 4096 ≤ (e.sA f).toNat then .trap causeIllegalOperand none
    else .op s e.x (.call (e.sA f).toNat e.b.latch.ctl.status) [] [])

/-- A slot of a routine control word raises ILLEGAL_OP (R219). -/
def runControl (s : State) (word : RoutineEnv → State → WordRes) : Host.Outcome State Fault Refusal :=
  runT s (fun _ _ => .trap causeIllegalOp none) word

def execTret (s : State) : Host.Outcome State Fault Refusal := runControl s fun v s => .moved (s.routineDone v.n v.r)

def execTloop (f : Fields) (s : State) : Host.Outcome State Fault Refusal :=
  runControl s fun v s =>
    let first := v.r.word + 1
    let stop := first + f.d.toNat
    let c := ((v.mp f.a).extractLsb' 0 32).toNat
    if c = 0 then .moved (s.routineTo v stop)
    else if 4 ≤ v.r.loops.length then .error causeIllegalOperand none
    else
      .moved (s.modCore v.n fun k =>
        { k with routine := some { v.r with word := first, loops := ⟨first, stop, c⟩ :: v.r.loops } })

/-- A routine stops at a `tstep` (R220): its entry and those of its context behind it leave the queue. A context that has been suspended
has the routine state saved. -/
def State.park (s : State) (n : Nat) (r : Routine) : State :=
  let mine := (s.core n).queue.filter fun m => m.uid = r.uid
  let s := (s.modCore n fun k => { k with routine := none, queue := k.queue.filter fun m => m.uid != r.uid }).modOwner n r.uid
    fun x => { x with parkedRoutine := some r, parked := mine }
  match tget (s.core n).suspended r.uid with
  | some e => if e.ctx.run = .ended then s else s.saveRegions n e.ctx [routineRegion]
  | none => s

/-- The action that is due is taken at a `tstep` of a routine of context `c` (R94, R220, R277). -/
def State.stepAction (s : State) (n c : Nat) (r : Routine) : State :=
  let x := s.ctx n c
  if x.leg.energy ∨ (!(s.core n).otherReady c ∧ s.taskWaits n c) then (s.park n r).suspend n c x.leg.energy
  else
    let s := s.modCtx n c fun x => { x with leg := {} }
    if (s.core n).otherReady c then (s.park n r).release n c else s.modCore n fun k => { k with routine := some r }

/-- `tstep` (R219, R220): the routine stops where its context has an action due or is suspended, but not in a drain (R273). -/
def execTstep (s : State) : Host.Outcome State Fault Refusal :=
  runControl s fun v s =>
    let r := v.r.goTo (v.r.word + 1) 5
    match (s.core v.n).ctxs.find? fun e => e.2.task.uid = v.r.uid with
    | none => .moved (s.park v.n r)
    | some (c, x) =>
      if x.actionDue ∧ !x.leg.draining then .moved (s.stepAction v.n c r)
      else .moved (s.modCore v.n fun k => { k with routine := some r })

/-- An entry takes its place in a queue by the order of issue (R191, R201). -/
def insertEntry (m : MatEntry) : List MatEntry → List MatEntry
  | [] => [m]
  | o :: q => if m.id < o.id then m :: o :: q else o :: insertEntry m q

/-- The entries of a context enter the queue again, with the routine first, in the order of their issue (R191, R220). The matrix
parameters and streams of the routine are absent no longer. -/
def State.unpark (s : State) (n : Nat) (x : Ctx) : State :=
  (s.modCore n fun k => { k with queue := x.parked.foldl (fun q m => insertEntry m q) k.queue }).modOwner n x.task.uid fun y =>
    { s.loadRegs y { mp := 0xFF, st := 0xFFFF } with
      parked := [] }

/-- `rst.load` (R215). -/
def execRstLoad (f : Fields) (s : State) : Host.Outcome State Fault Refusal :=
  runTSlot s fun e s =>
    let a := e.sA f
    let b := (e.sB f).toNat
    let o := b % 4096
    let c := b / 4096
    let k := s.core e.n
    if c = 0 ∨ 4096 < o + c then .trap causeIllegalOperand none
    else if a.toNat % 4 ≠ 0 then .trap causeMisalign (some a)
    else if k.routine.isSome ∨ k.tasks.any (fun x => x.parkedRoutine.isSome) then .block .routine s
    else
      match s.readBlocking e a (4 * c) with
      | .trap s cause taddr => .trapSet s cause taddr
      | .wait s => .block .read s
      | .data s bs =>
        let s := s.irrevocable e.n e.c
        .done (s.modCore e.n fun k =>
          { k with rstore := (wordsAt bs c).zipIdx.foldl (fun m (w, i) => mset 0 m (o + i) w) k.rstore })

/-! ### Projections -/

/-- The control word of a projection is legal (R287, R298): its reserved bits are 0 and its tokens below 2^32. -/
def projOk (w : DWord) (regen : Bool) : Bool :=
  w.toNat / 2 ^ 48 = 0 && (regen || !w.getLsbD 47) && !w.getLsbD 39
    && field w.toNat 31 0 + field w.toNat 46 40 < 2 ^ 32

/-- One tile of each of some streams is claimed, in order (R189). -/
def Ctx.claimEach (clock id : Nat) : Ctx → List Nat → Option (Ctx × List Tile)
  | x, [] => some (x, [])
  | x, st :: sts =>
    match x.claimTiles clock st id 1 with
    | none => none
    | some (x, ts) => (Ctx.claimEach clock id x sts).map fun r => (r.1, ts ++ r.2)

/-- A projection slot (R287, R298) over the streams of its tiles, two by two. -/
def planProj (ctl : DWord) (ok : Bool) (sts : List Nat) (uniforms : Bool) (extra : List (DWord × Nat))
    (op : List Tile → PassLatch → MatOp) (e : Env) (s : State) (id : Nat) : Plan :=
  let y (i : Nat) : Stream := e.x.stream s.clock (sts.getD i 0)
  if !ok ∨ !pairOk (y 0) (y 1) ∨ (sts.length = 4 ∧ !pairOk (y 2) (y 3)) then .trap causeIllegalOperand none
  else if !e.x.task.hdr.cf then .trap causeResource none
  else
    match s.latchPass e (projBlock ctl) uniforms extra with
    | .trap s cause taddr => .fail s cause taddr
    | .wait s => .wait .read s
    | .pass s p =>
      match (s.ctx e.n e.c).claimEach s.clock id sts with
      | none => .short
      | some (x, ts) => .op s x (op ts p) (ts.flatMap Tile.ranges) []

/-- `tvproj` and `tvproj.r` (R298). -/
def runProjection (s : State) (f : Fields) (race : Bool) : Host.Outcome State Fault Refusal :=
  runTSlot s (queueSlot fun e =>
    let ctl := e.sB f
    let regen := ctl.getLsbD 47
    let a := f.a.toNat
    planProj ctl (projOk ctl (!race)) [a, a + 1] (!regen) []
      (fun ts p => .vproj race regen f.d.toNat (ts.getD 0 ⟨0, 0, 0, 0, false⟩) (ts.getD 1 ⟨0, 0, 0, 0, false⟩) ctl p) e)

def execTvproj (f : Fields) (s : State) : Host.Outcome State Fault Refusal := runProjection s f false

def execTvprojR (f : Fields) (s : State) : Host.Outcome State Fault Refusal := runProjection s f true

/-- The replay range that a pair checks whole (R287). -/
def replayRange (src : DWord) (rows : Nat) : List (DWord × Nat) :=
  [(src &&& ~~~0xFFF#64, 4 * 2 ^ (src.toNat / 2 % 32) * rows)]

/-- `tvproj.pair` and `tvproj.pair.r` (R287). -/
def runProjectionPair (s : State) (f : Fields) (race : Bool) : Host.Outcome State Fault Refusal :=
  runTSlot s (queueSlot fun e =>
    let ctl := e.sB f
    let a := f.a.toNat
    planProj ctl (projOk ctl false) [a, a + 1, a + 2, a + 3] true
      (replayRange e.b.latch.ctl.rngsrc (projBlock ctl).rows) (fun ts p => .vprojPair race f.d.toNat ts ctl p) e)

def execTvprojPair (f : Fields) (s : State) : Host.Outcome State Fault Refusal := runProjectionPair s f false

def execTvprojPairR (f : Fields) (s : State) : Host.Outcome State Fault Refusal := runProjectionPair s f true

/-! ### The words of a routine -/

/-- The words allowed in a routine (R218). -/
def routineAllowed (i : Instr) : Bool :=
  match i with
  | .tmma _ | .tmmaCell _ | .tspmma _ | .tspmma48 _ | .tzero _ | .tdacc _ | .tdaccClamp _ | .tdrain _ | .tcellp _
  | .mpset _ | .mpsetAdd _ | .tloop _ | .tstep | .tret => true
  | _ => false

/-- A field that names a scalar register names a matrix parameter register (R218). -/
def routineOperand (o : Operand) : Operand := match o.kind with | .scalar => { o with kind := .mpar } | _ => o

/-- The word of a routine, or the cause of its error (R218, R221). -/
def routineWord (h : Header) (w : Word) : Except (BitVec 8) Instr :=
  match decodeWord none w with
  | .error .unusedField => .error (if wordClass w = 4 then causeIllegalOperand else causeIllegalOp)
  | .error _ => .error causeIllegalOp
  | .ok x =>
    if !routineAllowed x.instr then .error causeIllegalOp
    else
      match entry x.instr with
      | none => .error causeIllegalOp
      | some (f, o) =>
        let d := routineOperand o.d
        let a := routineOperand o.a
        let b := routineOperand o.b
        if x.neg ∨ x.bank ∨ x.gn ≠ 0 ∨ !mdOk o.md f.md ∨ !kindOk d f.d.toNat ∨ !kindOk a f.a.toNat ∨ !kindOk b f.b.toNat then
          .error causeIllegalOperand
        else if !fieldWithin h false d f.d.toNat 0 ∨ !fieldWithin h false a f.a.toNat 0 ∨ !fieldWithin h false b f.b.toNat 0
          then .error causeResource
        else .ok x.instr

end Sys2Proof.Machine
end

