-- ==== Sys2Proof/Machine/Verdict.lean ====
section
/-! DEFINITION. Whether a bundle may issue now (R23, R82, R116, R117, R191, R194, R198, R201, R310). -/

namespace Sys2Proof.Machine

/-- The bytes of a range as they stand, without an access; `none` where some of them cannot be read now. -/
def State.seenBytes (s : State) (n : Nat) (x : Ctx) (a : DWord) (len : Nat) : Option (List Byte) :=
  match s.places n x .load a len with
  | .error _ => none
  | .ok (_, ps) =>
    (ps.foldl (fun (r : Option (Nat × List Byte)) p => r.bind fun (pos, bs) =>
      let here : Option (List Byte) := match p.1 with
        | .spad b => some (readBytes (s.core n).spad b p.2)
        | .stash uid j off => (s.windowPa n uid j off).map fun pa => s.peek pa p.2
        | .mem pa => some (s.peek pa p.2)
        | .peer _ _ => (List.range p.2).mapM fun i => tget x.peerBuf ((a + BitVec.ofNat 64 (pos + i)).toNat)
      here.map fun d => (pos + p.2, bs ++ d)) (some (0, []))).map (·.2)

/-- An asynchronous operation that a slot starts waits for the scoreboard (R191): the copy of a `bswap`, or the tiles that a load
fills. -/
def State.startWaits (s : State) (n : Nat) (x : Ctx) (l : Latch) (i : Instr) : Bool :=
  let k := s.core n
  let fills (st m : Nat) : Bool := match (x.stream s.clock st).takeTail x.task st m with
    | .tiles _ ts => k.rangesBusy [] (ts.flatMap Tile.ranges)
    | _ => false
  match i with
  | .bswap f =>
    match (s.seenBytes n x (l.s f.a) 32).bind fun bs => inputDesc bs x.task.hdr.scratch with
    | some d => k.rangesBusy [] [(x.task.spBase + d.dst, d.len)]
    | none => false
  | .tld f => fills f.d.toNat 1
  | .gld f => fills f.d.toNat (x.stream s.clock f.d.toNat).gtiles
  | _ => false

/-- A tile store waits for the producers of its tiles (R194). -/
def State.producersRun (s : State) (n : Nat) (x : Ctx) (i : Instr) : Bool :=
  let reads (st m : Nat) : Bool := match (x.stream s.clock st).claim x.task st 0 m with
    | some (_, ts) => (ts.flatMap Tile.ranges).any fun r => (s.core n).asyncWritesAt r.1 r.2
    | none => false
  match i with
  | .tst f => reads f.d.toNat 1
  | .gst f => reads f.d.toNat (x.stream s.clock f.d.toNat).gtiles
  | _ => false

/-- A slot stalls its bundle before issue: a `wait.cnt` that does not hold (R117), or an access that waits for the scoreboard
(R191). -/
def State.slotWaits (s : State) (n : Nat) (x : Ctx) (l : Latch) (i : Instr) : Bool :=
  (match i with | .waitCnt f => !waitOver l x.cnt f | _ => false) || s.accessWaits n x l i || s.startWaits n x l i

/-- The slots of a bundle that are still to act, up to one whose pop or push can never be served. -/
def Bundle.acting (b : Bundle) (fail : Option Nat) : List Placed :=
  (b.slots.drop b.cur).filter fun p => b.latch.guard p.word && (match fail with | some q => decide (p.pos < q) | none => true)

/-- Some slots block their bundle: the matrix queue has no room (R201, R220), a candidate slot waits for the entries that touch the
rows (R283), or a tile store for the producers of its tiles (R194). -/
def State.issueBlocks (s : State) (n : Nat) (x : Ctx) (is : List Instr) : Bool :=
  (is.any entersQueue && (8 ≤ (s.core n).queue.length || x.parked != []))
    || (is.any isCandidate && ((s.core n).entriesOf x).any MatEntry.touchesRows)
    || is.any (s.producersRun n x)

/-- The stores and atomics of some slots would raise CNTST or CNTRM above 256 (R116). -/
def State.countersFull (s : State) (n : Nat) (x : Ctx) (b : Bundle) (ps : List Placed) : Bool :=
  let counts := ps.map (s.slotCounts n x b)
  let st := (counts.map (·.1)).sum
  let rm := (counts.map (·.2)).sum
  (0 < st && 256 < x.cnt.st + st) || (0 < rm && 256 < x.cnt.rm + rm)

/-- The conditions under which the bundle of a context issues. The slots that `rfe` re-enters are of a bundle that has issued: only
pops that were never made, pushes and the matrix queue are waited for (R267). -/
def State.verdict (s : State) (n c : Nat) (b : Bundle) : Verdict :=
  let x := s.ctx n c
  match (s.core n).serveAll x b 0 b.slots {} with
  | .issue fail =>
    let ps := b.acting fail
    if s.issueBlocks n x (ps.map (·.word.instr)) then .block
    else if b.reentry then .issue fail
    else if s.countersFull n x b ps ∨ ps.any (fun p => s.slotWaits n x b.latch p.word.instr) then .stall
    else .issue fail
  | v => v

end Sys2Proof.Machine
end

