-- ==== Sys2Proof/Machine/Legs.lean ====
section
/-! DEFINITION. Contexts on their core (R79, R94, R267, R270, R273 to R277): becoming ready, leg limits, energy quotas,
suspension's end, and what is taken before a bundle issues. Each is an event of the package. -/

namespace Sys2Proof.Machine

/-! ### Contexts that become ready (R79) -/

/-- What a blocked context waits for has come. -/
def State.cleared (s : State) (n c : Nat) (x : Ctx) (why : Wait) : Bool :=
  let k := s.core n
  !x.buf.cancel &&
  match why with
  | .issue => x.bundle.all fun b => s.verdict n c b ≠ .block
  | .answer => x.bundle.all Bundle.answered
  | .entry id => !(k.entriesOf x).any fun m => m.id = id
  | .acc d => !k.accBusy x d
  | .room st m => let y := x.stream s.clock st; decide (y.cnt + m ≤ y.slots) || y.claims.isEmpty
  | .stream st => !k.streamBusy x st
  | .stset st => (x.pendingStream st).isNone
  | .written a len => !k.asyncWritesAt a len
  | .routine => k.routine.isNone && !k.tasks.any fun y => y.parkedRoutine.isSome
  | .ownRoutine => !k.ownRoutine x
  | .read => !s.fabric.remotes.any fun r => r.2.uid = x.task.uid
  | .landings => x.landed
  | .cancel => true

/-- A context that is not ready may become so (R79, R255). -/
def State.mayWake (s : State) (n c : Nat) (x : Ctx) : Bool :=
  match x.run with
  | .blocked why => s.cleared n c x why
  | .edges 0 => match x.task.gslot with | some g => (s.core n).edgeReady g x.task.hdr.role | none => true
  | _ => false

/-- Every context of a core whose condition has cleared is ready (R79). -/
def State.wake (s : State) (n : Nat) : State :=
  s.modCore n fun k =>
    { k with
      ctxs := k.ctxs.map fun e => if s.mayWake n e.1 e.2 then (e.1, { e.2 with run := .ready }) else e }

/-- An idle core starts to issue from the first ready context (R79). -/
def State.startNext (s : State) (n : Nat) : State :=
  s.modCore n fun k => if k.running.isSome then k else { k with running := k.nextReady }

def execContextReady (s : State) : Host.Outcome State Fault Refusal :=
  runEvent s fun i s =>
    match i with
    | .contextReady n c =>
      (s.ctx? n c).bind fun x => if s.mayWake n c x ∨ x.run = .ready then some ((s.wake n).startNext n) else none
    | _ => none

/-! ### Leg limits and energy (R94, R277) -/

/-- LIMIT and GRACE of LEGLIM (R94). -/
def Ctl.limit (c : Ctl) : Nat := (c.leglim.extractLsb' 0 32).toNat
def Ctl.grace (c : Ctl) : Nat := (c.leglim.extractLsb' 32 16).toNat

/-- The leg count has reached LIMIT and no request stands (R94). -/
def Ctx.limitReached (x : Ctx) : Bool := x.ctl.limit != 0 && x.leg.request.isNone && decide (x.ctl.limit ≤ x.leg.count)

/-- A request stands from now on. -/
def Ctx.request (x : Ctx) : Ctx := { x with leg := { x.leg with request := some (x.leg.request.getD x.leg.count) } }

def execLegLimitReached (s : State) : Host.Outcome State Fault Refusal :=
  runEvent s fun i s =>
    match i with
    | .legLimitReached n =>
      (s.core n).running.bind fun c => if (s.ctx n c).limitReached then some (s.modCtx n c Ctx.request) else none
    | _ => none

/-- The energy quota is used up and no suspension stands (R277). -/
def Ctx.quotaOver (x : Ctx) : Bool := x.ctl.equota != 0 && decide (x.ctl.equota.toNat ≤ x.ctl.eused.toNat) && !x.leg.energy

def execEnergyQuotaExhausted (s : State) : Host.Outcome State Fault Refusal :=
  runEvent s fun i s =>
    match i with
    | .energyQuotaExhausted n c =>
      (s.ctx? n c).bind fun x =>
        if x.quotaOver ∧ x.run ≠ .ended then
          some (s.modCtx n c fun x => { x.request with leg := { x.request.leg with energy := true } }) else none
    | _ => none

/-- The bundle of a context has neither issued nor sent a request, and is no rest of one that has issued (R267, R268). -/
def Bundle.untouched (b : Bundle) : Bool := b.stage = .asking && !b.reentry && b.answers = []

/-- A context stands at a bundle boundary: before a bundle that has not issued (R267). -/
def Ctx.atBoundary (x : Ctx) : Bool := x.bundle.all Bundle.untouched

/-- A bundle that has not issued is given up; the context comes to it again. -/
def Ctx.dropBundle (x : Ctx) : Ctx :=
  match x.bundle with
  | some b => if b.untouched then { x with bundle := none, pc := .at b.addr } else x
  | none => x

/-- GRACE cycles have passed since the request (R94), and no drain is in progress (R273). -/
def Ctx.graceOver (x : Ctx) : Bool :=
  x.actionDue && !x.leg.draining && decide (x.leg.request.getD 0 + x.ctl.grace ≤ x.leg.count)

/-- The oldest trap that is deferred to the next bundle (R267). -/
def Ctx.oldestTrap (x : Ctx) : Option Deferred :=
  let due := (x.pend.filter fun w => decide (w.due ≤ x.count)).filterMap PWrite.trapOf
  (x.deferred ++ due).foldl (fun r d => match r with
    | some e => if d.id < e.id then some d else some e
    | none => some d) none

/-- The user event that is delivered next (R270). -/
def Ctx.nextEvent (x : Ctx) : Option Nat :=
  if x.ctl.evten ∧ !x.ctl.inevt ∧ !x.ctl.priv then ([0, 1, 2].find? fun i => x.cnt.fired.getLsbD i).map (· + 1) else none

/-- The first of the steps that a context takes at a bundle boundary before its next bundle (R267): 1 for a deferred trap, 2 for an action
that is due, 3 for a user event, and none where none of these applies. -/
def Ctx.boundaryStep (x : Ctx) : Option Nat :=
  if !x.atBoundary then none
  else if x.oldestTrap.isSome then some 1
  else if x.graceOver then some 2
  else if x.nextEvent.isSome then some 3
  else none

/-- The running context of a core takes a step of R267. -/
def State.takes (s : State) (n c : Nat) (k : Option Nat) : Bool :=
  (s.core n).running = some c && !(s.ctx n c).buf.cancel && (s.ctx n c).boundaryStep = k

def execGraceExpiry (s : State) : Host.Outcome State Fault Refusal :=
  runEvent s fun i s =>
    match i with
    | .graceExpiry n =>
      (s.core n).running.bind fun c =>
        if s.takes n c (some 2) then some ((s.setCtx n c (s.ctx n c).dropBundle).takeAction n c) else none
    | _ => none

/-- The system controller grants a further quota (R277), which the task takes when it resumes. -/
def execQuotaGrant (s : State) : Host.Outcome State Fault Refusal :=
  runEvent s fun i s =>
    match i with
    | .quotaGrant n uid q =>
      (tget (s.core n).suspended uid).bind fun e =>
        if e.quota then
          some (s.modCore n fun k => { k with suspended := tset k.suspended uid { e with quota := false, grant := some q } })
        else none
    | _ => none

/-! ### Resumption (R274, R275) -/

/-- A task that waited when another was suspended can be placed on a core now: it comes before that one (R94). -/
def State.waiterFirst (s : State) (n since : Nat) : Bool :=
  s.queues.any fun q => q.2.waiting.any fun gid => (tget s.grids gid).any fun g =>
    q.2.cfg.cmask.getLsbD n && g.taken ≤ since && (s.core n).canPlace gid g
      && (match s.tryPlace gid with | .none => false | _ => true)

/-- A suspended task may come onto its context again (R94, R274, R277): its landings have arrived, the context is free, no task that
came first waits for it, and no task has been suspended from it for longer. -/
def State.mayResume (s : State) (n : Nat) (e : Suspended) : Bool :=
  let k := s.core n
  !e.quota && e.ctx.run != .ended && (tget k.ctxs e.slot).isNone && e.ctx.landed && !s.waiterFirst n e.since
    && k.suspended.all fun o => o.2.slot != e.slot || o.2.quota || o.2.ctx.run = .ended || e.since ≤ o.2.since

/-- A further quota takes effect (R277): the overdraft is charged to it. -/
def Ctl.grant (c : Ctl) : Option DWord → Ctl
  | some q => { c with eused := c.eused - c.equota, equota := q }
  | none => c

/-- A suspended task resumes (R275): what the save area holds comes back, every declared register is absent, and LIVE[1] is
cleared. -/
def State.resume (s : State) (n uid : Nat) (e : Suspended) : State :=
  let s := s.placeAll n
  let e := (tget (s.core n).suspended uid).getD e
  let live := (s.peek (e.ctx.saveAt 41) 1).getD 0 0
  let x := s.reload e.ctx
  let s := s.modCore n fun k =>
    { k with
      suspended := tdel k.suspended uid
      ctxs := tset k.ctxs e.slot
        { x with run := e.ctx.run, ctl := x.ctl.grant e.grant, leg := {}, absent := x.task.hdr.declared, dirty := {} } }
  s.saveStore n e.ctx 41 [live &&& 0xFD]

def execTaskResumption (s : State) : Host.Outcome State Fault Refusal :=
  runEvent s fun i s =>
    match i with
    | .taskResumption n uid =>
      (tget (s.core n).suspended uid).bind fun e => if s.mayResume n e then some (s.resume n uid e) else none
    | _ => none

/-! ### What is taken before a bundle issues (R267) -/

/-- The context without a deferred trap and its landing. -/
def Ctx.dropTrap (x : Ctx) (d : Deferred) : Ctx :=
  { x with
    deferred := x.deferred.erase d
    pend := x.pend.filter fun w => w.trapOf != some d }

/-- A trap before the next bundle of a context (R86, R267); TADDR is the bundle's address where it has none of its own. Before the
bundle after another one, whose length is not known, `rfe` resumes there. -/
def State.trapBefore (s : State) (n c : Nat) (cause : BitVec 8) (taddr : Option DWord) (word : Option Nat) : State :=
  let t (resume : Nat) (a : DWord) : TrapInfo :=
    { slot := 0, resume := resume, noissue := true, tbun := a, cause := cause, taddr := taddr.getD a, word := word }
  match s.resolvePc n c with
  | .ok (s, a) => s.trap n c (t 0 a)
  | .error _ =>
    match (s.ctx n c).pc with
    | .at a => s.trap n c (t 0 a)
    | .after a => s.trap n c (t 8 a)

/-- A deferred trap is taken (R265, R267), or the phase cancelled (R279), which leaves it until the cancel. -/
def State.takeDeferred (s : State) (n c : Nat) (d : Deferred) : State :=
  let x := s.ctx n c
  if d.cause = causeDataUncorr ∧ x.cancels then
    (s.setCtx n c { x with run := .blocked .cancel, buf := { x.buf with cancel := true } }).release n c
  else
    (s.setCtx n c (x.dropTrap d).dropBundle).trapBefore n c d.cause (some d.taddr) d.word

def execDeferredTrap (s : State) : Host.Outcome State Fault Refusal :=
  runEvent s fun i s =>
    match i with
    | .deferredTrap n c =>
      if s.takes n c (some 1) then (s.ctx n c).oldestTrap.map fun d => s.takeDeferred n c d else none
    | _ => none

/-- A user event is delivered before the next bundle of the running context (R267, R270). -/
def State.deliverNext (s : State) (n c : Nat) : Option State :=
  let x := s.ctx n c
  if !s.takes n c (some 3) then none
  else
    match x.nextEvent, (s.setCtx n c x.dropBundle).resolvePc n c with
    | some source, .ok (s, a) => some (s.deliver n c source a)
    | _, _ => none

def execUserEventDelivery (s : State) : Host.Outcome State Fault Refusal :=
  runEvent s fun i s =>
    match i with
    | .userEventDelivery n c => s.deliverNext n c
    | _ => none

/-- The running context comes to the checks of its next bundle: steps 4 and 5 of R267. A user event waits while the address of that bundle
is not known. -/
def State.reaches (s : State) (n c : Nat) : Bool := s.takes n c none || (s.takes n c (some 3) && (s.deliverNext n c).isNone)

/-- The registers that a bundle lacks which was reached before its context was suspended, and has not issued (R275, R277). -/
def Ctx.lacks (x : Ctx) : Absent :=
  match x.bundle with
  | some b => if b.stage = .issued ∨ b.reentry then {} else x.missing (b.slots.map fun p => p.word.instr)
  | none => {}

/-- The absent registers that the next bundle of a context needs are fetched (R275), where no earlier step of R267 is taken. -/
def State.fetchAbsent (s : State) (n c : Nat) : Option State :=
  let x := s.ctx n c
  if !s.reaches n c then none
  else
    match x.bundle with
    | some _ => if x.lacks.none then none else some (s.modCtx n c fun x => s.loadRegs x x.lacks)
    | none =>
      match s.begin n c with
      | .miss t a => some (t.modCtx n c fun x => t.loadRegs x a)
      | _ => none

def execRegisterMissMicrotrap (s : State) : Host.Outcome State Fault Refusal :=
  runEvent s fun i s => match i with | .registerMissMicrotrap n c => s.fetchAbsent n c | _ => none

/-- The running context of the acting core comes to a bundle with a word of a reserved class or an unlisted opcode (R33), and no earlier
step of R267 is taken. -/
def State.unlisted (s : State) : Option State :=
  match s.actor with
  | .engine _ => none
  | .core n =>
    match (s.core n).running with
    | none => none
    | some c =>
      if (s.ctx n c).bundle.isSome ∨ !s.reaches n c then none else
      match s.begin n c with
      | .trap t i => if i.cause = causeIllegalClass ∨ i.cause = causeIllegalOp then some (t.trap n c i) else none
      | _ => none

def execUnlistedOpcode (s : State) : Host.Outcome State Fault Refusal := runEvent s fun _ s => s.unlisted

end Sys2Proof.Machine
end

