-- ==== Sys2Proof/Machine/Completions.lean ====
section
/-! DEFINITION. The engines of a core by themselves: the matrix queue (R189, R201, R209), tile loads and stores (R193, R194,
R197), the copy of a buffer phase and its cancel (R86, R278, R279), the operating point (R129), the random-bits queue (R310),
walks (R224) and idle passes of a gang member (R256). Each is an event of the package. -/

namespace Sys2Proof.Machine

/-- An asynchronous operation of a task is charged to it (R276). -/
def State.chargeTask (s : State) (n uid : Nat) : State := s.modCore n fun k => k.modTask uid (Ctx.charge s.clock)

/-! ### The matrix queue -/

def execMatrixEntryExecute (s : State) : Host.Outcome State Fault Refusal :=
  runEvent s fun i s =>
    match i with
    | .matrixEntryExecute n => if (s.core n).nextEntry.isSome then some (s.executeEntry n) else none
    | _ => none

def execMatrixEntryRetire (s : State) : Host.Outcome State Fault Refusal :=
  runEvent s fun i s =>
    match i with
    | .matrixEntryRetire n =>
      match (s.core n).queue with
      | m :: _ => if m.done then some ((s.retireEntry n).chargeTask n m.uid) else none
      | [] => none
    | _ => none

/-! ### Tile operations and copies -/

/-- The operation leaves the core and CNTAS. -/
def State.retireAsync (s : State) (n : Nat) (o : Async) : State :=
  ((s.modCore n fun k => { k with async := k.async.filter fun p => p.id != o.id }).leaveCounter n o.uid 2).chargeTask n o.uid

/-- The lowest address of the rows of a list. -/
def lowestRow (rows : List (Nat × DWord × Nat)) : Option DWord :=
  rows.foldl (fun r w => match r with
    | some a => if w.2.1.toNat < a.toNat then some w.2.1 else some a
    | none => some w.2.1) none

/-- Rows whose data is uncorrectable: the issuing context's next bundle raises DATA_UNCORR or its phase is cancelled (R197,
R279). The rows of a tile become zero. -/
def State.badRows (s : State) (n : Nat) (o : Async) (bad : List Nat) : State :=
  let rows := bad.filterMap fun i => o.rows[i]?
  (if o.load then s.writeSpad n (rows.map fun w => (w.1, List.replicate w.2.2 0)) else s).uncorrAt n o.uid o.id (lowestRow rows)

/-- An outstanding operation of a core, by its number. -/
def Core.asyncOp (k : Core) (id : Nat) : Option Async := k.async.find? fun o => o.id = id

def execTileLoadComplete (s : State) : Host.Outcome State Fault Refusal :=
  runEvent s fun i s =>
    match i with
    | .tileLoadComplete n id bad =>
      ((s.core n).asyncOp id).bind fun o =>
        if o.load then some ((s.badRows n o (o.bad ++ bad)).retireAsync n o) else none
    | _ => none

def execTileStorePerform (s : State) : Host.Outcome State Fault Refusal :=
  runEvent s fun i s =>
    match i with
    | .tileStorePerform n id =>
      ((s.core n).asyncOp id).bind fun o =>
        if !o.load ∧ !o.copy then
          some ((s.modCore n fun k => k.modTask o.uid fun x => x.release id).retireAsync n o) else none
    | _ => none

/-- Peer data of a copy is still to come. -/
def State.copyOpen (s : State) (id : Nat) : Bool := s.fabric.remotes.any fun r => r.2.copy.any fun p => p.1 = id

def execBswapCopyComplete (s : State) : Host.Outcome State Fault Refusal :=
  runEvent s fun i s =>
    match i with
    | .bswapCopyComplete n id =>
      ((s.core n).asyncOp id).bind fun o =>
        if o.copy ∧ !s.copyOpen id then some ((s.badRows n o o.bad).retireAsync n o) else none
    | _ => none

/-! ### Buffer phases -/

/-- The claims on a stream that a snapshot holds are of operations that have retired, but for those listed (R189, R279). -/
def Stream.afterCancel (y : Stream) (keep : List Nat) : Stream :=
  Stream.freeHead { y with claims := y.claims.map fun c => (c.1, c.2 || !keep.contains c.1) }

/-- The state of a snapshot comes back (R278, R279); FFLAGS, EUSED and the counters stay, but that the entries parked with a routine
count again. The input is to be fetched again before the context goes on, and a suspension saves every register. -/
def Ctx.restore (x : Ctx) (p : Snapshot) : Ctx :=
  let keep := p.parked.map (·.id)
  { x with
    run := .ready
    regs := p.regs
    ctl := { p.ctl with fflags := x.ctl.fflags, eused := x.ctl.eused }
    cnt := { x.cnt with as := x.cnt.as + p.parked.length }
    loops := p.loops
    units := { x.units with st := p.st.map fun e => (e.1, e.2.afterCancel keep), epi := p.epi, xa := p.xa }
    pend := p.pend.map fun w => match w.dest with | .st n y => { w with dest := .st n (y.afterCancel keep) } | _ => w
    count := p.count, pc := p.pc
    bundle := none, frame := none, eframe := none, deferred := [], peerBuf := [], peerBad := none, rqAhead := 0
    absent := {}, dirty := x.task.hdr.declared
    parkedRoutine := p.routine, parked := p.parked
    opened := false
    buf := { x.buf with held := [], xof := 0, xnv := 0, cancel := false, cancelled := true } }

/-- A phase is cancelled once every asynchronous operation of the context has retired (R279); one that has done an irrevocable act
meanwhile is not, and its error is a trap (R280). -/
def State.cancelPhase (s : State) (n c : Nat) : Option State :=
  (s.ctx? n c).bind fun x =>
    if x.buf.cancel ∧ x.buf.irrevocable then
      some (s.modCtx n c fun x => { x with buf := { x.buf with cancel := false } })
    else if x.buf.cancel ∧ x.cnt.as = 0 then
      x.buf.snap.map fun p =>
        let s := s.placeAll n
        let s := if x.frame.isSome then
            s.saveStore n x 41 [((s.peek (x.saveAt 41) 1).getD 0 0) &&& 0xFE] else s
        s.modCtx n c fun x => x.restore p
    else none

def execPhaseCancel (s : State) : Host.Outcome State Fault Refusal :=
  runEvent s fun i s => match i with | .phaseCancel n c => s.cancelPhase n c | _ => none

/-- What opening a phase at a context's first bundle comes to (R86, R279). -/
inductive Opened where
  | done (s : State)
  | wait (s : State)
  | fail (s : State) (cause : BitVec 8) (taddr : Option DWord)

/-- The address of the descriptor whose input a phase takes: that of the `bswap` that opened it, or IBUF for phase 0, where it is not
0. -/
def Ctx.inputAt (x : Ctx) : Option DWord :=
  match x.buf.desc with
  | some a => some a
  | none => if x.task.record.ibuf = 0 then none else some x.task.record.ibuf

/-- The phase is open, and its snapshot taken (R278). -/
def State.markOpen (s : State) (n c : Nat) : State := s.modCtx n c fun x => { x.takeSnapshot with opened := true }

/-- A phase opens before a bundle: phase 0 at the task's first bundle, and a cancelled phase again (R86, R279). -/
def State.openPhase (s : State) (n c : Nat) : Opened :=
  let x := s.ctx n c
  let b : Bundle := { addr := 0, size := 0, slots := [], latch := x.latch (s.core n) }
  let e : Env := ⟨n, c, { x with buf := { x.buf with cancelled := true } }, b, ⟨0, ⟨false, false, false, 0, .nop⟩⟩⟩
  match x.inputAt with
  | none => .done (s.markOpen n c)
  | some a =>
    if a.toNat % 32 ≠ 0 then .fail s causeMisalign (some a)
    else
      match s.readBlocking e a 32 with
      | .trap s cause taddr => .fail s cause (some taddr)
      | .wait s => .wait s
      | .data s bs =>
        match inputDesc bs x.task.hdr.scratch with
        | none => .fail s causeResource none
        | some d =>
          match s.copyRuns n x d.src d.len with
          | .error g => .fail g.s g.cause (some g.taddr)
          | .ok (s, ps) =>
            let dst := x.task.spBase + d.dst
            match (s.core n).foreignRange x [(dst, d.len)] with
            | some t => .fail s causeProtect (some t)
            | none =>
              if (s.core n).rangesBusy [] [(dst, d.len)] ∨ s.copyBusy x.task.uid ps then .wait s
              else .done ((s.startCopy n c d.src dst d.len ps).markOpen n c)

/-! ### Other units -/

/-- A settling ends: CUR takes the target, and a CAP that has changed meanwhile applies (R129, R350). -/
def Core.settled (k : Core) : Core :=
  Core.followCap { k with oppt := opptOf (opptCap k.oppt) false (opptTgt k.oppt) (opptTgt k.oppt) }

def execOpselSettleEnd (s : State) : Host.Outcome State Fault Refusal :=
  runEvent s fun i s =>
    match i with
    | .opselSettleEnd n => if opptSettle (s.core n).oppt then some (s.modCore n Core.settled) else none
    | _ => none

def execRngQueueFill (s : State) : Host.Outcome State Fault Refusal :=
  runEvent s fun i s =>
    match i with
    | .rngQueueFill n c => (s.ctx? n c).map fun x => s.setCtx n c { x with rqAhead := x.rqAhead + 1 }
    | _ => none

def execWalkStart (s : State) : Host.Outcome State Fault Refusal :=
  runEvent s fun i s =>
    match i with
    | .walkStart h =>
      (tget s.chains h).bind fun c => match c.phase with | .walk _ none => some s.serveSlices | _ => none
    | _ => none

/-- The edge unit passes a member's edges on its behalf (R256), whether its task is on its context or suspended. -/
def State.passEdges (s : State) (n c : Nat) : Option State :=
  ((s.core n).tasksAt c).findSome? fun x =>
    match x.run, x.task.gslot with
    | .edges (p + 1), some g =>
      if (s.core n).edgeReady g x.task.hdr.role then
        some (s.modCore n fun k => (k.modTask x.task.uid fun x => { x with run := .edges p, fires := x.fires + 1 }).fire x)
      else none
    | _, _ => none

def execEdgeIdlePass (s : State) : Host.Outcome State Fault Refusal :=
  runEvent s fun i s => match i with | .edgeIdlePass n c => s.passEdges n c | _ => none

end Sys2Proof.Machine
end

