-- ==== Sys2Proof/Machine/Control.lean ====
section
/-! DEFINITION. Control transfers and hardware loops (R101 to R106), waits, comparisons and system calls (R117, R122, R269),
and the slots that act when their bundle ends (R80, R81, R268, R272). -/

namespace Sys2Proof.Machine

/-- A transfer slot (R102): only the first that acts in a bundle acts. -/
def runTransfer (s : State) (g : Env → State → SlotRes) : Host.Outcome State Fault Refusal :=
  runSlot s fun e s => if e.b.transfer.isSome then .done s else g e s

/-- The bundle's next one is set. -/
def State.transferTo (s : State) (e : Env) (p : NextPc) : State := s.modBundle e.n e.c fun b => { b with transfer := some p }

/-- A branch to an address, which must be a multiple of 4 (R101). -/
def branchTo (e : Env) (s : State) (target : DWord) : SlotRes :=
  if target.toNat % 4 ≠ 0 then .trap causeMisalign (some target) else .done (s.transferTo e (.at target))

/-- A branch that writes a link (R101). -/
def branchLink (e : Env) (s : State) (d : BitVec 5) (target : DWord) : SlotRes :=
  branchTo e (s.setCtx e.n e.c (e.x.putS e.b.latch d 1 e.b.next)) target

/-- BundleAddr + 4 × v. -/
def Env.offsetBy (e : Env) (v : DWord) : DWord := e.b.addr + 4 * v

def execBr (f : Fields) (s : State) : Host.Outcome State Fault Refusal :=
  runTransfer s fun e s => branchTo e s (e.offsetBy (i16Value f))

def execBrr (f : Fields) (s : State) : Host.Outcome State Fault Refusal := runTransfer s fun e s => branchTo e s (e.sA f)

def execCall (f : Fields) (s : State) : Host.Outcome State Fault Refusal :=
  runTransfer s fun e s => branchLink e s 31 (e.offsetBy (i16Value f))

def execCallr (f : Fields) (s : State) : Host.Outcome State Fault Refusal :=
  runTransfer s fun e s => branchLink e s f.d (e.sA f)

def execRet (f : Fields) (s : State) : Host.Outcome State Fault Refusal := runTransfer s fun e s => branchTo e s (e.sA f)

/-! ### Loops -/

/-- What starting a loop comes to: the loops, the q predicates to write, and the next bundle (R104). -/
structure LoopStart where
  loops : Loops
  qs : List (Nat × Bool)
  next : NextPc
  deriving DecidableEq, Repr

/-- `loop` and `loopp` (R104) on counter `n` with count register value `c`, the bundle after the slot's at `start` and the
loop's last bundle at `stop`. -/
def Loops.startLoop (l : Loops) (pipe : Bool) (n : Nat) (c start stop : DWord) : LoopStart :=
  let o := l.nextOrder
  let l := (l.endFrom n).setCounter n c
  let x : LoopState := { l.get n with start := start, stop := stop, pipe := pipe, order := o }
  if !pipe then
    if countOf c = 0 then ⟨l.set n { x with active := false }, [], .after stop⟩
    else ⟨l.set n { x with active := true }, [], .at start⟩
  else
    let (l, qs) := (l.set n { x with active := true, q := 0, drain := false }).passStart n
    if (l.get n).q = 0 then ⟨l.set n { l.get n with active := false }, qs, .after stop⟩ else ⟨l, qs, .at start⟩

/-- A slot that starts a loop (R104). -/
def runLoop (s : State) (f : Fields) (pipe : Bool) : Host.Outcome State Fault Refusal :=
  runTransfer s fun e s =>
    let n := f.d.toNat
    let c := if f.a = 0 then e.x.loops.counter n else e.sA f
    if pipe ∧ stagesOf c = 0 then .trap causeIllegalOperand none
    else
      let r := e.x.loops.startLoop pipe n c e.b.next (e.offsetBy (riValue f))
      .done ((s.setCtx e.n e.c ({ e.x with loops := r.loops }.putQs r.qs)).transferTo e r.next)

def execLoop (f : Fields) (s : State) : Host.Outcome State Fault Refusal := runLoop s f false

def execLoopp (f : Fields) (s : State) : Host.Outcome State Fault Refusal := runLoop s f true

/-- `lexit` (R106). -/
def execLexit (f : Fields) (s : State) : Host.Outcome State Fault Refusal :=
  runTransfer s fun e s =>
    let n := f.d.toNat
    let l := e.x.loops
    let x := l.get n
    if !x.active then .trap causeResource none
    else
      let qs := if x.pipe then (List.range (stagesOf (l.counter n))).map fun i => (i + 1, false) else []
      let l := (l.endFrom n).setCounter n (withCount (l.counter n) 0)
      .done ((s.setCtx e.n e.c ({ e.x with loops := l }.putQs qs)).transferTo e (.after x.stop))

/-! ### Waits, comparisons and calls -/

/-- `wait.cnt` (R117), once its bundle has issued. A loss recorded in CNTRM is raised and cleared (R118). -/
def execWaitCnt (f : Fields) (s : State) : Host.Outcome State Fault Refusal :=
  runSlot s fun e s =>
    match e.x.cnt.loss with
    | some a =>
      if f.d = 1 then .trapSet (s.setCtx e.n e.c { e.x with cnt := { e.x.cnt with loss := none } }) causeRemoteFail a
      else .done s
    | none => .done s

def execCmptrap (f : Fields) (s : State) : Host.Outcome State Fault Refusal :=
  runSlot s fun e s => if e.sA f = e.sB f then .done s else .trap causeCmptrap (some 0)

def execCmptrapV (f : Fields) (s : State) : Host.Outcome State Fault Refusal :=
  runSlot s fun e s => if e.vecA f = e.vecB f then .done s else .trap causeCmptrap (some 0)

def execTrap (f : Fields) (s : State) : Host.Outcome State Fault Refusal :=
  runSlot s fun _ s => .trapDone s causeTrap (i16Value f)

def execSys (f : Fields) (s : State) : Host.Outcome State Fault Refusal :=
  runSlot s fun _ s => .trapDone s causeSys (i16Value f)

/-! ### What acts at the end of a bundle -/

/-- A slot that takes effect after every other slot of its bundle. -/
def runAtEnd (s : State) (a : EndAct) : Host.Outcome State Fault Refusal :=
  runSlot s fun e s => .done (s.modBundle e.n e.c fun b => { b with acts := b.acts ++ [a] })

def execYield (s : State) : Host.Outcome State Fault Refusal := runAtEnd s .yield

def execExit (s : State) : Host.Outcome State Fault Refusal := runAtEnd s .exit

def execRfe (s : State) : Host.Outcome State Fault Refusal := runAtEnd s .rfe

def execRfu (s : State) : Host.Outcome State Fault Refusal := runAtEnd s .rfu

end Sys2Proof.Machine
end

