-- ==== Sys2Proof/Machine/Extrapolation.lean ====
section
/-! DEFINITION. The extrapolating accumulator (R246 to R250). -/

namespace Sys2Proof.Machine

/-! ### Arithmetic in FP64 -/

def fmtF64 : Fmt := ⟨64, 52, 1023, 0x7FEFFFFFFFFFFFFF, true, some 0x7FF8000000000000, true⟩

/-- RoundNE64. -/
def r64 (x : Num) : Num := fmtF64.value (fmtF64.round rne x).1

def add64 (x y : Num) : Num := r64 (x.add false y).1
def sub64 (x y : Num) : Num := r64 (x.sub y)
def mul64 (x y : Num) : Num := r64 (x.mul y).1
def div64 (x y : Num) : Num := r64 (x.div y)
def sqrt64 (x : Num) : Num := fmtF64.value (sqrtOf fmtF64 x).1

/-- A value of a list. -/
def numAt (xs : List Num) (i : Nat) : Num := xs.getD i (.zero false)

/-- A sum in ascending order, every step rounded. -/
def sum64 (xs : List Num) : Num := xs.foldl add64 (.zero false)

/-! ### EPS (R248) -/

/-- A divisor is too small: 0, or below TAU in magnitude. -/
def tooSmall (tau x : Num) : Bool := x.isZero || x.abs.lt tau

/-- Row p + 1 of the table from rows p − 1 and p; none where a divisor is too small. -/
def wynnRow (tau : Num) (prev cur : List Num) : Option (List Num) :=
  (List.range (cur.length - 1)).mapM fun k =>
    let d := sub64 (numAt cur (k + 1)) (numAt cur k)
    if tooSmall tau d then none else some (add64 (numAt prev (k + 1)) (div64 (.ofInt 1) d))

/-- The table carried on for `fuel` rows: its last entry. -/
def wynn (tau : Num) : Nat → List Num → List Num → Option Num
  | 0, _, cur => some (numAt cur 0)
  | fuel + 1, prev, cur =>
    match wynnRow tau prev cur with
    | none => none
    | some next => wynn tau fuel cur next

/-- The estimate of a lane before it is rounded, from the newest 2j + 1 iterates; none where a divisor is too small. -/
def epsValue (tau : Num) (j : Nat) (xs : List Num) : Option Num :=
  if j = 1 then
    let d1 := (numAt xs 1).sub (numAt xs 0)
    let d2 := (numAt xs 2).sub (numAt xs 1)
    let d := d2.sub d1
    if tooSmall tau d then none else some ((numAt xs 2).sub ((d2.mul d2).1.div d))
  else wynn tau (2 * j) (List.replicate (2 * j + 2) (.zero false)) xs

/-- EstEps (R248) of a lane's iterates, oldest first: the estimate and DIVZ. -/
def estEps (tau : Num) (xs : List Word) : Word × Bool :=
  let n := xs.length
  let last := xs.getLastD 0
  let j := (n - 1) / 2
  if n = 0 then (0, true)
  else if xs.any fun x => !(f32 x).isFinite then (last, true)
  else if j = 0 then (last, false)
  else
    match epsValue tau j ((xs.drop (n - (2 * j + 1))).map f32) with
    | none => (last, true)
    | some r => if (f32 (toF32 r)).isInf then (last, true) else (toF32 r, false)

/-! ### LSQ (R249) -/

/-- Σ over lanes of Δ_i × Δ_k, every product exact. `ds` holds the differences of each lane. -/
def gram (ds : List (List Num)) (i k : Nat) : Num :=
  ds.foldl (fun acc d => r64 (acc.add false ((numAt d i).mul (numAt d k)).1).1) (.zero false)

/-- Rows of the Cholesky factor of H for the indices from f on: the rows found, or none at a pivot that is too small. -/
def choleskyFrom (h : Nat → Nat → Num) (limit : Num) (f : Nat) : Nat → List (List Num) → Option (List (List Num))
  | 0, rows => some rows
  | fuel + 1, rows =>
    let i := rows.length
    let row := (List.range i).foldl (fun (r : List Num) k =>
      let lk := rows.getD k []
      let v := (List.range k).foldl (fun v j => sub64 v (mul64 (numAt r j) (numAt lk j))) (h (f + i) (f + k))
      r ++ [div64 v (numAt lk k)]) []
    let d := row.foldl (fun d x => sub64 d (mul64 x x)) (h (f + i) (f + i))
    if d.le (.zero false) ∨ d.lt limit ∨ d.isNan then none
    else choleskyFrom h limit f fuel (rows ++ [row ++ [sqrt64 d]])

/-- H z = 1 by forward and back substitution, and z / Σ z. -/
def weights (rows : List (List Num)) : List Num :=
  let n := rows.length
  let y := (List.range n).foldl (fun (y : List Num) i =>
    let r := rows.getD i []
    let v := (List.range i).foldl (fun v j => sub64 v (mul64 (numAt r j) (numAt y j))) (.ofInt 1)
    y ++ [div64 v (numAt r i)]) []
  let z := (List.range n).foldl (fun (z : List Num) m =>
    let i := n - 1 - m
    let v := (List.range m).foldl
      (fun v k => sub64 v (mul64 (numAt (rows.getD (i + 1 + k) []) i) (numAt z k))) (numAt y i)
    div64 v (numAt (rows.getD i []) i) :: z) []
  let t := sum64 z
  z.map fun x => div64 x t

/-- The first difference used, the weights γ from it on, and whether every active lane sets DIVZ. The sum t and the product TAU × t
are exact (R8). With two iterates and TAU above 1 no difference is left, and so no weight. -/
def lsqWeights (ds : List (List Num)) (tau : Num) (m : Nat) : Nat → Nat → Nat × List Num × Bool
  | 0, _ => (m - 1, [.ofInt 1], true)
  | fuel + 1, f =>
    let h := gram ds
    let t := ((List.range (m - f)).map fun i => h (f + i) (f + i)).foldl (fun (t x : Num) => (t.add false x).1) (.zero false)
    if t.isZero then (f, if f < m then List.replicate (m - 1 - f) (.zero false) ++ [.ofInt 1] else [], false)
    else
      match choleskyFrom h (tau.mul t).1 f (m - f) [] with
      | some rows => (f, weights rows, false)
      | none => if f + 1 = m - 1 then (m - 1, [.ofInt 1], true) else lsqWeights ds tau m fuel (f + 1)

/-- The iterates of a lane, oldest first. -/
def Xa.iterates (x : Xa) (i : Nat) : List Word := x.history.map fun v => lane v i

/-- The lanes of a mask, ascending. -/
def lanesIn (m : Mask) : List Nat := (List.range 1024).filter fun i => m.getLsbD i

/-- Neighbouring differences. -/
def differences (xs : List Num) : List Num := (xs.drop 1).zipWith (fun y x => y.sub x) xs

/-- EstLsq (R249): the estimate of every lane, and DIVZ of the active lanes. -/
def Xa.estLsq (x : Xa) (act : Mask) : Nat → Word × Bool :=
  let n := x.history.length
  let its := (lanesIn act).map fun i => (x.iterates i).map f32
  if n < 2 ∨ its.any fun l => l.any fun v => !v.isFinite then fun i => ((x.iterates i).getLastD 0, true)
  else
    let (f, g, divz) := lsqWeights (its.map differences) (f32 x.tau) (n - 1) n 0
    fun i =>
      let xs := (x.iterates i).map f32
      let r := toF32 (sum64 (g.zipIdx.map fun (w, k) => mul64 w (numAt xs (f + k + 1))))
      if (f32 r).isInf then ((x.iterates i).getLastD 0, true) else (r, divz)

/-! ### Flags (R250) -/

/-- |a − b| ≤ TOL for finite values. -/
def within (tol a b : Word) : Bool :=
  (f32 a).isFinite && (f32 b).isFinite && ((f32 a).sub (f32 b)).abs.le (f32 tol)

/-- The estimate, with DIVZ, STAG and CONV (R248 to R250). Under LSQ inactive lanes set no flag. -/
def Xa.estimate (x : Xa) (act : Mask) : Lanes × Mask × Mask × Mask :=
  let tau := f32 x.tau
  let est : Nat → Word × Bool := if x.lsq then x.estLsq act else fun i => estEps tau (x.iterates i)
  let rs := (List.range 1024).map est
  let sel : Mask := if x.lsq then act else allOnes
  let v : Lanes := rs.zipIdx.filterMap fun (r, i) => if r.1 = 0 then none else some (i, r.1)
  let some_ := x.history != []
  let divz := bitsOf 1024 fun i => (rs.getD i (0, false)).2
  let stag := bitsOf 1024 fun i => some_ && x.prev.any fun p => within x.tol (lane v i) (lane p i)
  let conv := bitsOf 1024 fun i => some_ && within x.tol (lane v i) ((x.iterates i).getLastD 0)
  (v, divz &&& sel, stag &&& sel, conv &&& sel)

/-! ### The instructions -/

/-- A tolerance that `xa.init` takes (R247). -/
def toleranceOk (w : Word) : Bool := (f32 w).isFinite && (!(f32 w).neg || (f32 w).isZero)

/-- The extrapolation state of a context changed. -/
def Ctx.setXa (x : Ctx) (y : Xa) : Ctx := { x with units := { x.units with xa := y } }

def execXaInit (f : Fields) (s : State) : Host.Outcome State Fault Refusal :=
  runSlot s fun e s =>
    let a := (e.sA f).toNat
    let tol : Word := (e.sB f).extractLsb' 0 32
    let tau : Word := (e.sB f).extractLsb' 32 32
    if a % 16 < 2 ∨ 8 < a % 16 ∨ 32 ≤ a ∨ !toleranceOk tol ∨ !toleranceOk tau then .trap causeIllegalOperand none
    else .done (s.setCtx e.n e.c (e.x.setXa { depth := a % 16, lsq := decide (16 ≤ a), tol := tol, tau := tau }))

/-- An iterate joins the history (R247). -/
def Xa.pushed (x : Xa) (v : Lanes) : Xa :=
  { x with history := (if x.history.length < x.depth then x.history else x.history.drop 1) ++ [v] }

def execXaPush (f : Fields) (s : State) : Host.Outcome State Fault Refusal :=
  runLocal s fun e => e.x.setXa (e.x.units.xa.pushed (e.vecA f))

def execXaEst (f : Fields) (s : State) : Host.Outcome State Fault Refusal :=
  runSlot s fun e s =>
    let r := e.x.units.xa.estimate e.b.latch.active
    let x := (e.x.setXa { e.x.units.xa with prev := some r.1 }).push 16 (.xa r.2.1 r.2.2.1 r.2.2.2)
    .done ((s.setCtx e.n e.c x).writeVec e f.d.toNat 16 e.b.latch.active r.1)

/-- A flag of the extrapolation state (R247). -/
def Xa.flag (x : Xa) : Nat → Mask
  | 0 => x.divz
  | 1 => x.stag
  | _ => x.conv

def execXaStat (f : Fields) (s : State) : Host.Outcome State Fault Refusal :=
  runLocal s fun e => e.x.putM f.d 1 allOnes (e.x.units.xa.flag f.b.toNat)

end Sys2Proof.Machine
end

