-- ==== Sys2Proof/Machine/LoadStore.lean ====
section
/-! DEFINITION. Scalar and vector loads and stores, prefetch, and atomics (R107 to R115). -/

namespace Sys2Proof.Machine

/-- The destination of a landing in sD; none where the value is discarded (R109, R271). -/
def Env.landDest (e : Env) (d : BitVec 5) : Option RegWrite :=
  if d = 0 then none
  else if e.b.latch.ctl.inevt ∧ 28 ≤ d.toNat then some (.es (d.toNat - 28) 0)
  else some (.s d.toNat 0)

/-- A scalar load (R108). -/
def runLoad (s : State) (f : Fields) (kind : LandKind) (size : Nat) : Host.Outcome State Fault Refusal :=
  runSlot s fun e s => s.load e (!f.md) (e.ldAddr false f) size size kind (e.landDest f.d) (ldDistance f)

def execLdI8 (f : Fields) (s : State) : Host.Outcome State Fault Refusal := runLoad s f .signed 1

def execLdN8 (f : Fields) (s : State) : Host.Outcome State Fault Refusal := runLoad s f .unsigned 1

def execLdI16 (f : Fields) (s : State) : Host.Outcome State Fault Refusal := runLoad s f .signed 2

def execLdN16 (f : Fields) (s : State) : Host.Outcome State Fault Refusal := runLoad s f .unsigned 2

def execLdI32 (f : Fields) (s : State) : Host.Outcome State Fault Refusal := runLoad s f .signed 4

def execLdN32 (f : Fields) (s : State) : Host.Outcome State Fault Refusal := runLoad s f .unsigned 4

def execLdI64 (f : Fields) (s : State) : Host.Outcome State Fault Refusal := runLoad s f .unsigned 8

/-- `ld.v` (R111): the active lanes are written; vector operand 17 discards. -/
def execLdV (f : Fields) (s : State) : Host.Outcome State Fault Refusal :=
  runSlot s fun e s =>
    let dest : Option RegWrite := if f.d.toNat < 16 then some (.v f.d.toNat e.b.latch.active []) else none
    s.load e true (e.ldAddr true f) 4096 64 .lanes dest (ldDistance f)

/-- A scalar store (R112). -/
def runStore (s : State) (f : Fields) (size : Nat) : Host.Outcome State Fault Refusal :=
  runSlot s fun e s => s.store e (e.maAddr f) size size [(0, wordLe size (e.sB f))]

def execSt8 (f : Fields) (s : State) : Host.Outcome State Fault Refusal := runStore s f 1

def execSt16 (f : Fields) (s : State) : Host.Outcome State Fault Refusal := runStore s f 2

def execSt32 (f : Fields) (s : State) : Host.Outcome State Fault Refusal := runStore s f 4

def execSt64 (f : Fields) (s : State) : Host.Outcome State Fault Refusal := runStore s f 8

/-- The bytes that `st.v` writes, by offset: the words of the active lanes (R111). -/
def lanePieces (act : Mask) (v : Lanes) : List (Nat × List Byte) :=
  (List.range 1024).filterMap fun i => if act.getLsbD i then some (4 * i, wordLe 4 (lane v i)) else none

def execStV (f : Fields) (s : State) : Host.Outcome State Fault Refusal :=
  runSlot s fun e s => s.store e (e.maAddr f) 4096 64 (lanePieces e.b.latch.active (e.vecB f))

/-- A line brought into its home L2 slice (R325). -/
def State.fillL2 (s : State) (l : Nat) : State :=
  let s := s.reach l
  { s with mem := s.mem.setLine l (s.mem.line l) }

/-- A line brought into the L1 of a core that holds no copy of use at its T (R113, R328). The copy's lease runs to T + 32 (R332), and
T stays: a prefetch orders nothing. -/
def State.fillL1 (s : State) (n l : Nat) : State :=
  let t := (s.core n).t
  if (tget (s.core n).l1 l).any fun c => c.w < t && t ≤ c.e then s
  else
    let s := s.reach l
    let h := s.mem.line l
    let d := readBytes s.mem.bytes (64 * l) 64
    let s := { s with mem := s.mem.setLine l { h with r := max h.r (t + 32) } }
    s.modCore n fun k => k.keepL1 s.clock l ⟨d, h.w, t + 32⟩

/-- `pref` (R113): nothing happens unless the address is in local memory and may be read. It has no access size, so no address is
misaligned (DESIGN CHOICE, log 60). -/
def execPref (f : Fields) (s : State) : Host.Outcome State Fault Refusal :=
  runSlot s fun e s =>
    match s.runAt e.n e.px .load (e.maAddr f).toNat 1 with
    | .ok (t, .mem pa) => .done (if f.md then t.fillL2 (lineOf pa) else t.fillL1 e.n (lineOf pa))
    | _ => .done s

/-- An atomic (R114, R115). -/
def runAtomic (s : State) (f : Fields) (op : AmoOp) : Host.Outcome State Fault Refusal :=
  runSlot s fun e s =>
    s.atomic e (e.ldAddr false f) ⟨op, f.md, e.sB f, e.sD f⟩ (e.landDest f.d) (laDistance f)

def execAmoAdd (f : Fields) (s : State) : Host.Outcome State Fault Refusal := runAtomic s f .add

def execAmoAnd (f : Fields) (s : State) : Host.Outcome State Fault Refusal := runAtomic s f .and

def execAmoOr (f : Fields) (s : State) : Host.Outcome State Fault Refusal := runAtomic s f .or

def execAmoXor (f : Fields) (s : State) : Host.Outcome State Fault Refusal := runAtomic s f .xor

def execAmoMin (f : Fields) (s : State) : Host.Outcome State Fault Refusal := runAtomic s f .min

def execAmoMax (f : Fields) (s : State) : Host.Outcome State Fault Refusal := runAtomic s f .max

def execAmoXchg (f : Fields) (s : State) : Host.Outcome State Fault Refusal := runAtomic s f .xchg

def execAmoCas (f : Fields) (s : State) : Host.Outcome State Fault Refusal := runAtomic s f .cas

def execAmoFadd (f : Fields) (s : State) : Host.Outcome State Fault Refusal := runAtomic s f .fadd

end Sys2Proof.Machine
end

