-- ==== Sys2Proof/Machine/MemoryEvents.lean ====
section
/-! DEFINITION. The memory system by itself: accesses that take their places and perform (R109, R112, R115, R121, R328), the
filling of stash lines (R335), evictions (R325), logical time (R327), and what arrives through the fabric interface (R330,
R339). Each is an event of the package. -/

namespace Sys2Proof.Machine

/-! ### Data of loads (R109, R110, R360) -/

/-- The answer of a peer read has come: the request is open no longer. -/
def State.dropRemote (s : State) (id : Nat) : State :=
  { s with fabric := { s.fabric with remotes := tdel s.fabric.remotes id } }

/-- Some part of a landing is still to come. -/
def State.landingOpen (s : State) (landing : Nat) : Bool := s.fabric.remotes.any fun r => r.2.landing = some landing

/-- The status of a landing after data for part of it (R110). -/
def Arrival.after (a : Arrival) (st : DataStatus) (more : Bool) : Arrival :=
  match a, st with
  | .failed, _ | _, .failed => .failed
  | .uncorrectable, _ | _, .uncorrectable => .uncorrectable
  | _, .good => if more then .waiting else .arrived

/-- What lands for a suspended task is written to the vestibule of its save area (R274). -/
def State.saveLanding (s : State) (n uid : Nat) : State :=
  match tget (s.core n).suspended uid with
  | some e => s.saveRegions n e.ctx vestibuleRegions
  | none => s

/-- Data for a part of a landing. -/
def State.landPart (s : State) (r : Remote) (landing : Nat) (data : List Byte) (st : DataStatus) : State :=
  let more := s.landingOpen landing
  (s.modCore r.core fun k => k.modTask r.uid fun x => x.modLanding landing fun l d =>
    let good := st = .good
    ({ l with status := l.status.after st more }, if good then d.patch l (r.addr - l.addr).toNat data else d)).saveLanding
      r.core r.uid

/-- Data for a copy of a buffer phase (R86). That marked uncorrectable has the bytes before the first one marked, whose row is kept
(R353). -/
def State.copyPart (s : State) (r : Remote) (id a : Nat) (data : List Byte) (st : DataStatus) : State :=
  match st with
  | .good => s.writeSpad r.core [(a, data)]
  | .uncorrectable =>
    let at_ := a + data.length
    (s.writeSpad r.core [(a, data)]).modCore r.core fun k =>
      { k with async := k.async.map fun o =>
          if o.id = id then { o with bad := o.bad ++ (o.rows.findIdx? fun w => w.1 ≤ at_ ∧ at_ < w.1 + w.2.2).toList } else o }
  | .failed => s.modCore r.core fun k => k.modTask r.uid fun x =>
      { x with deferred := x.deferred ++ [{ id := id, cause := causeRemoteFail, taddr := r.addr }] }

/-- Data for a read that blocks a bundle (R360). That marked uncorrectable has the bytes before the first one marked. A read that
failed is made again, or fails, when its slot runs. -/
def State.bufferPart (s : State) (r : Remote) (data : List Byte) (st : DataStatus) : State :=
  match st with
  | .failed => s
  | _ => s.modCore r.core fun k => k.modTask r.uid fun x =>
      { x with
        peerBuf := data.zipIdx.foldl (fun m b => tset m (r.addr.toNat + b.2) b.1) x.peerBuf
        peerBad := if st = .uncorrectable then some (lowerAddr x.peerBad (r.addr + BitVec.ofNat 64 data.length)) else x.peerBad }

/-- Data for a peer read arrives. -/
def State.remoteData (s : State) (id : Nat) (r : Remote) (data : List Byte) (st : DataStatus) : State :=
  let s := s.dropRemote id
  match r.landing, r.copy with
  | some l, _ => s.landPart r l data st
  | none, some (o, a) => s.copyPart r o a data st
  | none, none => s.bufferPart r data st

/-- An atomic of the core has not taken its place yet. -/
def Core.unplaced (k : Core) (id : Nat) : Bool := k.outq.any fun a => a.id = id && !a.placed

/-- A landing of local data that has not arrived, at an address. -/
def State.localWait (s : State) (n : Nat) (x : Ctx) (addr : Nat) : Option Landing :=
  (x.pend ++ (x.frame.map (·.pend)).getD [] ++ (x.eframe.map (·.pend)).getD []).findSome? fun w =>
    match w.landing with
    | some l =>
      if l.addr.toNat = addr ∧ l.status = .waiting ∧ !s.landingOpen l.id ∧ !(s.core n).unplaced l.id then some l else none
    | none => none

/-- Data arrives for a load of a context at an address (R109). Local data has been read when its load took its place. -/
def State.dataArrives (s : State) (n c addr : Nat) (data : List Byte) (st : DataStatus) : Option State :=
  match s.fabric.remotes.find? fun r =>
    r.2.core = n && r.2.ctx = c && r.2.addr.toNat = addr && !r.2.counts with
  | some (id, r) => if st = .good ∧ data.length ≠ r.len then none else some (s.remoteData id r data st)
  | none =>
    ((s.core n).tasksAt c).findSome? fun x => (s.localWait n x addr).map fun l =>
      (s.modCore n fun k => k.modTask x.task.uid fun x =>
        x.modLanding l.id fun l d => ({ l with status := l.status.after st false }, d)).saveLanding n x.task.uid

def execLoadDataArrival (s : State) : Host.Outcome State Fault Refusal :=
  runEvent s fun i s => match i with | .loadDataArrival n c a data st => s.dataArrives n c a data st | _ => none

/-! ### Accesses of a core -/

/-- The oldest access of a core that has not performed is an atomic, or is a store. -/
def Core.oldestIs (k : Core) (atomic : Bool) : Bool :=
  match k.outq with | a :: _ => a.amo.isSome = atomic | [] => false

def execStorePerform (s : State) : Host.Outcome State Fault Refusal :=
  runEvent s fun i s =>
    match i with
    | .storePerform n => if (s.core n).oldestIs false then some (s.retireAccess n false) else none
    | _ => none

def execAtomicPerform (s : State) : Host.Outcome State Fault Refusal :=
  runEvent s fun i s =>
    match i with
    | .atomicPerform n => if (s.core n).oldestIs true then some (s.retireAccess n true) else none
    | _ => none

def execHomeAccess (s : State) : Host.Outcome State Fault Refusal :=
  runEvent s fun i s =>
    match i with
    | .homeAccess n => if (s.core n).outq.any (fun a => !a.placed) then some (s.placeNext n) else none
    | _ => none

/-- The line of a window at an aperture offset of a context is filled (R335), once no operation on its granule is outstanding
(R191). -/
def State.fillAt (s : State) (n : Nat) (x : Ctx) (off : Nat) : Option State :=
  ((s.core n).windowAt x.task.spBase off).bind fun (y, j, w) =>
    let i := (off - 65536 * w.spg) / 64
    if (tget w.lines i).isSome ∨ (s.core n).windowBusy y.task.uid j (64 * i) 64 then none else some (s.stashFillLine n y.task.uid j i)

def execStashFill (s : State) : Host.Outcome State Fault Refusal :=
  runEvent s fun i s =>
    match i with
    | .stashFill n c off => (s.ctx? n c).bind fun x => s.fillAt n x off
    | _ => none

def execL2Eviction (s : State) : Host.Outcome State Fault Refusal :=
  runEvent s fun i s =>
    match i with
    | .l2Eviction l => (s.mem.evict l).map fun m => { s with mem := m }
    | _ => none

/-- A core has run 128 cycles since its last tick (R327). -/
def Core.tickDue (k : Core) : Bool := decide (k.ticks < k.ccyc.toNat / 128)

def execLogicalTimeTick (s : State) : Host.Outcome State Fault Refusal :=
  runEvent s fun i s =>
    match i with
    | .logicalTimeTick n =>
      if (s.core n).tickDue then some (s.modCore n fun k => { k with t := k.t + 1, ticks := k.ticks + 1 }) else none
    | _ => none

/-! ### The fabric interface (R330, R339) -/

/-- A range lies in the package's memory (R319). -/
def inMemory (a len : Nat) : Bool := decide (a + len ≤ Config.memBytes)

/-- A range lies in the memory map: in the package's memory, and in no block that a reset has removed (R319, R354). -/
def Memory.has (m : Memory) (a len : Nat) : Bool := inMemory a len && (len = 0 || !m.anyGone a len)

/-- An access that arrives, before its first line: each line of a read or a write is one access (R313). -/
def arrivingOf : RemoteAccess → Arriving
  | .load a len => { reads := lineParts a len, data := some [] }
  | .store ps => { writes := byLine (ps.flatMap fun p => cutLines p.1 p.2), pieces := ps }
  | .atomic _ _ _ _ _ => {}

/-- The next line of an arriving access is read or written, seen by the line monitor (R69, R330). -/
def State.arriveLine (s : State) (x : Arriving) : State × Arriving :=
  match x.reads, x.writes with
  | (a, n) :: rs, _ =>
    let bad := x.bad || s.mem.isBad a n
    let (s, d) := s.remoteReadLine (lineOf a)
    let here := if bad then [] else (d.drop (a % 64)).take n
    (s, { x with reads := rs, data := x.data.map (· ++ here), bad := bad })
  | [], (l, ps) :: ws =>
    (ps.foldl (fun s p => s.monitorWrite p.1 p.2.length) (s.remotePieces l ps), { x with writes := ws })
  | [], [] => (s, x)

/-- An access that has performed is answered. A block that a write covers whole takes a new check value (R353). -/
def State.arriveEnd (s : State) (x : Arriving) : State :=
  match x.data with
  | some d => s.send (.data d x.bad)
  | none => ({ s with mem := s.mem.unmark (spansOf x.pieces) } : State).send .ack

/-- An arriving access goes on by one line. -/
def State.arriveOn (s : State) (id : Nat) (x : Arriving) : State :=
  let (s, x) := s.arriveLine x
  if x.reads = [] ∧ x.writes = [] then
    ({ s with fabric := { s.fabric with arriving := tdel s.fabric.arriving id } } : State).arriveEnd x
  else { s with fabric := { s.fabric with arriving := tset s.fabric.arriving id x } }

/-- An access of the host performs before anything else arrives (R92, log 27). -/
def State.arriveWhole (s : State) (x : Arriving) : State :=
  let r := (List.range (x.reads.length + x.writes.length)).foldl (fun (r : State × Arriving) _ => r.1.arriveLine r.2) (s, x)
  r.1.arriveEnd r.2

/-- An access of a peer arrives: its first line performs. -/
def State.arrivePeer (s : State) (acc : RemoteAccess) : State :=
  let (id, s) := s.takeId
  s.arriveOn id (arrivingOf acc)

/-- An atomic that arrives performs at its home in one step (R115, R330). -/
def State.arriveAtomic (s : State) (m : Amo) (a : Nat) : State :=
  let old : DWord := leWord 64 (s.peek a m.bytes)
  let bad := s.mem.isBad a m.bytes
  let new := wordLe m.bytes (m.new old)
  ((s.remoteWriteLine a new).monitorWrite a new.length).send (.data (if bad then [] else wordLe 8 (m.result old)) bad)

/-- The bytes that an access names exist. -/
def Memory.hasAll (m : Memory) : RemoteAccess → Bool
  | .load a len => m.has a len
  | .store ps => ps.all fun p => m.has p.1 p.2.length
  | .atomic op md a b cmp => m.has a (Amo.bytes ⟨op, md, b, cmp⟩)

/-- A remote access arrives (R313, R330). -/
def State.arriveAccess (s : State) : RemoteAccess → State
  | .atomic op md a b cmp => s.arriveAtomic ⟨op, md, b, cmp⟩ a
  | acc => s.arrivePeer acc

def execRemoteAccessArrival (s : State) : Host.Outcome State Fault Refusal :=
  match s.input with
  | .remoteAccessArrival _ acc =>
    if !s.mem.hasAll acc then .fault .noSuchAddress
    else runEvent s fun i s =>
      match i with
      | .remoteAccessArrival node acc => if s.hearsNode node then some (s.arriveAccess acc) else none
      | _ => none
  | _ => runEvent s fun i s =>
    match i with
    | .remoteAccessLine id => (tget s.fabric.arriving id).map fun x => s.arriveOn id x
    | _ => none

/-- A remote operation that counts leaves CNTRM, with the last part of its store (R112). -/
def State.leaveRemote (s : State) (r : Remote) : State :=
  if r.group ≠ 0 ∧ s.fabric.remotes.any (fun q => q.2.group = r.group) then s else s.leaveCounter r.core r.uid 1

/-- A remote store or atomic has performed (R121): it leaves CNTRM, and the value that an atomic gives D lands (R110). -/
def State.remoteDone (s : State) (id : Nat) (r : Remote) (v : DWord) : State :=
  let s := s.dropRemote id
  let s := match r.landing with
    | none => s
    | some l => (s.modCore r.core fun k => k.modTask r.uid fun x => x.modLanding l fun l d =>
        ({ l with status := l.status.after .good false }, d.patch l 0 (wordLe 8 v))).saveLanding r.core r.uid
  s.leaveRemote r

def execRemoteCompletion (s : State) : Host.Outcome State Fault Refusal :=
  runEvent s fun i s =>
    match i with
    | .remoteCompletion id v =>
      (tget s.fabric.remotes id).bind fun r => if r.counts then some (s.remoteDone id r v) else none
    | _ => none

/-- An RMA write of the host performs whole; one of a peer is its store (R313). -/
def execHostRmaWrite (s : State) : Host.Outcome State Fault Refusal :=
  match s.input with
  | .hostRmaWrite _ a bs =>
    if !s.mem.has a bs.length then .fault .noSuchAddress
    else runEvent s fun i s =>
      match i with
      | .hostRmaWrite none a bs => some (s.arriveWhole (arrivingOf (.store [(a, bs)])))
      | .hostRmaWrite (some node) a bs => if s.hearsNode node then some (s.arrivePeer (.store [(a, bs)])) else none
      | _ => none
  | _ => runEvent s fun _ _ => none

def execHostRmaRead (s : State) : Host.Outcome State Fault Refusal :=
  match s.input with
  | .hostRmaRead a len =>
    if !s.mem.has a len then .fault .noSuchAddress
    else runEvent s fun i s =>
      match i with
      | .hostRmaRead a len => some (s.arriveWhole (arrivingOf (.load a len)))
      | _ => none
  | _ => runEvent s fun _ _ => none

end Sys2Proof.Machine
end

