-- ==== Sys2Proof/Machine/Management.lean ====
section
/-! DEFINITION. What the management interface and the system controller do (R322, R340 to R349): the fabric timeout, the recovery
of a job, the checkpoint unit's settings and copies, and TLB invalidations. Each is an event of the package. -/

namespace Sys2Proof.Machine

/-! ### The fabric timeout (R341) -/

/-- A peer operation has failed (R110, R118, R340). -/
def State.failRemote (s : State) (id : Nat) (r : Remote) : State :=
  if r.counts then
    let s := s.dropRemote id
    let s := match r.landing with
      | none => s
      | some l => s.modCore r.core fun k => k.modTask r.uid fun x => x.modLanding l fun l d => ({ l with status := .failed }, d)
    (s.modCore r.core fun k => k.modTask r.uid fun x => { x with cnt := x.cnt.lose r.addr }).leaveRemote r
  else s.remoteData id r [] .failed

/-- A node is FAILED, and every operation to it fails (R341). -/
def State.failNode (s : State) (node : Nat) : State :=
  let x := mget {} s.fabric.nodes node
  let s := { s with fabric := { s.fabric with nodes := mset {} s.fabric.nodes node { x with failed := true } } }
  (s.fabric.remotes.filter fun r => r.2.node = node).foldl (fun s r => s.failRemote r.1 r.2) s

/-- Some operation to a node has waited for FTIMEOUT. -/
def State.nodeLate (s : State) (node : Nat) : Bool :=
  s.fabric.remotes.any fun r => r.2.node = node && decide (r.2.issued + s.fabric.ftimeout ≤ s.gtime.toNat)

def execFabricTimeout (s : State) : Host.Outcome State Fault Refusal :=
  runEvent s fun i s =>
    match i with
    | .fabricTimeout node => if s.nodeLate node then some (s.failNode node) else none
    | _ => none

def execFtimeoutSet (s : State) : Host.Outcome State Fault Refusal :=
  runEvent s fun i s =>
    match i with
    | .ftimeoutSet ns =>
      if 100000 ≤ ns ∧ ns ≤ 1000000000 then some { s with fabric := { s.fabric with ftimeout := ns } } else none
    | _ => none

/-! ### The checkpoint unit (R342 to R346) -/

/-- The settings are in their ranges, and the shard and the undo area in the memory map (R342, R354). -/
def Memory.ckptCfgOk (m : Memory) (c : CkptCfg) : Bool :=
  c.ckbase % 65536 = 0 && c.cklen % 65536 = 0 && c.resv % 65536 = 0 && c.undobase % 65536 = 0 && c.undolen % 65536 = 0
    && c.buddy < 2048 && m.has c.ckbase c.cklen && m.has c.undobase c.undolen

/-- A reserve is assigned (R342). -/
def Ckpt.assign (k : Ckpt) (buddy resv : Nat) : Ckpt :=
  { k with cfg := { k.cfg with buddy := buddy, resv := resv }, last := 0, opened := none, ds0 := { all := true }, ds1 := { all := true } }

/-- The settings are given; where BUDDY or RESV changes, a reserve is assigned (R342). -/
def Ckpt.set (k : Ckpt) (c : CkptCfg) : Ckpt :=
  if c.buddy = k.cfg.buddy ∧ c.resv = k.cfg.resv then { k with cfg := c } else Ckpt.assign { k with cfg := c } c.buddy c.resv

def execCheckpointSettings (s : State) : Host.Outcome State Fault Refusal :=
  runEvent s fun i s =>
    match i with
    | .checkpointSettings c => if s.mem.ckptCfgOk c then some { s with ckpt := s.ckpt.set c } else none
    | _ => none

def execReserveAssign (s : State) : Host.Outcome State Fault Refusal :=
  runEvent s fun i s =>
    match i with
    | .reserveAssign buddy resv =>
      if buddy < 2048 ∧ resv % 65536 = 0 then some { s with ckpt := s.ckpt.assign buddy resv } else none
    | _ => none

/-- A page is still to be copied. -/
def Ckpt.owes (k : Ckpt) (page : Nat) : Bool := decide (page < ckptPages k.cfg) && k.copy.any fun c => c.left.has page

def execCkptPageCopied (s : State) : Host.Outcome State Fault Refusal :=
  runEvent s fun i s =>
    match i with
    | .ckptPageCopied page => if s.ckpt.owes page then some (s.copyPage page) else none
    | _ => none

/-- BUDDY is FAILED, or the copy has waited for FTIMEOUT (R344). -/
def State.copyLate (s : State) (c : CkptCopy) : Bool :=
  !s.nodeUp s.ckpt.cfg.buddy || decide (c.issued + s.fabric.ftimeout ≤ s.gtime.toNat)

/-- Every page of a copy has been copied. -/
def Ckpt.copied (k : Ckpt) (c : CkptCopy) : Bool :=
  if c.left.all then (List.range (ckptPages k.cfg)).all fun p => !c.left.has p
  else c.left.except.all fun e => decide (ckptPages k.cfg ≤ e.1)

/-- The copy is acknowledged (R344). -/
def State.commitCopy (s : State) (c : CkptCopy) : State :=
  let s := { s with ckpt := { s.ckpt with copy := none, last := c.step } }
  (s.leaveCounter c.core c.uid 1).serveBegins

def execCkptCopyComplete (s : State) : Host.Outcome State Fault Refusal :=
  runEvent s fun _ s =>
    s.ckpt.copy.bind fun c => if s.ckpt.copied c ∧ !s.copyLate c then some (s.commitCopy c) else none

/-- The copy has failed (R343, R344). -/
def State.failCopy (s : State) (c : CkptCopy) : State :=
  let k := s.ckpt
  let every : PageSet := { all := true }
  let k := { k with copy := none, ds0 := if c.image = 0 then every else k.ds0, ds1 := if c.image = 0 then k.ds1 else every }
  let s := { s with ckpt := k }
  let a := BitVec.ofNat 64 (k.cfg.resv + k.cfg.cklen * c.image)
  let s := s.modCore c.core fun q => q.modTask c.uid fun x => { x with cnt := x.cnt.lose a }
  (s.leaveCounter c.core c.uid 1).serveBegins

def execCkptCopyFail (s : State) : Host.Outcome State Fault Refusal :=
  runEvent s fun _ s => s.ckpt.copy.bind fun c => if s.copyLate c then some (s.failCopy c) else none

/-! ### Recovery (R347 to R349) -/

/-- A task of the job on a core, whether it is on a context or suspended, has not ended. -/
def Core.runsTask (k : Core) (job : BitVec 32) : Bool :=
  k.tasks.any fun x => x.task.record.jobtag = job && x.run != .ended

/-- The record of an accepted entry of a queue, which may stand in the window still (R72). -/
def State.itemBytes (s : State) (q : Nat) : QItem → List Byte
  | .onChip bs | .walk bs _ => bs
  | .inWindow seq => s.slotBytes q seq

/-- A queue holds an accepted entry, or a tail launch that is to run next, of a job (R68, R72, R87). -/
def State.queueOfJob (s : State) (job : BitVec 32) (q : Nat) (x : Queue) : Bool :=
  ((x.items.map (s.itemBytes q)) ++ (x.tail.map (·.1)).toList).any fun bs => (parseRecord bs).jobtag = job

/-- The queues of a job (R349): those that hold a grid, an accepted entry or a tail launch of it. -/
def State.jobQueues (s : State) (job : BitVec 32) : List Nat :=
  ((s.grids.filter fun g => g.2.record.jobtag = job).map (·.2.queue)
    ++ (s.queues.filter fun q => s.queueOfJob job q.1 q.2).map (·.1)).dedup

/-- The queues of a job are stopped, its tails included (R349). -/
def State.stopQueues (s : State) (job : BitVec 32) : State :=
  let qs := s.jobQueues job
  let s := { s with grids := s.grids.map fun g =>
    if g.2.record.jobtag = job then (g.1, { g.2 with tail := none }) else g }
  qs.foldl (fun s q => (s.setQueue q { s.queue q with enable := false, tail := none }).discardWork q) s

/-- A suspended task ends where it is (R80, R349), its accesses ordered by nothing (R358). -/
def State.endSuspended (s : State) (n : Nat) (e : Suspended) : State :=
  let x := e.ctx
  let s := if x.task.record.prot then
      (s.issueHeld n e.slot x).modCore n fun k => k.modTask x.task.uid Ctx.commitHeld else s
  let s := s.modCore n fun k => k.modTask x.task.uid fun x => x.ended true
  s.dropHeld n x.task

/-- The job's tasks end (R349). -/
def State.endJob (s : State) (job : BitVec 32) : State :=
  s.cores.foldl (fun s k =>
    let s := k.2.ctxs.foldl (fun s x =>
      if x.2.task.record.jobtag = job ∧ x.2.run ≠ .ended then s.endTask k.1 x.1 true else s) s
    k.2.suspended.foldl (fun s e =>
      if e.2.ctx.task.record.jobtag = job ∧ e.2.ctx.run ≠ .ended then s.endSuspended k.1 e.2 else s) s) s

/-- Every counter of the job's ended contexts is 0 (R349). -/
def State.jobDrained (s : State) (job : BitVec 32) : Bool :=
  s.cores.all fun k => k.2.tasks.all fun x => x.task.record.jobtag != job || (x.cnt.st = 0 && x.cnt.rm = 0 && x.cnt.as = 0)

/-- A page of the shard as it was: what its bytes were, by offset. Later accesses take later times than any lease, and the slices keep
what they have room for (R2). -/
def State.putPage (s : State) (page : Nat) (data : SMap Byte) : State :=
  let a := s.ckpt.cfg.ckbase + 65536 * page
  let first := a / 64
  let t := (List.range 1024).foldl (fun t i => max t ((s.mem.line (first + i)).r + 1)) s.mem.rt
  let m : Memory := { s.mem with
    rt := t
    lines := (List.range 1024).foldl (fun m i => tset m (first + i) { w := t, r := t }) s.mem.lines }
  { s with mem := (m.putBlock a data).fit s.clock }

/-- Several pages as they were. -/
def State.putPages (s : State) (ps : SMap (SMap Byte)) : State := ps.foldl (fun s p => s.putPage p.1 p.2) s

/-- The pages of the shard that are 1 in a dirty set come back as an image gives them; a page that it does not list is all zeros. -/
def State.putImage (s : State) (ds : PageSet) (pages : SMap (List (Nat × Byte))) : State :=
  ((List.range (ckptPages s.ckpt.cfg)).filter ds.has).foldl (fun s p => s.putPage p (mget [] pages p)) s

/-- The pre-images of a generation, where it is that of the snapshot of a step (R346). -/
def UndoGen.of (u : UndoGen) (step : Nat) : SMap (SMap Byte) :=
  if u.active ∧ u.step = BitVec.ofNat 64 step then u.pages else []

/-- The checkpoint unit after a rollback to the snapshot of step r (R348). -/
def Ckpt.rolledBack (k : Ckpt) (r : Nat) : Ckpt :=
  let every : PageSet := { all := true }
  { k with
    ds0 := if r % 2 = 0 then {} else every, ds1 := if r % 2 = 0 then every else {}
    last := BitVec.ofNat 64 r, opened := none, copy := none }

/-- Rollback to the snapshot of step r (R348), newest pre-images first. `pages` are those that the buddy returns. -/
def State.rollback (s : State) (r : Nat) (pages : SMap (List (Nat × Byte))) : State :=
  let x := r % 2
  let k := s.ckpt
  let s :=
    if s.nodeUp k.cfg.buddy then s.putImage (if x = 0 then k.ds0 else k.ds1) pages
    else if !k.undo0.incomplete ∧ !k.undo1.incomplete then
      (s.putPages ((k.undo (1 - x)).of (r + 1))).putPages ((k.undo x).of r)
    else s.send .shardLost
  { s with ckpt := s.ckpt.rolledBack r }

/-- The node returns to UP (R349). -/
def State.nodeUpAgain (s : State) (node : Nat) : State :=
  let x := mget {} s.fabric.nodes node
  { s with fabric := { s.fabric with nodes := mset {} s.fabric.nodes node { x with failed := false } } }

/-- A spare takes the node number of a failed chip and the whole image of its shard (R349). -/
def State.becomeSpare (s : State) (node : Nat) (p : Recovery) : State :=
  let s := ({ s with fabric := { s.fabric with own := node } } : State).putImage { all := true } p.pages
  { s with ckpt := s.ckpt.rolledBack p.point }

/-- A recovery is recorded for a job, or forgotten. -/
def State.setRecovering (s : State) (job : BitVec 32) (r : Option (Nat × Bool)) : State :=
  let m := s.fabric.recovering
  { s with fabric := { s.fabric with recovering := match r with
    | some x => tset m job.toNat x
    | none => tdel m job.toNat } }

/-- The stages of a recovery from the second on, reported to the host one by one (R349). -/
def State.finishRecovery (s : State) (node : Nat) (p : Recovery) : State :=
  let s := s.send (.recovery 2)
  let s := (if p.spare then s else s.rollback p.point p.pages).send (.recovery 3)
  let s := (if p.spare then s.becomeSpare node p else s).send (.recovery 4)
  let s := match p.newReserve with
    | some a =>
      if s.ckpt.cfg.buddy = node ∧ !p.spare then { s with ckpt := s.ckpt.assign node a } else s
    | none => s
  ((s.send (.recovery 5)).nodeUpAgain node |>.send (.recovery 6)).setRecovering p.jobtag none

/-- The recovery of a job after a node has failed (R349): its queues are stopped and its tasks ended, and once their counters are 0
the rest follows. A second failure meanwhile loses the job. -/
def State.recover (s : State) (node : Nat) (p : Recovery) : Option State :=
  match tget s.fabric.recovering p.jobtag.toNat with
  | none =>
    let s := (((s.stopQueues p.jobtag).endJob p.jobtag).send (.recovery 1)).setRecovering p.jobtag (some (node, false))
    some (if s.jobDrained p.jobtag then s.finishRecovery node p else s)
  | some (first, lost) =>
    if lost then none
    else if first ≠ node then some ((s.send (.jobLost p.jobtag)).setRecovering p.jobtag (some (first, true)))
    else if s.jobDrained p.jobtag then some (s.finishRecovery node p)
    else none

def execNodeRecovery (s : State) : Host.Outcome State Fault Refusal :=
  runEvent s fun i s =>
    match i with
    | .nodeRecovery node p => if !s.hearsNode node ∨ p.spare then s.recover node p else none
    | _ => none

/-! ### TLB invalidations (R322) -/

def execTlbInvalidate (s : State) : Host.Outcome State Fault Refusal :=
  runEvent s fun i s =>
    match i with
    | .tlbInvalidate q base len =>
      if q < 64 then some { s with mem := { s.mem with invals := s.mem.invals ++ [(q, base, len)] } } else none
    | _ => none

/-- A peer operation is of a task of a queue, or of a task that has left the package. -/
def State.remoteOf (s : State) (q : Nat) (r : Remote) : Bool :=
  ((s.core r.core).findTask r.uid).all fun x => x.task.queue = q

/-- A context has no access that has been translated and has not performed: the counters are 0, no tile store is held by its phase, and
no copy of a `bswap` waits to start (R86, R322). -/
def Ctx.quiet (x : Ctx) : Bool :=
  x.cnt.st = 0 && x.cnt.rm = 0 && x.cnt.as = 0 && x.buf.held = []
    && x.bundle.all fun b => b.answers.all fun a => match a.2 with | .copy _ _ _ _ => false | _ => true

/-- Every access of the tasks of a queue has performed: those of its contexts, and every peer operation (R322). -/
def State.queueQuiet (s : State) (q : Nat) : Bool :=
  s.cores.all (fun k => k.2.tasks.all fun x => x.task.queue != q || x.quiet)
    && s.fabric.remotes.all fun r => !s.remoteOf q r.2

/-- An entry lies in a range of a queue. -/
def TlbEntry.inRange (e : TlbEntry) (q base len : Nat) : Bool :=
  e.queue = q && decide (e.base < base + len) && decide (base < e.base + 2 ^ e.bits)

def execTlbInvalidateComplete (s : State) : Host.Outcome State Fault Refusal :=
  runEvent s fun i s =>
    match i with
    | .tlbInvalidateComplete q base len =>
      if s.mem.invals.contains (q, base, len) ∧ s.queueQuiet q then
        some { s with mem := { s.mem with
          tlbs := s.mem.tlbs.filterMap fun t =>
            let es := t.2.filter fun e => !e.inRange q base len
            if es = [] then none else some (t.1, es)
          invals := s.mem.invals.erase (q, base, len) } }
      else none
    | _ => none

end Sys2Proof.Machine
end

