-- ==== Sys2Proof/Machine/Random.lean ====
section
/-! DEFINITION. The random generator's instructions (R310 to R312). -/

namespace Sys2Proof.Machine

def execRngKey (f : Fields) (s : State) : Host.Outcome State Fault Refusal := runLocal s fun e => e.x.setKey (e.sA f)

/-- QPOS is set; vectors made ahead are another part of the sequence. The value written is that of the bundle's latch
(R312). -/
def execRngPos (f : Fields) (s : State) : Host.Outcome State Fault Refusal :=
  runLocal s fun e =>
    { e.x.putS e.b.latch f.d 1 e.b.latch.ctl.qpos with
      rqAhead := 0, ctl := { e.x.ctl with qpos := e.sA f } }

def execRngPosR (f : Fields) (s : State) : Host.Outcome State Fault Refusal :=
  runScalar s f 1 fun e => e.b.latch.ctl.qpos

end Sys2Proof.Machine
end

