-- ==== Sys2Proof/Machine/Sha3.lean ====
section
/-! DEFINITION. SHA3-512 over a run of bytes, which the boot ROM and the attestation report use (R355, R356). The spec names
the function; its steps are those of the published standard (log 9). Lane (x, y) of the state stands at place 5x + y. -/

namespace Sys2Proof.Machine

/-- The place of a lane, with its coordinates taken modulo 5. -/
def laneAt (x y : Nat) : Nat := 5 * (x % 5) + y % 5

/-- The exclusive or of the five lanes of a sheet x. -/
def sheetParity (a : List DWord) (x : Nat) : DWord := ((a.drop (laneAt x 0)).take 5).foldr (· ^^^ ·) 0

/-- Step theta: a lane takes the parities of the sheet before its own and, turned by one, of the sheet after it. -/
def mixSheets (a : List DWord) : List DWord :=
  a.zipIdx.map fun (w, i) => w ^^^ sheetParity a (i / 5 + 4) ^^^ (sheetParity a (i / 5 + 1)).rotateLeft 1

/-- Steps rho and pi together, along the walk (x, y) → (y, 2x + 3y) from (1, 0): the lane reached at step t moves on to the next
lane of the walk, turned by the triangular number t(t + 1)/2. `turn` is that number and `new` the state being filled. -/
def walkLanes (old : List DWord) : Nat → Nat → Nat → Nat → List DWord → List DWord
  | 0, _, _, _, new => new
  | left + 1, x, y, turn, new =>
    walkLanes old left y ((2 * x + 3 * y) % 5) (turn + (25 - left))
      (new.set (laneAt y (2 * x + 3 * y)) ((old.getD (laneAt x y) 0).rotateLeft (turn % 64)))

/-- Step chi: a lane takes what stands in the second lane after it in its row where the first lane after it has no bit. -/
def mixRows (a : List DWord) : List DWord :=
  a.zipIdx.map fun (w, i) =>
    w ^^^ (a.getD (laneAt (i / 5 + 2) i) 0 &&& ~~~a.getD (laneAt (i / 5 + 1) i) 0)

/-- The next state of the register that the round constants are drawn from: multiplication by x modulo
x^8 + x^6 + x^5 + x^4 + 1. -/
def nextDraw (r : Nat) : Nat := if r < 128 then 2 * r else (2 * r) ^^^ 0x171

/-- Seven draws of the register: bit 2^j − 1 of a round constant is the low bit of the j-th. -/
def drawConst : List Nat → Nat → Nat → Nat × Nat
  | [], r, k => (k, r)
  | place :: places, r, k => drawConst places (nextDraw r) (k + r % 2 * 2 ^ place)

/-- The 24 rounds, the last of them step iota. -/
def permuteFrom : Nat → Nat → List DWord → List DWord
  | 0, _, a => a
  | left + 1, r, a =>
    let (k, r) := drawConst [0, 1, 3, 7, 15, 31, 63] r 0
    let a := mixSheets a
    permuteFrom left r ((mixRows (walkLanes a 24 1 0 1 a)).modify 0 (· ^^^ BitVec.ofNat 64 k))

/-- Blocks of 72 bytes are taken in, one after another: word j of a block goes to lane (j mod 5, j div 5). -/
def takeBlocks : Nat → List DWord → List Byte → List DWord
  | 0, a, _ => a
  | left + 1, a, bs =>
    let word (i : Nat) : DWord :=
      let j := i / 5 + 5 * (i % 5)
      if j < 9 then leWord 64 ((bs.drop (8 * j)).take 8) else 0
    takeBlocks left (permuteFrom 24 1 (a.zipIdx.map fun (w, i) => w ^^^ word i)) (bs.drop 72)

/-- The bytes that fill a message up to a multiple of 72, of which `k` are missing. -/
def sha3Fill (k : Nat) : List Byte :=
  (List.range k).map fun i => (if i = 0 then 0x06 else 0) ||| if i + 1 = k then 0x80 else 0

/-- SHA3-512: the first eight words, lane (j mod 5, j div 5) for word j. -/
def sha3 (bs : List Byte) : List Byte :=
  let a := takeBlocks (bs.length / 72 + 1) (List.replicate 25 0) (bs ++ sha3Fill (72 - bs.length % 72))
  (List.range 8).flatMap fun j => wordLe 8 (a.getD (laneAt j (j / 5)) 0)

end Sys2Proof.Machine
end

