-- ==== Sys2Proof/Machine/Reliability.lean ====
section
/-! DEFINITION. Power (R45, R350), slow-down notices (R351), repair (R352), check values and lasting faults (R353, R354), reset
(R44), firmware (R355) and attestation (R356). Each is an event of the package. -/

namespace Sys2Proof.Machine

/-! ### Power -/

def execPlimitSet (s : State) : Host.Outcome State Fault Refusal :=
  runEvent s fun i s =>
    match i with
    | .plimitSet w => if 1500 ≤ w ∧ w ≤ 3400 then some { s with board := { s.board with plimit := w } } else none
    | _ => none

def execPowerOverBound (s : State) : Host.Outcome State Fault Refusal :=
  runEvent s fun i s =>
    match i with
    | .powerOverBound n clear =>
      let k := s.core n
      let m := k.pwrmask &&& ~~~clear
      if n < 144 ∧ slotmapOk (k.slotmap &&& m) then some (s.setCore n { k with pwrmask := m }) else none
    | _ => none

def execCapLower (s : State) : Host.Outcome State Fault Refusal :=
  runEvent s fun i s =>
    match i with
    | .capLower n cap =>
      if n < 144 ∧ opptCap (s.core n).oppt < cap.toNat then some (s.modCore n fun k => k.setCap cap.toNat) else none
    | _ => none

def execCapRaise (s : State) : Host.Outcome State Fault Refusal :=
  runEvent s fun i s =>
    match i with
    | .capRaise n cap restore =>
      if n < 144 ∧ cap.toNat ≤ opptCap (s.core n).oppt then
        some (s.modCore n fun k => { k.setCap cap.toNat with pwrmask := k.pwrmask ||| restore })
      else none
    | _ => none

/-! ### Slow-down notices (R351) -/

/-- A notice that was applied to a core after another one, once that is lifted: it no longer restores what the other gave. -/
def Notice.without (x y : Notice) (n : Nat) : Notice :=
  match tget x.saved n, tget y.saved n with
  | some v, some old => if some v = tget y.given n then { x with saved := tset x.saved n old } else x
  | _, _ => x

/-- A notice is lifted from a core: CAP is what it was before, where nothing has changed it since (log 45). -/
def State.liftFrom (s : State) (y : Notice) (n : Nat) : State :=
  let cap := opptCap (s.core n).oppt
  let s := { s with board := { s.board with notices := s.board.notices.map fun e => (e.1, e.2.without y n) } }
  if y.capWithout n cap = cap then s else s.modCore n fun k => k.setCap (y.capWithout n cap)

/-- A notice is lifted (R351). -/
def State.liftNotice (s : State) (job : Nat) : State :=
  match tget s.board.notices job with
  | none => s
  | some x =>
    let s := { s with board := { s.board with notices := tdel s.board.notices job } }
    (x.saved.map (·.1)).foldl (fun s n => s.liftFrom x n) s

/-- A notice arrives: it replaces an earlier one of the job, and POINT 0 lifts it. -/
def State.takeNotice (s : State) (job : BitVec 32) (point : BitVec 8) (until_ : DWord) : State :=
  if point = 0 then s.liftNotice job.toNat
  else
    let old : Notice := (tget s.board.notices job.toNat).getD { point := 0, until_ := 0, arrived := 0 }
    let x : Notice := { point := point, until_ := until_, arrived := s.gtime.toNat, saved := old.saved, given := old.given }
    { s with board := { s.board with notices := tset s.board.notices job.toNat x } }

/-- The jobs that run on the package. -/
def State.jobs (s : State) : List (BitVec 32) :=
  ((s.cores.flatMap fun k => k.2.tasks.map (·.task.record.jobtag)).filter fun j => j != 0).dedup

/-- The CAP that a notice brings back to a core is OP5 or slower once a die has passed its threshold. -/
def Notice.heated (x : Notice) : Notice := { x with saved := x.saved.map fun (n, c) => (n, BitVec.ofNat 3 (max 5 c.toNat)) }

/-- A die passes its thermal threshold: every core goes to OP5 or stays slower, and no notice's end takes that back. -/
def State.overheat (s : State) (point : BitVec 8) (until_ : DWord) : State :=
  let s := (List.range 144).foldl (fun s n => s.modCore n fun k => k.setCap (max 5 (opptCap k.oppt))) s
  let s : State := { s with board := { s.board with notices := s.board.notices.map fun (e : Nat × Notice) => (e.1, e.2.heated) } }
  s.jobs.foldl (fun s j => (s.send (.slowdown j point until_)).takeNotice j point until_) s

def execThermalThreshold (s : State) : Host.Outcome State Fault Refusal :=
  runEvent s fun i s => match i with | .thermalThreshold _ point u => some (s.overheat point u) | _ => none

def execSlowdownNotice (s : State) : Host.Outcome State Fault Refusal :=
  runEvent s fun i s =>
    match i with
    | .slowdownNotice node job point u => if s.hearsNode node then some (s.takeNotice job point u) else none
    | _ => none

/-- 500 µs have passed since a notice arrived. -/
def Notice.timeUp (x : Notice) (now : Nat) : Bool := decide (x.arrived + 500000 ≤ now)

def execSlowdownTimer (s : State) : Host.Outcome State Fault Refusal :=
  runEvent s fun i s =>
    match i with
    | .slowdownTimer job =>
      (tget s.board.notices job.toNat).bind fun x =>
        if x.timeUp s.gtime.toNat then some ((List.range 144).foldl (fun s n => s.applyNotice n job) s) else none
    | _ => none

def execSlowdownLapse (s : State) : Host.Outcome State Fault Refusal :=
  runEvent s fun i s =>
    match i with
    | .slowdownLapse job =>
      (tget s.board.notices job.toNat).bind fun x =>
        if x.until_ ≠ 0 ∧ x.until_.toNat ≤ s.gtime.toNat then some (s.liftNotice job.toNat) else none
    | _ => none

/-! ### Repair and lasting faults (R352 to R354) -/

/-- Rows of a channel that have been repaired. -/
def Board.repaired (b : Board) (stack channel : Nat) : Nat :=
  ((b.repairs ++ b.fused).filter fun r => r.1 = stack && r.2.1 = channel).length

/-- A row passes its threshold (R352): its channel is quiesced and the repair recorded, or the page is reported where the
channel's spare rows are exhausted. -/
def State.softRepair (s : State) (stack channel row : Nat) : State :=
  let b := s.board
  if Config.spareRows stack channel ≤ b.repaired stack channel then s.send (.pageWorn (Config.rowPage stack channel row))
  else
    { s with board := { b with quiesced := tset b.quiesced stack channel, repairs := b.repairs ++ [(stack, channel, row)] } }

def execHbmSoftRepair (s : State) : Host.Outcome State Fault Refusal :=
  runEvent s fun i s =>
    match i with
    | .hbmSoftRepair stack channel row =>
      if stack < 8 ∧ (tget s.board.quiesced stack).isNone then some (s.softRepair stack channel row) else none
    | _ => none

def execSoftRepairEnd (s : State) : Host.Outcome State Fault Refusal :=
  runEvent s fun i s =>
    match i with
    | .softRepairEnd stack channel =>
      if tget s.board.quiesced stack = some channel then
        some { s with board := { s.board with quiesced := tdel s.board.quiesced stack } }
      else none
    | _ => none

def execFlitCheckFailure (s : State) : Host.Outcome State Fault Refusal :=
  runEvent s fun i s =>
    match i with
    | .flitCheckFailure port retryFails =>
      if port < 16 ∧ retryFails then
        some { s with
          fabric := { s.fabric with portsDown := setBit s.fabric.portsDown port true }
          board := { s.board with faultPorts := setBit s.board.faultPorts port true } }
      else none
    | _ => none

/-- A lasting fault of a unit is recorded (R354). -/
def Board.record (b : Board) : FaultUnit → Board
  | .engines n bits => { b with faultEngines := mset 0 b.faultEngines n (mget 0 b.faultEngines n ||| bits) }
  | .port n => { b with faultPorts := setBit b.faultPorts n true }
  | .block n => { b with faultBlocks := tset b.faultBlocks n () }

/-- A block of local memory, or of the scratchpad of a core, is marked uncorrectable (R353). -/
def State.markBlock (s : State) (core : Option Nat) (block : Nat) : State :=
  match core with
  | none => { s with mem := { s.mem with bad := tset s.mem.bad block () } }
  | some n => s.modCore n fun k => { k with spadBad := tset k.spadBad block () }

def execBlockCheckFailure (s : State) : Host.Outcome State Fault Refusal :=
  runEvent s fun i s =>
    match i with
    | .blockCheckFailure core block source retryFails =>
      if retryFails ∧ (core.isSome ∨ inMemory (256 * block) 256) then
        some { s.markBlock core block with
          board := s.board.record source }
      else none
    | _ => none

/-! ### Reset (R44, R129, R352, R354) -/

/-- A core after reset, with the SLOTMAP that the system controller loads; one whose matrix engine or special-function unit has a
lasting fault is out of every core mask. -/
def resetCore (slotmap : BitVec 9) : Core := { slotmap := slotmap, removed := !slotmapOk slotmap }

/-- The boot ROM accepts an image (R355). -/
def Board.accepts (b : Board) (img : Firmware) : Bool :=
  Config.rootVerify (sha3 img.bytes) img.signature && decide (b.minVersion ≤ img.version)

/-- The boot ROM measures every image before it runs; where it refuses one, it is not kept and the package stays in its recovery
loader, in which no image runs (R355, log 25). -/
def Board.boot (b : Board) : Board :=
  let ok := b.images.filter b.accepts
  { b with images := ok, running := if ok = b.images then ok else [], recovery := ok != b.images }

/-- The board after a reset: recorded rows are fused, the record of lasting faults has the engines that the system software reports,
and the images boot. -/
def Board.reset (b : Board) (dead : SMap (BitVec 9)) : Board :=
  let b := (dead.filter fun e => e.1 < 144).foldl (fun (b : Board) e => b.record (.engines e.1 e.2)) b
  Board.boot
    { faultPorts := b.faultPorts, faultBlocks := b.faultBlocks, faultEngines := b.faultEngines, fused := b.fused ++ b.repairs
      images := b.images, minVersion := b.minVersion }

/-- The package after a reset (R44, R319, R352, R354, R355). The record of lasting faults, the node table, the installed images and
GTIME stay; units with a lasting fault are removed from SLOTMAP and the core masks, from the ports and from the memory map. -/
def State.resetPackage (s : State) (dead : SMap (BitVec 9)) (node : Nat) : State :=
  let b := s.board.reset dead
  { State.reset with
    cores := b.faultEngines.foldl (fun m e => mset {} m e.1 (resetCore (0x1FF &&& ~~~e.2))) []
    mem := { State.reset.mem with gone := b.faultBlocks }
    fabric := { nodes := s.fabric.nodes, own := node, portsDown := b.faultPorts }
    board := b
    gtime := s.gtime, sent := s.sent, actor := s.actor, agenda := s.agenda, clock := s.clock, fresh := s.fresh }

def execPackageReset (s : State) : Host.Outcome State Fault Refusal :=
  runEvent s fun i s =>
    match i with
    | .packageReset dead node => if node < 2048 then some (s.resetPackage dead node) else none
    | _ => none

/-! ### Firmware and attestation (R355, R356) -/

/-- An image is installed and runs, and raises the fused minimum; or it is refused, and the package stays in its recovery loader.
A report has room for eight. -/
def Board.install (b : Board) (img : Firmware) : Board :=
  if b.accepts img then
    let last (l : List Firmware) : List Firmware := (l ++ [img]).drop (l.length - 7)
    let b := { b with images := last b.images, minVersion := max b.minVersion img.version }
    { b with running := if b.recovery then b.images.filter b.accepts else last b.running, recovery := false }
  else { b with running := [], recovery := true }

def execFirmwareInstall (s : State) : Host.Outcome State Fault Refusal :=
  runEvent s fun i s =>
    match i with
    | .firmwareInstall img => some { s with board := s.board.install img }
    | _ => none

/-- The routine stores of core 0 to core 143, one after another. -/
def State.routineBytes (s : State) : List Byte :=
  (List.range 144).flatMap fun n => (List.range 4096).flatMap fun i => wordLe 4 (mget 0 (s.core n).rstore i)

/-- Bytes 0 to 671 of a report (R356). -/
def State.reportBody (s : State) (nonce : List Byte) : List Byte :=
  (List.range 16).map (Config.identityByte Config.partNumber) ++ nonce
    ++ (List.range 8).flatMap (fun i => match s.board.running[i]? with
      | some img => sha3 img.bytes
      | none => List.replicate 64 0)
    ++ natLe 8 s.board.minVersion ++ wordLe 8 s.gtime ++ sha3 s.routineBytes

/-- A signed report. -/
def State.report (s : State) (nonce : List Byte) : List Byte :=
  let body := s.reportBody nonce
  body ++ ((Config.identitySign (sha3 body)) ++ List.replicate 4627 0).take 4627

def execAttestationRequest (s : State) : Host.Outcome State Fault Refusal :=
  runEvent s fun i s =>
    match i with
    | .attestationRequest nonce => if nonce.length = 64 then some (s.send (.report (s.report nonce))) else none
    | _ => none

end Sys2Proof.Machine
end

