-- ==== Sys2Proof/Machine/Slices.lean ====
section
/-! DEFINITION. The slice instructions (R223 to R244). Each is a request that the controller performs or refuses when the
bundle reaches issue (R230); its answer goes to sD when the slot commits. -/

namespace Sys2Proof.Machine

/-! ### Requests -/

/-- What a request comes to: it is refused, it raises another trap, it is answered, or the controller holds it. -/
inductive Req where
  | refuse (reason : Nat)
  | trap (s : State) (cause : BitVec 8) (taddr : DWord)
  | deliver (s : State) (taddr : DWord)
  | block (s : State)
  | answer (s : State) (v : DWord)
  | hold (s : State) (chain : Nat) (wait : Bool)

/-- The trap of a refusal (R231). -/
def refusalCause (reason : Nat) : BitVec 8 := if reason < 0x10 then causeIllegalOperand else causeResource

/-- The slice controller hears from a core (R331). -/
def State.slcHear (s : State) (n : Nat) : State := { s with slcT := max s.slcT (s.core n).t }

/-- A slice request: the controller hears from the core, and after the request does what it can (R230, R331). A request that is
performed is an irrevocable act (R280); a bundle that is still reading its descriptor has sent none. -/
def runSlice (s : State) (g : Env → State → Req) (commit : Env → State → DWord → State) :
    Host.Outcome State Fault Refusal :=
  runRequest s
    (fun e s =>
      let sent (t : State) : State := (t.slcHear e.n).irrevocable e.n e.c
      match g e (s.slcHear e.n) with
      | .refuse r => .trap (refusalCause r) (some (BitVec.ofNat 64 r))
      | .trap t cause taddr => .trapSet { t with slcT := s.slcT } cause taddr
      | .deliver s taddr => .trapSet (sent s) causeSliceFault taddr
      | .block t => .block .read { t with slcT := s.slcT }
      | .answer s v =>
        let t := (sent s).serveSlices
        .done ((t.reply e (.value v)).raiseT e.n t.slcTime)
      | .hold s h w => .done ((sent s).reply e (.slice h w)).serveSlices)
    commit

/-- A request without a result. -/
def runSliceOnly (s : State) (g : Env → State → Req) : Host.Outcome State Fault Refusal := runSlice s g fun _ s _ => s

/-- The walk step whose coarse task an issuing task belongs to (R235). -/
def State.coarseStep (s : State) (e : Env) : Option WalkStep := (tget s.grids e.x.task.grid).bind (·.walk)

/-- The issuing task was queued by an opening of the chain that has been closed (R244). -/
def State.staleStep (s : State) (e : Env) (h : Nat) : Bool :=
  (s.coarseStep e).any fun w => w.chain = h && (tget s.chains h).all fun c => w.opened != c.opened

/-- The chain of a handle, with the checks of R231, R233 and R244: `token` is the rule that the entry requires. -/
def State.chainOf (s : State) (e : Env) (h : Nat) (token : Option Bool) (owner : Bool) : Except Nat Chain :=
  if 255 < h ∨ s.staleStep e h then .error 1
  else
    match tget s.chains h with
    | none => .error 1
    | some c =>
      if token.any fun t => t != c.token then .error 5
      else if owner && c.owner != e.x.task.uid then .error 6
      else .ok c

/-- The chain and slice of a reference, with the checks of R231, R233 and R244. -/
def State.sliceOf (s : State) (e : Env) (r : DWord) (token : Option Bool) (owner : Bool) :
    Except Nat (Nat × Nat × Chain) :=
  if s.staleStep e (field r.toNat 23 16) then .error 1
  else if 2 ^ 24 ≤ r.toNat then .error 4
  else
    let h := r.toNat / 65536
    let m := r.toNat % 65536
    match s.chainOf e h token owner with
    | .error x => .error x
    | .ok c => if c.n ≤ m then .error 4 else .ok (h, m, c)

/-- A request on a chain. -/
def onChain (s : State) (e : Env) (h : DWord) (token : Option Bool) (owner : Bool) (g : Nat → Chain → Req) : Req :=
  match s.chainOf e h.toNat token owner with
  | .error x => .refuse x
  | .ok c => g h.toNat c

/-- A request on a slice. -/
def onSlice (s : State) (e : Env) (r : DWord) (token : Option Bool) (owner : Bool) (g : Nat → Nat → Chain → Slice → Req) :
    Req :=
  match s.sliceOf e r token owner with
  | .error x => .refuse x
  | .ok (h, m, c) => g h m c (c.slice m)

/-! ### Opening -/

/-- The fields of a chain descriptor (R223, R234). -/
structure ChainDesc where
  chain : Nat
  rule : Nat
  n : Nat
  w : Nat
  tol : Word
  rbase : DWord
  rstride : Nat
  offsets : List Nat
  crec : DWord
  cq : Nat
  pgmax : Nat
  pool : DWord
  /-- The bytes that must be 0 under the rule. -/
  rest : List Byte
  deriving DecidableEq, Repr

def chainDesc (bs : List Byte) : ChainDesc :=
  let rule := fieldAt bs 2 1
  { chain := fieldAt bs 0 2, rule := rule, n := fieldAt bs 4 4, w := fieldAt bs 8 4, tol := BitVec.ofNat 32 (fieldAt bs 12 4)
    rbase := BitVec.ofNat 64 (fieldAt bs 16 8), rstride := fieldAt bs 24 4, offsets := (List.range 4).map fun i => fieldAt bs (28 + i) 1
    crec := BitVec.ofNat 64 (fieldAt bs 32 8), cq := fieldAt bs 40 2, pgmax := fieldAt bs 44 4
    pool := BitVec.ofNat 64 (fieldAt bs 48 8)
    rest := (bs.drop 3).take 1 ++ if rule = 0 then (bs.drop 42).take 22 else (bs.drop 42).take 2 ++ (bs.drop 56).take 8 }

/-- Every field holds a value of R223 and R234. -/
def ChainDesc.ok (d : ChainDesc) : Bool :=
  d.chain ≤ 255 && d.rule ≤ 1 && 1 ≤ d.n && d.n ≤ 65535 && 1 ≤ d.w && d.w ≤ 1024 && d.w ≤ d.n
    && d.rbase.toNat % 64 = 0 && d.rstride % 64 = 0 && d.rest.all (· = 0)
    && if d.rule = 0 then
        (f32 d.tol).isFinite && (!(f32 d.tol).neg || (f32 d.tol).isZero) && d.crec.toNat % 128 = 0 && d.cq ≤ 63
      else d.tol = 0 && d.crec = 0 && d.cq = 0 && 1 ≤ d.pgmax && d.pgmax ≤ 1048576 && d.pool.toNat % 8 = 0

/-- The slice contexts that are free (R229). -/
def State.freeSlices (s : State) : Nat := 1024 - s.chains.foldl (fun n e => n + e.2.held) 0

/-- The chain of an accepted descriptor (R232, R234). -/
def ChainDesc.open (d : ChainDesc) (e : Env) (clock : Nat) (pool : List Nat) : Chain :=
  { token := d.rule = 1, n := d.n, w := d.w, tol := d.tol, rbase := d.rbase, rstride := d.rstride, offsets := d.offsets
    crec := d.crec, cq := d.cq, pgmax := d.pgmax, pool := pool, owner := e.x.task.uid, ownerQueue := e.x.task.queue
    phase := if d.rule = 1 then .fine else .walk 0 none
    opened := clock, walks := if d.rule = 1 then 0 else 1, cairn := if d.rule = 1 then 0 else 1
    slices := (List.range d.w).map fun i => (i, freshSlice (if i = 0 ∧ d.rule = 0 then .settled else .provisional)) }

/-- The physical addresses of the pool words of a TOKEN chain (R234), or the failure of the lowest byte. -/
def State.poolWords (s : State) (e : Env) (d : ChainDesc) : Except Failure (State × List Nat) :=
  if d.rule = 0 then .ok (s, [])
  else
    match s.rowRuns e.n e.px .atomic [(d.pool, 8 * ((d.pgmax + 63) / 64))] with
    | .error f => .error f
    | .ok (s, runs) => .ok (s, runs.flatten.flatMap fun r => (List.range (r.2 / 8)).map fun i => r.1 + 8 * i)

def execSlcOpen (f : Fields) (s : State) : Host.Outcome State Fault Refusal :=
  runSlice s
    (fun e s =>
      let a := e.sA f
      if a.toNat % 64 ≠ 0 then .trap s causeMisalign a
      else
        match s.readBlocking e a 64 with
        | .trap s cause taddr => .trap s cause taddr
        | .wait s => .block s
        | .data s bs =>
          let d := chainDesc bs
          if !d.ok then .refuse 3
          else if (tget s.chains d.chain).isSome then .refuse 2
          else if s.freeSlices < d.w then .refuse 0x10
          else
            match s.poolWords e d with
            | .error g => .trap g.s g.cause g.taddr
            | .ok (s, pool) =>
              .answer (s.setChain d.chain (d.open e s.clock pool)) (BitVec.ofNat 64 d.chain))
    (putAnswer f)

/-! ### Claims -/

/-- `slc.claim` (R235). -/
def execSlcClaim (f : Fields) (s : State) : Host.Outcome State Fault Refusal :=
  runSlice s
    (fun e s =>
      let h := (e.sA f).toNat
      if 255 < h ∨ s.staleStep e h then .refuse 1 else .hold (s.endClaim e.x.task.uid) h false)
    (putAnswer f)

def execSlcClaimC (f : Fields) (s : State) : Host.Outcome State Fault Refusal :=
  runSlice s
    (fun e s => onChain s e (e.sA f) (some false) false fun h _ =>
      match s.coarseStep e with
      | some w => if w.chain = h then .answer s (sliceRef h w.slice) else .refuse 9
      | none => .refuse 9)
    (putAnswer f)

/-! ### Starts, jumps and verdicts -/

/-- A jump partial as a magnitude (R236): a NaN counts as +∞. -/
def jumpPartial (w : Word) : Word := let m := w &&& 0x7FFFFFFF; if f32Inf.toNat < m.toNat then f32Inf else m

/-- The settling step of R224: slice m starts again. -/
def Chain.startSlice (c : Chain) (m : Nat) : Chain :=
  let x := c.slice m
  let jump := x.part.getD f32Inf
  let settled := (c.slice (m - 1)).counted && jump.toNat ≤ (c.tol &&& 0x7FFFFFFF).toNat
  (c.setSlice m { x with
    state := if settled then .settled else .provisional, jump := jump, part := none, gen := nextGen x.gen, due := true
    frec := none }).advanceCairn

def execSlcStart (f : Fields) (s : State) : Host.Outcome State Fault Refusal :=
  runSliceOnly s fun e s => onSlice s e (e.sA f) (some false) false fun h m c _ =>
    match c.phase, s.coarseStep e with
    | .walk _ (some n), some w =>
      if w = ⟨h, n, c.opened, c.walks⟩ ∧ m = n + 1 then
        .answer (s.setChain h { c.startSlice m with phase := .walk m none }) 0
      else .refuse 9
    | _, _ => .refuse 9

def execSlcJump (f : Fields) (s : State) : Host.Outcome State Fault Refusal :=
  runSliceOnly s fun e s => onSlice s e (e.sA f) (some false) false fun h m c x =>
    if !x.live then .refuse 4
    else if x.state = .settled then .refuse 7
    else
      let v := jumpPartial ((e.sB f).setWidth 32)
      let v := match x.part with | some p => if v.toNat < p.toNat then p else v | none => v
      .answer (s.setChain h (c.setSlice m { x with part := some v })) 0

/-- The verdicts of `slc.accept` from field `i` on (R238): the slices settled, and the slice from which a discard is due. -/
def Chain.verdicts (b : DWord) : Nat → Nat → Chain → Chain × Option Nat
  | 0, _, c => (c, none)
  | fuel + 1, i, c =>
    let p := c.cairn
    let v := field b.toNat (2 * i + 1) (2 * i)
    let x := c.slice p
    if c.n ≤ p ∨ v = 0 then (c, none)
    else if v = 2 then (c, some p)
    else if !x.live then (c, none)
    else
      let c := { c.setSlice p { x with state := .settled, pages := [] } with cairn := p + 1 }
      if v = 3 then (c, some (p + 1)) else c.verdicts b fuel (i + 1)

def execSlcAccept (f : Fields) (s : State) : Host.Outcome State Fault Refusal :=
  runSlice s
    (fun e s => onChain s e (e.sA f) (some true) true fun h c =>
      if c.phase = .complete then .answer s c.cairnWord
      else
        let (c, q) := c.verdicts (e.sB f) 32 0
        let (s, c) := match q with | some q => s.discard h c q | none => (s, c)
        let c := { c with news := true, phase := if q.isSome ∨ c.cairn = c.n then .complete else c.phase }
        .answer (s.setChain h c) c.cairnWord)
    (putAnswer f)

/-! ### Waiting -/

/-- The lowest slice with a record that is due for delivery (R240). -/
def Chain.undelivered (c : Chain) : Option Nat :=
  (c.slices.find? fun e => e.2.frec.any fun r => !r.delivered && (e.2.state = .settled || r.coarse)).map (·.1)

/-- A record is delivered. -/
def Slice.delivered (x : Slice) : Slice := { x with frec := x.frec.map fun r => { r with delivered := true } }

def execSlcWait (f : Fields) (s : State) : Host.Outcome State Fault Refusal :=
  runSlice s
    (fun e s => onChain s e (e.sA f) none true fun h c =>
      match c.undelivered with
      | some m => .deliver (s.setChain h (c.setSlice m (c.slice m).delivered)) (sliceRef h m)
      | none =>
        .hold (if c.phase = .hold ∧ !c.news then s.setChain h { c with phase := .fine } else s) h true)
    (putAnswer f)

/-! ### Reading -/

/-- STATE of `slc.stat` (R241). -/
def SliceState.code : SliceState → Nat
  | .free => 0
  | .provisional => 1
  | .settled => 2
  | .faulted => 3
  | .retired => 4

/-- A bit of a doubleword. -/
def bitAt (i : Nat) (b : Bool) : DWord := if b then 1#64 <<< i else 0

/-- The word of `slc.stat` (R241). -/
def Chain.statWord (c : Chain) (x : Slice) : DWord :=
  let done := bitAt 63 (c.phase = .complete)
  if !x.live then done
  else
    done ||| bitAt 62 x.frec.isSome ||| bitAt 61 (x.frec.any (·.delivered)) ||| bitAt 60 x.claim.isSome
      ||| bitAt 59 (c.claimable x)
      ||| BitVec.ofNat 64 (2 ^ 56 * x.state.code + 2 ^ 48 * x.pages.length + 2 ^ 32 * x.gen + x.jump.toNat)

def execSlcStat (f : Fields) (s : State) : Host.Outcome State Fault Refusal :=
  runSlice s
    (fun e s => onSlice s e (e.sA f) none false fun _ _ c x => .answer s (c.statWord x))
    (putAnswer f)

/-- PHASE of `slc.stat.c` (R241). -/
def ChainPhase.code : ChainPhase → Nat
  | .walk _ _ => 0
  | .hold => 1
  | .fine => 2
  | .complete => 3

/-- The word of `slc.stat.c` (R241). -/
def Chain.word (c : Chain) : DWord :=
  bitAt 63 (c.phase = .complete) ||| bitAt 62 true
    ||| BitVec.ofNat 64 (2 ^ 60 * c.phase.code + 2 ^ 32 * (c.liveFrom 0).length + 2 ^ 16 * (c.walks % 65536) + c.cairn % 65536)

def execSlcStatC (f : Fields) (s : State) : Host.Outcome State Fault Refusal :=
  runSlice s
    (fun e s =>
      let h := (e.sA f).toNat
      if 255 < h ∨ s.staleStep e h then .refuse 1
      else .answer s (match tget s.chains h with | some c => c.word | none => 0))
    (putAnswer f)

/-- A word of a deferred-fault record (R243). -/
def FRec.word (r : FRec) : Nat → DWord
  | 0 => bitAt 63 true ||| bitAt 62 r.delivered ||| bitAt 61 r.coarse
      ||| BitVec.ofNat 64 (2 ^ 32 * r.gen + 2 ^ 16 * r.rslot.toNat + r.cause.toNat)
  | 1 => r.taddr
  | _ => r.tbun

/-- Word k of the record of a slice (R243). -/
def Slice.faultWord (x : Slice) (k : Nat) : DWord := match x.frec with | some r => r.word k | none => 0

def execSlcFault (f : Fields) (s : State) : Host.Outcome State Fault Refusal :=
  runSlice s
    (fun e s => onSlice s e (e.sA f) none false fun _ _ _ x => .answer s (x.faultWord f.b.toNat))
    (putAnswer f)

def execSlcFaultClr (f : Fields) (s : State) : Host.Outcome State Fault Refusal :=
  runSlice s
    (fun e s => onSlice s e (e.sA f) none true fun h m c x =>
      let again := x.again || (x.state = .settled && x.frec.isSome)
      .answer (s.setChain h (c.setSlice m { x with frec := none, again := again })) (x.faultWord f.b.toNat))
    (putAnswer f)

/-! ### Retiring, pages and closing -/

/-- A NORM chain is neither in a hold nor complete. -/
def Chain.busy (c : Chain) : Bool := !c.token && c.phase != .hold && c.phase != .complete

def execSlcRetire (f : Fields) (s : State) : Host.Outcome State Fault Refusal :=
  runSliceOnly s fun e s => onSlice s e (e.sA f) none true fun h m c x =>
    if c.busy then .refuse 8
    else if x.state ≠ .settled ∨ !(c.slice (m + 1)).counted then .refuse 7
    else .answer (s.setChain h (c.setSlice m { x with state := .retired, frec := none })) 0

/-- Every slice below m whose successor context exists has been recycled (R242). -/
def Chain.passedBelow (c : Chain) (m : Nat) : Bool :=
  (List.range m).all fun i => c.n ≤ i + c.w || (c.slice i).passed

def execSlcRecycle (f : Fields) (s : State) : Host.Outcome State Fault Refusal :=
  runSliceOnly s fun e s => onSlice s e (e.sA f) none true fun h m c x =>
    if c.busy then .refuse 8
    else if x.state ≠ .retired ∨ x.passed ∨ c.n ≤ m + c.w ∨ !c.passedBelow m then .refuse 7
    else
      .answer (s.setChain h ((c.setSlice m { x with passed := true }).setSlice (m + c.w) (freshSlice .provisional))) 0

def execSlcPage (f : Fields) (s : State) : Host.Outcome State Fault Refusal :=
  runSliceOnly s fun e s => onSlice s e (e.sA f) (some true) true fun h m c x =>
    let g := (e.sB f).toNat
    if x.state ≠ .provisional ∧ x.state ≠ .faulted then .refuse 7
    else if c.pgmax ≤ g ∨ c.slices.any (fun y => y.2.pages.contains g) then .refuse 0x0A
    else if 4 ≤ x.pages.length then .refuse 0x11
    else .answer (s.setChain h (c.setSlice m { x with pages := x.pages ++ [g] })) 0

def execSlcClose (f : Fields) (s : State) : Host.Outcome State Fault Refusal :=
  runSliceOnly s fun e s => onChain s e (e.sA f) none true fun h c =>
    if c.busy then .refuse 8 else .answer (s.closeChain h) 0

end Sys2Proof.Machine
end

