-- ==== Sys2Proof/Machine/SpecialFn.lean ====
section
/-! DEFINITION. The special functions of class X (R131, R179, R180). -/

namespace Sys2Proof.Machine

/-- A special function of one operand, as f32 or on two bf16 halves. -/
def runSpecial (s : State) (i : Instr) (md : Bool) (g : Fmt → Num → Nat × BitVec 5) : Host.Outcome State Fault Refusal :=
  runLanes s i fun _ a _ _ _ =>
    if md then
      let lo := g fmtBf16 (bf16 (lowHalf a))
      let hi := g fmtBf16 (bf16 (highHalf a))
      (halves lo.1 hi.1, lo.2 ||| hi.2)
    else let r := g fmtF32 (f32 a); (BitVec.ofNat 32 r.1, r.2)

def execVexp2 (f : Fields) (s : State) : Host.Outcome State Fault Refusal := runSpecial s (.vexp2 f) f.md exp2Of

def execVlog2 (f : Fields) (s : State) : Host.Outcome State Fault Refusal := runSpecial s (.vlog2 f) f.md log2Of

def execVrcp (f : Fields) (s : State) : Host.Outcome State Fault Refusal := runSpecial s (.vrcp f) f.md rcpOf

def execVrsq (f : Fields) (s : State) : Host.Outcome State Fault Refusal := runSpecial s (.vrsq f) f.md rsqOf

def execVsqrt (f : Fields) (s : State) : Host.Outcome State Fault Refusal := runSpecial s (.vsqrt f) f.md sqrtOf

def execVtanh (f : Fields) (s : State) : Host.Outcome State Fault Refusal := runSpecial s (.vtanh f) f.md tanhOf

def execVsig (f : Fields) (s : State) : Host.Outcome State Fault Refusal := runSpecial s (.vsig f) f.md sigOf

/-- `vsincos` (R131): cosine to vD and sine to vD+1. -/
def execVsincos (f : Fields) (s : State) : Host.Outcome State Fault Refusal :=
  runSlot s fun e s =>
    let act := e.b.latch.active
    let a := e.vecA f
    let (c, fl) := mapLanes act fun i => let r := sincosOf (f32 (lane a i)); (BitVec.ofNat 32 r.1, r.2.2)
    if e.b.latch.ctl.fpTraps fl then fpTrap fl
    else
      let si := fillLanes act fun i => BitVec.ofNat 32 (sincosOf (f32 (lane a i))).2.1
      .done (((s.modCtx e.n e.c fun x => x.raise fl).writeVec e f.d.toNat 8 act c).writeVec e (f.d.toNat + 1) 8 act si)

end Sys2Proof.Machine
end

