-- ==== Sys2Proof/Machine/Stash.lean ====
section
/-! DEFINITION. The stash window instructions (R333 to R336). -/

namespace Sys2Proof.Machine

/-- Two ranges overlap. -/
def overlap (a n b m : Nat) : Bool := a < b + m && b < a + n

/-- A page of a window: its physical address, that of a peer included, and the W permission; or why it cannot be mapped (R334). -/
def State.windowPage (s : State) (n q : Nat) (priv : Bool) (v : Nat) : Except Failure (State × Nat × Bool) :=
  match if 2 ^ 48 ≤ v then none else s.leaf (.core n) q v with
  | none => .error ⟨causeXlate, BitVec.ofNat 64 v, if 2 ^ 48 ≤ v then s else s.readEntries (.core n) q v⟩
  | some l =>
    let s := s.useLeaf (.core n) q v l
    if !l.permits .load priv then .error ⟨causeProtect, BitVec.ofNat 64 v, s⟩
    else
      let pa := l.pa + v % 2 ^ l.bits
      match s.mem.firstGone (.mem pa) 65536 with
      | some i => .error ⟨causeXlate, BitVec.ofNat 64 (v + i), s⟩
      | none => .ok (s, pa, l.permits .store priv)

/-- The pages of a window, or the lowest failure (R334). A peer page is refused after every other check. -/
def State.windowPages (s : State) (n q : Nat) (priv : Bool) (a npg : Nat) : Except Failure (State × List (Nat × Bool)) :=
  let r := (List.range npg).foldl (fun (r : Except Failure (State × List (Nat × Bool))) i =>
    match r with
    | .error f => .error f
    | .ok (s, ps) =>
      match s.windowPage n q priv (a + 65536 * i) with
      | .error f => .error f
      | .ok (s, p) => .ok (s, ps ++ [p])) (.ok (s, []))
  match r with
  | .error f => .error f
  | .ok (s, ps) =>
    match ps.findIdx? fun p => p.1 / 2 ^ 51 = 1 with
    | some i => .error ⟨causeProtect, BitVec.ofNat 64 (a + 65536 * i), s⟩
    | none => .ok (s, ps)

/-- `stash.map` (R334). -/
def execStashMap (f : Fields) (s : State) : Host.Outcome State Fault Refusal :=
  runSlot s fun e s =>
    let a := (e.sA f).toNat
    let b := (e.sB f).toNat
    let spg := b % 64
    let npg := b / 65536 % 256
    let t := e.x.task
    let k := s.core e.n
    if b / 64 % 1024 ≠ 0 ∨ b / 2 ^ 24 ≠ 0 ∨ npg = 0 ∨ 64 < npg ∨ 64 < spg + npg then .trap causeIllegalOperand none
    else if a % 65536 ≠ 0 then .trap causeMisalign (some (e.sA f))
    else if t.spSize < 65536 * (spg + npg) ∨ 4 ≤ e.x.windows.length
        ∨ k.tasks.any (fun y => y.task.spBase = t.spBase && y.windows.any fun w => overlap spg npg w.2.spg w.2.npg) then
      .trap causeResource none
    else if k.tasks.any fun y => y.windows.any fun w => overlap a (65536 * npg) w.2.gbase.toNat (65536 * w.2.npg) then
      .trap causeResource none
    else
      match s.windowPages e.n e.x.task.queue e.b.latch.ctl.priv a npg with
      | .error g => .trapSet g.s g.cause g.taddr
      | .ok (s, ps) =>
        let j := freshKey e.x.windows 0 4
        .done (s.modCtx e.n e.c fun x =>
          { x with windows := tset x.windows j { gbase := e.sA f, spg := spg, npg := npg, pages := ps } }.putS e.b.latch f.d 1
            (BitVec.ofNat 64 j))

/-- Every filled line of a window goes home (R336). -/
def State.recallWindow (s : State) (w : Window) : State :=
  (w.lines.map fun l => ((w.pages.getD (l.1 / 1024) (0, false)).1 + 64 * (l.1 % 1024)) / 64).foldl (fun s l => s.recall l) s

/-- A slot that recalls a window, which it may free (R336). -/
def runRecall (s : State) (f : Fields) (free : Bool) : Host.Outcome State Fault Refusal :=
  runSlot s fun e s =>
    let j := (e.sA f).toNat
    match tget e.x.windows j with
    | none => .trap causeIllegalOperand none
    | some w =>
      let s := s.recallWindow w
      .done (if free then s.modCtx e.n e.c fun x => { x with windows := tdel x.windows j } else s)

def execStashUnmap (f : Fields) (s : State) : Host.Outcome State Fault Refusal := runRecall s f true

def execStashFlush (f : Fields) (s : State) : Host.Outcome State Fault Refusal := runRecall s f false

end Sys2Proof.Machine
end

