-- ==== Sys2Proof/Machine/VectorInt.lean ====
section
/-! DEFINITION. Integer vector instructions (R167). -/

namespace Sys2Proof.Machine

/-- A < B of 32-bit lanes, signed or unsigned. -/
def laneLt (unsigned : Bool) (a b : Word) : Bool := if unsigned then a.toNat < b.toNat else a.slt b

/-- B[4:0] as a number. -/
def low5 (b : Word) : Nat := b.toNat % 32

def execVaddI32 (f : Fields) (s : State) : Host.Outcome State Fault Refusal := runBits s (.vaddI32 f) fun a b _ => a + b

def execVsubI32 (f : Fields) (s : State) : Host.Outcome State Fault Refusal := runBits s (.vsubI32 f) fun a b _ => a - b

def execVmulI32 (f : Fields) (s : State) : Host.Outcome State Fault Refusal := runBits s (.vmulI32 f) fun a b _ => a * b

def execVminI32 (f : Fields) (s : State) : Host.Outcome State Fault Refusal :=
  runBits s (.vminI32 f) fun a b _ => if laneLt f.md b a then b else a

def execVmaxI32 (f : Fields) (s : State) : Host.Outcome State Fault Refusal :=
  runBits s (.vmaxI32 f) fun a b _ => if laneLt f.md a b then b else a

def execVand (f : Fields) (s : State) : Host.Outcome State Fault Refusal := runBits s (.vand f) fun a b _ => a &&& b

def execVor (f : Fields) (s : State) : Host.Outcome State Fault Refusal := runBits s (.vor f) fun a b _ => a ||| b

def execVxor (f : Fields) (s : State) : Host.Outcome State Fault Refusal := runBits s (.vxor f) fun a b _ => a ^^^ b

def execVshl (f : Fields) (s : State) : Host.Outcome State Fault Refusal :=
  runBits s (.vshl f) fun a b _ => a <<< low5 b

def execVshr (f : Fields) (s : State) : Host.Outcome State Fault Refusal :=
  runBits s (.vshr f) fun a b _ => if f.md then a.sshiftRight (low5 b) else a >>> low5 b

def execVcmpiEq (f : Fields) (s : State) : Host.Outcome State Fault Refusal := runCompare s (.vcmpiEq f) fun a b => a = b

def execVcmpiLt (f : Fields) (s : State) : Host.Outcome State Fault Refusal := runCompare s (.vcmpiLt f) (laneLt f.md)

def execVsel (f : Fields) (s : State) : Host.Outcome State Fault Refusal :=
  runBits s (.vsel f) fun a b d => (d &&& a) ||| (~~~d &&& b)

end Sys2Proof.Machine
end

