-- ==== Sys2Proof/Machine/VectorMask.lean ====
section
/-! DEFINITION. Mask instructions (R178). -/

namespace Sys2Proof.Machine

/-- A slot that writes every bit of a mask register. -/
def runMask (s : State) (f : Fields) (g : Env → Mask) : Host.Outcome State Fault Refusal :=
  runLocal s fun e => e.x.putM f.d 1 allOnes (g e)

/-- Mask operands A and B. -/
def Env.mA (e : Env) (f : Fields) : Mask := e.b.latch.m f.a.toNat
def Env.mB (e : Env) (f : Fields) : Mask := e.b.latch.m f.b.toNat

def execMand (f : Fields) (s : State) : Host.Outcome State Fault Refusal := runMask s f fun e => e.mA f &&& e.mB f

def execMor (f : Fields) (s : State) : Host.Outcome State Fault Refusal := runMask s f fun e => e.mA f ||| e.mB f

def execMxor (f : Fields) (s : State) : Host.Outcome State Fault Refusal := runMask s f fun e => e.mA f ^^^ e.mB f

def execMnot (f : Fields) (s : State) : Host.Outcome State Fault Refusal := runMask s f fun e => ~~~e.mA f

def execMcnt (f : Fields) (s : State) : Host.Outcome State Fault Refusal :=
  runScalar s f 1 fun e => BitVec.ofNat 64 (popCount (e.mA f))

def execMfirst (f : Fields) (s : State) : Host.Outcome State Fault Refusal :=
  runScalar s f 1 fun e => BitVec.ofNat 64 (lowBit (e.mA f))

def execMfirstM (f : Fields) (s : State) : Host.Outcome State Fault Refusal :=
  runMask s f fun e => BitVec.ofNat 1024 (2 ^ lowBit (e.mA f) - 1)

/-- The bits from `lo` up to but not including `hi`. -/
def bitsFrom (lo hi : Nat) : Mask := BitVec.ofNat 1024 (2 ^ min hi 1024 - 2 ^ min lo (min hi 1024))

def execMset (f : Fields) (s : State) : Host.Outcome State Fault Refusal :=
  runMask s f fun e => bitsFrom (e.sA f).toNat (e.sB f).toNat

def execMact (f : Fields) (s : State) : Host.Outcome State Fault Refusal :=
  runLocal s fun e => { e.x with ctl := { e.x.ctl with emask := f.a.setWidth 3 } }

end Sys2Proof.Machine
end

