-- ==== Sys2Proof/Machine/VectorMove.lean ====
section
/-! DEFINITION. Movement within a vector register (R168 to R171). -/

namespace Sys2Proof.Machine

/-- A slot whose result in lane i of row r and column c comes from its sources whole. -/
def runShuffle (s : State) (i : Instr) (g : Env → Lanes → Lanes → Nat → Word) : Host.Outcome State Fault Refusal :=
  runVec s i fun e a b _ _ => (fillLanes e.b.latch.active (g e a b), 0)

def execVmov (f : Fields) (s : State) : Host.Outcome State Fault Refusal := runBits s (.vmov f) fun a _ _ => a

def execVsplat (f : Fields) (s : State) : Host.Outcome State Fault Refusal :=
  runShuffle s (.vsplat f) fun e _ _ _ =>
    let v := e.sA f
    if f.md then v.extractLsb' 0 16 ++ v.extractLsb' 0 16 else v.extractLsb' 0 32

def execVext (f : Fields) (s : State) : Host.Outcome State Fault Refusal :=
  runLocal s fun e =>
    let w := lane (e.vecA f) ((e.sB f).toNat % 1024)
    e.x.putS e.b.latch f.d 2 (if f.md then w.signExtend 64 else w.setWidth 64)

/-- One lane is written, where it is active (R168). -/
def execVins (f : Fields) (s : State) : Host.Outcome State Fault Refusal :=
  runSlot s fun e s =>
    let i := (e.sB f).toNat % 1024
    let sel : Mask := e.b.latch.active &&& (1#1024 <<< i)
    .done (s.writeVec e f.d.toNat 2 sel (mset 0 [] i ((e.sA f).setWidth 32)))

/-- (i − v) mod n. -/
def rotated (i : Nat) (v : DWord) (n : Nat) : Nat := (((i : Int) - v.toInt) % (n : Int)).toNat

def execVrotR (f : Fields) (s : State) : Host.Outcome State Fault Refusal :=
  runShuffle s (.vrotR f) fun _ a _ i => lane a (64 * (i / 64) + rotated (i % 64) (riValue f) 64)

def execVrotC (f : Fields) (s : State) : Host.Outcome State Fault Refusal :=
  runShuffle s (.vrotC f) fun _ a _ i => lane a (64 * rotated (i / 64) (riValue f) 16 + i % 64)

def execVbcR (f : Fields) (s : State) : Host.Outcome State Fault Refusal :=
  runShuffle s (.vbcR f) fun e a _ i => lane a (64 * (i / 64) + (e.sB f).toNat % 64)

def execVbcC (f : Fields) (s : State) : Host.Outcome State Fault Refusal :=
  runShuffle s (.vbcC f) fun e a _ i => lane a (64 * ((e.sB f).toNat % 16) + i % 64)

def execVperm (f : Fields) (s : State) : Host.Outcome State Fault Refusal :=
  runShuffle s (.vperm f) fun _ a b i => lane a ((lane b i).toNat % 1024)

/-- T[r][16b + c] := A[c][16b + r] (R171). -/
def execVtrn (f : Fields) (s : State) : Host.Outcome State Fault Refusal :=
  runShuffle s (.vtrn f) fun _ a _ i =>
    let r := i / 64
    let c := i % 64
    lane a (64 * (c % 16) + 16 * (c / 16) + r)

end Sys2Proof.Machine
end

