-- ==== Sys2Proof/Machine/Dispatch.lean ====
section
/-! DEFINITION. The meaning of every instruction and event: one arm each, a direct call of its definition. -/

namespace Sys2Proof.Machine

def exec (i : Instr) (s : State) : Host.Outcome State Fault Refusal :=
  match i with
  | .add f => Sys2Proof.Machine.execAdd f s
  | .sub f => Sys2Proof.Machine.execSub f s
  | .mul f => Sys2Proof.Machine.execMul f s
  | .mulh f => Sys2Proof.Machine.execMulh f s
  | .div f => Sys2Proof.Machine.execDiv f s
  | .rem f => Sys2Proof.Machine.execRem f s
  | .andS f => Sys2Proof.Machine.execAndS f s
  | .orS f => Sys2Proof.Machine.execOrS f s
  | .xorS f => Sys2Proof.Machine.execXorS f s
  | .andn f => Sys2Proof.Machine.execAndn f s
  | .shl f => Sys2Proof.Machine.execShl f s
  | .shr f => Sys2Proof.Machine.execShr f s
  | .sar f => Sys2Proof.Machine.execSar f s
  | .minS f => Sys2Proof.Machine.execMinS f s
  | .maxS f => Sys2Proof.Machine.execMaxS f s
  | .clz f => Sys2Proof.Machine.execClz f s
  | .ctz f => Sys2Proof.Machine.execCtz f s
  | .popc f => Sys2Proof.Machine.execPopc f s
  | .sext f => Sys2Proof.Machine.execSext f s
  | .zext f => Sys2Proof.Machine.execZext f s
  | .madd f => Sys2Proof.Machine.execMadd f s
  | .sel f => Sys2Proof.Machine.execSel f s
  | .mov f => Sys2Proof.Machine.execMov f s
  | .cmpEq f => Sys2Proof.Machine.execCmpEq f s
  | .cmpNe f => Sys2Proof.Machine.execCmpNe f s
  | .cmpLt f => Sys2Proof.Machine.execCmpLt f s
  | .cmpLe f => Sys2Proof.Machine.execCmpLe f s
  | .plogAnd f => Sys2Proof.Machine.execPlogAnd f s
  | .plogAndn f => Sys2Proof.Machine.execPlogAndn f s
  | .li f => Sys2Proof.Machine.execLi f s
  | .addi f => Sys2Proof.Machine.execAddi f s
  | .andi f => Sys2Proof.Machine.execAndi f s
  | .ori f => Sys2Proof.Machine.execOri f s
  | .xori f => Sys2Proof.Machine.execXori f s
  | .shli f => Sys2Proof.Machine.execShli f s
  | .shri f => Sys2Proof.Machine.execShri f s
  | .sari f => Sys2Proof.Machine.execSari f s
  | .cmpiEq f => Sys2Proof.Machine.execCmpiEq f s
  | .cmpiLt f => Sys2Proof.Machine.execCmpiLt f s
  | .br f => Sys2Proof.Machine.execBr f s
  | .brr f => Sys2Proof.Machine.execBrr f s
  | .call f => Sys2Proof.Machine.execCall f s
  | .callr f => Sys2Proof.Machine.execCallr f s
  | .ret f => Sys2Proof.Machine.execRet f s
  | .loop f => Sys2Proof.Machine.execLoop f s
  | .loopp f => Sys2Proof.Machine.execLoopp f s
  | .lexit f => Sys2Proof.Machine.execLexit f s
  | .waitCnt f => Sys2Proof.Machine.execWaitCnt f s
  | .cmptrap f => Sys2Proof.Machine.execCmptrap f s
  | .cmptrapV f => Sys2Proof.Machine.execCmptrapV f s
  | .trap f => Sys2Proof.Machine.execTrap f s
  | .sys f => Sys2Proof.Machine.execSys f s
  | .mfc f => Sys2Proof.Machine.execMfc f s
  | .mtc f => Sys2Proof.Machine.execMtc f s
  | .mtcStatus f => Sys2Proof.Machine.execMtcStatus f s
  | .mtcFflags f => Sys2Proof.Machine.execMtcFflags f s
  | .mtcEmask f => Sys2Proof.Machine.execMtcEmask f s
  | .mtcRngkey f => Sys2Proof.Machine.execMtcRngkey f s
  | .mtcTbudget f => Sys2Proof.Machine.execMtcTbudget f s
  | .mtcXcnt f => Sys2Proof.Machine.execMtcXcnt f s
  | .mtcSlotmap f => Sys2Proof.Machine.execMtcSlotmap f s
  | .opsel f => Sys2Proof.Machine.execOpsel f s
  | .gtime f => Sys2Proof.Machine.execGtime f s
  | .ccyc f => Sys2Proof.Machine.execCcyc f s
  | .evt f => Sys2Proof.Machine.execEvt f s
  | .evtOff f => Sys2Proof.Machine.execEvtOff f s
  | .tlaunch f => Sys2Proof.Machine.execTlaunch f s
  | .bar f => Sys2Proof.Machine.execBar f s
  | .phase f => Sys2Proof.Machine.execPhase f s
  | .bswap f => Sys2Proof.Machine.execBswap f s
  | .shapeLd f => Sys2Proof.Machine.execShapeLd f s
  | .heapPush f => Sys2Proof.Machine.execHeapPush f s
  | .heapPop f => Sys2Proof.Machine.execHeapPop f s
  | .heapPeek f => Sys2Proof.Machine.execHeapPeek f s
  | .heapPeekDl f => Sys2Proof.Machine.execHeapPeekDl f s
  | .budget f => Sys2Proof.Machine.execBudget f s
  | .erSet f => Sys2Proof.Machine.execErSet f s
  | .erGet f => Sys2Proof.Machine.execErGet f s
  | .erGetS f => Sys2Proof.Machine.execErGetS f s
  | .erIdle f => Sys2Proof.Machine.execErIdle f s
  | .ldI8 f => Sys2Proof.Machine.execLdI8 f s
  | .ldN8 f => Sys2Proof.Machine.execLdN8 f s
  | .ldI16 f => Sys2Proof.Machine.execLdI16 f s
  | .ldN16 f => Sys2Proof.Machine.execLdN16 f s
  | .ldI32 f => Sys2Proof.Machine.execLdI32 f s
  | .ldN32 f => Sys2Proof.Machine.execLdN32 f s
  | .ldI64 f => Sys2Proof.Machine.execLdI64 f s
  | .st8 f => Sys2Proof.Machine.execSt8 f s
  | .st16 f => Sys2Proof.Machine.execSt16 f s
  | .st32 f => Sys2Proof.Machine.execSt32 f s
  | .st64 f => Sys2Proof.Machine.execSt64 f s
  | .ldV f => Sys2Proof.Machine.execLdV f s
  | .stV f => Sys2Proof.Machine.execStV f s
  | .pref f => Sys2Proof.Machine.execPref f s
  | .tld f => Sys2Proof.Machine.execTld f s
  | .tst f => Sys2Proof.Machine.execTst f s
  | .gld f => Sys2Proof.Machine.execGld f s
  | .gst f => Sys2Proof.Machine.execGst f s
  | .stset f => Sys2Proof.Machine.execStset f s
  | .stget f => Sys2Proof.Machine.execStget f s
  | .radv f => Sys2Proof.Machine.execRadv f s
  | .radvH f => Sys2Proof.Machine.execRadvH f s
  | .padv f => Sys2Proof.Machine.execPadv f s
  | .pwait f => Sys2Proof.Machine.execPwait f s
  | .amoAdd f => Sys2Proof.Machine.execAmoAdd f s
  | .amoAnd f => Sys2Proof.Machine.execAmoAnd f s
  | .amoOr f => Sys2Proof.Machine.execAmoOr f s
  | .amoXor f => Sys2Proof.Machine.execAmoXor f s
  | .amoMin f => Sys2Proof.Machine.execAmoMin f s
  | .amoMax f => Sys2Proof.Machine.execAmoMax f s
  | .amoXchg f => Sys2Proof.Machine.execAmoXchg f s
  | .amoCas f => Sys2Proof.Machine.execAmoCas f s
  | .amoFadd f => Sys2Proof.Machine.execAmoFadd f s
  | .stashMap f => Sys2Proof.Machine.execStashMap f s
  | .stashUnmap f => Sys2Proof.Machine.execStashUnmap f s
  | .stashFlush f => Sys2Proof.Machine.execStashFlush f s
  | .slcOpen f => Sys2Proof.Machine.execSlcOpen f s
  | .slcClaim f => Sys2Proof.Machine.execSlcClaim f s
  | .slcClaimC f => Sys2Proof.Machine.execSlcClaimC f s
  | .slcStart f => Sys2Proof.Machine.execSlcStart f s
  | .slcJump f => Sys2Proof.Machine.execSlcJump f s
  | .slcAccept f => Sys2Proof.Machine.execSlcAccept f s
  | .slcWait f => Sys2Proof.Machine.execSlcWait f s
  | .slcStat f => Sys2Proof.Machine.execSlcStat f s
  | .slcStatC f => Sys2Proof.Machine.execSlcStatC f s
  | .slcRetire f => Sys2Proof.Machine.execSlcRetire f s
  | .slcRecycle f => Sys2Proof.Machine.execSlcRecycle f s
  | .slcFault f => Sys2Proof.Machine.execSlcFault f s
  | .slcFaultClr f => Sys2Proof.Machine.execSlcFaultClr f s
  | .slcPage f => Sys2Proof.Machine.execSlcPage f s
  | .slcClose f => Sys2Proof.Machine.execSlcClose f s
  | .ckptBegin f => Sys2Proof.Machine.execCkptBegin f s
  | .ckptSeal f => Sys2Proof.Machine.execCkptSeal f s
  | .ckptDiff f => Sys2Proof.Machine.execCkptDiff f s
  | .vadd f => Sys2Proof.Machine.execVadd f s
  | .vsub f => Sys2Proof.Machine.execVsub f s
  | .vmul f => Sys2Proof.Machine.execVmul f s
  | .vfma f => Sys2Proof.Machine.execVfma f s
  | .vfms f => Sys2Proof.Machine.execVfms f s
  | .vmin f => Sys2Proof.Machine.execVmin f s
  | .vmax f => Sys2Proof.Machine.execVmax f s
  | .vabs f => Sys2Proof.Machine.execVabs f s
  | .vneg f => Sys2Proof.Machine.execVneg f s
  | .vcmpEq f => Sys2Proof.Machine.execVcmpEq f s
  | .vcmpLt f => Sys2Proof.Machine.execVcmpLt f s
  | .vcmpLe f => Sys2Proof.Machine.execVcmpLe f s
  | .vcmpUn f => Sys2Proof.Machine.execVcmpUn f s
  | .vaddI32 f => Sys2Proof.Machine.execVaddI32 f s
  | .vsubI32 f => Sys2Proof.Machine.execVsubI32 f s
  | .vmulI32 f => Sys2Proof.Machine.execVmulI32 f s
  | .vminI32 f => Sys2Proof.Machine.execVminI32 f s
  | .vmaxI32 f => Sys2Proof.Machine.execVmaxI32 f s
  | .vand f => Sys2Proof.Machine.execVand f s
  | .vor f => Sys2Proof.Machine.execVor f s
  | .vxor f => Sys2Proof.Machine.execVxor f s
  | .vshl f => Sys2Proof.Machine.execVshl f s
  | .vshr f => Sys2Proof.Machine.execVshr f s
  | .vcmpiEq f => Sys2Proof.Machine.execVcmpiEq f s
  | .vcmpiLt f => Sys2Proof.Machine.execVcmpiLt f s
  | .vsel f => Sys2Proof.Machine.execVsel f s
  | .vmov f => Sys2Proof.Machine.execVmov f s
  | .vsplat f => Sys2Proof.Machine.execVsplat f s
  | .vext f => Sys2Proof.Machine.execVext f s
  | .vins f => Sys2Proof.Machine.execVins f s
  | .vrotR f => Sys2Proof.Machine.execVrotR f s
  | .vrotC f => Sys2Proof.Machine.execVrotC f s
  | .vbcR f => Sys2Proof.Machine.execVbcR f s
  | .vbcC f => Sys2Proof.Machine.execVbcC f s
  | .vsumR f => Sys2Proof.Machine.execVsumR f s
  | .vmaxR f => Sys2Proof.Machine.execVmaxR f s
  | .vminR f => Sys2Proof.Machine.execVminR f s
  | .vsumC f => Sys2Proof.Machine.execVsumC f s
  | .vmaxC f => Sys2Proof.Machine.execVmaxC f s
  | .vminC f => Sys2Proof.Machine.execVminC f s
  | .vperm f => Sys2Proof.Machine.execVperm f s
  | .vtrn f => Sys2Proof.Machine.execVtrn f s
  | .vcvt f => Sys2Proof.Machine.execVcvt f s
  | .vquant f => Sys2Proof.Machine.execVquant f s
  | .vdeq f => Sys2Proof.Machine.execVdeq f s
  | .vsplit3 f => Sys2Proof.Machine.execVsplit3 f s
  | .vround f => Sys2Proof.Machine.execVround f s
  | .vcorr f => Sys2Proof.Machine.execVcorr f s
  | .mand f => Sys2Proof.Machine.execMand f s
  | .mor f => Sys2Proof.Machine.execMor f s
  | .mxor f => Sys2Proof.Machine.execMxor f s
  | .mnot f => Sys2Proof.Machine.execMnot f s
  | .mcnt f => Sys2Proof.Machine.execMcnt f s
  | .mfirst f => Sys2Proof.Machine.execMfirst f s
  | .mfirstM f => Sys2Proof.Machine.execMfirstM f s
  | .mset f => Sys2Proof.Machine.execMset f s
  | .mact f => Sys2Proof.Machine.execMact f s
  | .vexp2 f => Sys2Proof.Machine.execVexp2 f s
  | .vlog2 f => Sys2Proof.Machine.execVlog2 f s
  | .vrcp f => Sys2Proof.Machine.execVrcp f s
  | .vrsq f => Sys2Proof.Machine.execVrsq f s
  | .vsqrt f => Sys2Proof.Machine.execVsqrt f s
  | .vtanh f => Sys2Proof.Machine.execVtanh f s
  | .vsig f => Sys2Proof.Machine.execVsig f s
  | .vsincos f => Sys2Proof.Machine.execVsincos f s
  | .cfMerge f => Sys2Proof.Machine.execCfMerge f s
  | .cfMergeP f => Sys2Proof.Machine.execCfMergeP f s
  | .cfNorm f => Sys2Proof.Machine.execCfNorm f s
  | .cfNormD f => Sys2Proof.Machine.execCfNormD f s
  | .cfLabel f => Sys2Proof.Machine.execCfLabel f s
  | .cfRead f => Sys2Proof.Machine.execCfRead f s
  | .cfXmerge f => Sys2Proof.Machine.execCfXmerge f s
  | .cfTopp f => Sys2Proof.Machine.execCfTopp f s
  | .cfToppSet f => Sys2Proof.Machine.execCfToppSet f s
  | .cfRace f => Sys2Proof.Machine.execCfRace f s
  | .cfMask f => Sys2Proof.Machine.execCfMask f s
  | .cfSpill f => Sys2Proof.Machine.execCfSpill f s
  | .rngKey f => Sys2Proof.Machine.execRngKey f s
  | .rngPos f => Sys2Proof.Machine.execRngPos f s
  | .rngPosR f => Sys2Proof.Machine.execRngPosR f s
  | .xaInit f => Sys2Proof.Machine.execXaInit f s
  | .xaPush f => Sys2Proof.Machine.execXaPush f s
  | .xaEst f => Sys2Proof.Machine.execXaEst f s
  | .xaStat f => Sys2Proof.Machine.execXaStat f s
  | .tmma f => Sys2Proof.Machine.execTmma f s
  | .tmmaCell f => Sys2Proof.Machine.execTmmaCell f s
  | .tspmma f => Sys2Proof.Machine.execTspmma f s
  | .tspmma48 f => Sys2Proof.Machine.execTspmma48 f s
  | .tcomp f => Sys2Proof.Machine.execTcomp f s
  | .tcomp48 f => Sys2Proof.Machine.execTcomp48 f s
  | .tzero f => Sys2Proof.Machine.execTzero f s
  | .tdrain f => Sys2Proof.Machine.execTdrain f s
  | .tdacc f => Sys2Proof.Machine.execTdacc f s
  | .tdaccClamp f => Sys2Proof.Machine.execTdaccClamp f s
  | .tread f => Sys2Proof.Machine.execTread f s
  | .tcellp f => Sys2Proof.Machine.execTcellp f s
  | .epiSet f => Sys2Proof.Machine.execEpiSet f s
  | .mpset f => Sys2Proof.Machine.execMpset f s
  | .mpsetAdd f => Sys2Proof.Machine.execMpsetAdd f s
  | .tcall f => Sys2Proof.Machine.execTcall f s
  | .tloop f => Sys2Proof.Machine.execTloop f s
  | .tvproj f => Sys2Proof.Machine.execTvproj f s
  | .tvprojR f => Sys2Proof.Machine.execTvprojR f s
  | .tvprojPair f => Sys2Proof.Machine.execTvprojPair f s
  | .tvprojPairR f => Sys2Proof.Machine.execTvprojPairR f s
  | .rstLoad f => Sys2Proof.Machine.execRstLoad f s
  | .mtcFmode f => Sys2Proof.Machine.execMtcFmode f s
  | .mtcRngsrc f => Sys2Proof.Machine.execMtcRngsrc f s
  | .nop => Sys2Proof.Machine.execNop s
  | .yield => Sys2Proof.Machine.execYield s
  | .exit => Sys2Proof.Machine.execExit s
  | .rfe => Sys2Proof.Machine.execRfe s
  | .rfu => Sys2Proof.Machine.execRfu s
  | .yieldEr => Sys2Proof.Machine.execYieldEr s
  | .cfClear => Sys2Proof.Machine.execCfClear s
  | .cfClearAll => Sys2Proof.Machine.execCfClearAll s
  | .cfMaskOff => Sys2Proof.Machine.execCfMaskOff s
  | .tret => Sys2Proof.Machine.execTret s
  | .tstep => Sys2Proof.Machine.execTstep s
  | .hostRmaWrite => Sys2Proof.Machine.execHostRmaWrite s
  | .hostRmaRead => Sys2Proof.Machine.execHostRmaRead s
  | .recordTimeout => Sys2Proof.Machine.execRecordTimeout s
  | .onChipRingRefill => Sys2Proof.Machine.execOnChipRingRefill s
  | .queueEnable => Sys2Proof.Machine.execQueueEnable s
  | .queueDisable => Sys2Proof.Machine.execQueueDisable s
  | .queueSetQsize => Sys2Proof.Machine.execQueueSetQsize s
  | .queueSettings => Sys2Proof.Machine.execQueueSettings s
  | .dispatchHead => Sys2Proof.Machine.execDispatchHead s
  | .placementRetry => Sys2Proof.Machine.execPlacementRetry s
  | .contextFree => Sys2Proof.Machine.execContextFree s
  | .barrierRelease => Sys2Proof.Machine.execBarrierRelease s
  | .barD5Exchange => Sys2Proof.Machine.execBarD5Exchange s
  | .dispatchAnswer => Sys2Proof.Machine.execDispatchAnswer s
  | .contextReady => Sys2Proof.Machine.execContextReady s
  | .legLimitReached => Sys2Proof.Machine.execLegLimitReached s
  | .graceExpiry => Sys2Proof.Machine.execGraceExpiry s
  | .taskResumption => Sys2Proof.Machine.execTaskResumption s
  | .registerMissMicrotrap => Sys2Proof.Machine.execRegisterMissMicrotrap s
  | .energyQuotaExhausted => Sys2Proof.Machine.execEnergyQuotaExhausted s
  | .quotaGrant => Sys2Proof.Machine.execQuotaGrant s
  | .loadDataArrival => Sys2Proof.Machine.execLoadDataArrival s
  | .deferredTrap => Sys2Proof.Machine.execDeferredTrap s
  | .userEventDelivery => Sys2Proof.Machine.execUserEventDelivery s
  | .storePerform => Sys2Proof.Machine.execStorePerform s
  | .atomicPerform => Sys2Proof.Machine.execAtomicPerform s
  | .homeAccess => Sys2Proof.Machine.execHomeAccess s
  | .stashFill => Sys2Proof.Machine.execStashFill s
  | .l2Eviction => Sys2Proof.Machine.execL2Eviction s
  | .logicalTimeTick => Sys2Proof.Machine.execLogicalTimeTick s
  | .remoteAccessArrival => Sys2Proof.Machine.execRemoteAccessArrival s
  | .remoteCompletion => Sys2Proof.Machine.execRemoteCompletion s
  | .matrixEntryExecute => Sys2Proof.Machine.execMatrixEntryExecute s
  | .matrixEntryRetire => Sys2Proof.Machine.execMatrixEntryRetire s
  | .tileLoadComplete => Sys2Proof.Machine.execTileLoadComplete s
  | .tileStorePerform => Sys2Proof.Machine.execTileStorePerform s
  | .bswapCopyComplete => Sys2Proof.Machine.execBswapCopyComplete s
  | .phaseCancel => Sys2Proof.Machine.execPhaseCancel s
  | .opselSettleEnd => Sys2Proof.Machine.execOpselSettleEnd s
  | .rngQueueFill => Sys2Proof.Machine.execRngQueueFill s
  | .walkStart => Sys2Proof.Machine.execWalkStart s
  | .edgeIdlePass => Sys2Proof.Machine.execEdgeIdlePass s
  | .fabricTimeout => Sys2Proof.Machine.execFabricTimeout s
  | .ftimeoutSet => Sys2Proof.Machine.execFtimeoutSet s
  | .nodeRecovery => Sys2Proof.Machine.execNodeRecovery s
  | .checkpointSettings => Sys2Proof.Machine.execCheckpointSettings s
  | .reserveAssign => Sys2Proof.Machine.execReserveAssign s
  | .ckptPageCopied => Sys2Proof.Machine.execCkptPageCopied s
  | .ckptCopyComplete => Sys2Proof.Machine.execCkptCopyComplete s
  | .ckptCopyFail => Sys2Proof.Machine.execCkptCopyFail s
  | .tlbInvalidate => Sys2Proof.Machine.execTlbInvalidate s
  | .tlbInvalidateComplete => Sys2Proof.Machine.execTlbInvalidateComplete s
  | .plimitSet => Sys2Proof.Machine.execPlimitSet s
  | .powerOverBound => Sys2Proof.Machine.execPowerOverBound s
  | .capLower => Sys2Proof.Machine.execCapLower s
  | .capRaise => Sys2Proof.Machine.execCapRaise s
  | .thermalThreshold => Sys2Proof.Machine.execThermalThreshold s
  | .slowdownNotice => Sys2Proof.Machine.execSlowdownNotice s
  | .slowdownTimer => Sys2Proof.Machine.execSlowdownTimer s
  | .slowdownLapse => Sys2Proof.Machine.execSlowdownLapse s
  | .hbmSoftRepair => Sys2Proof.Machine.execHbmSoftRepair s
  | .softRepairEnd => Sys2Proof.Machine.execSoftRepairEnd s
  | .flitCheckFailure => Sys2Proof.Machine.execFlitCheckFailure s
  | .blockCheckFailure => Sys2Proof.Machine.execBlockCheckFailure s
  | .packageReset => Sys2Proof.Machine.execPackageReset s
  | .firmwareInstall => Sys2Proof.Machine.execFirmwareInstall s
  | .attestationRequest => Sys2Proof.Machine.execAttestationRequest s
  | .unlistedOpcode => Sys2Proof.Machine.execUnlistedOpcode s

end Sys2Proof.Machine
end

