-- ==== Sys2Proof/Machine/Turn.lean ====
section
/-! DEFINITION. What the next step of the package does (log 1). The agenda says whose turn it is; where it says nothing, the core
that acted last goes on, and where that core can do nothing, the next thing that the package does by itself happens. A turn of a
core fetches, decodes and issues the next bundle of its running context, as far as the first slot that acts. -/

namespace Sys2Proof.Machine

/-- What a step comes to before the meaning of an instruction or event is called: that call, or a step that makes none. -/
inductive Prepared where
  | run (i : Instr) (s : State)
  | done (s : State)

/-- An event with what it brings. -/
abbrev Event := Instr × Input

/-- An event happens. -/
def State.happen (s : State) (e : Event) : Prepared := .run e.1 { s with input := e.2 }

/-- A core runs for a while (R94, R130). -/
def State.spend (s : State) (n : Nat) : State :=
  let a := Config.cycleAdvance s.clock
  s.modCore n fun k =>
    { k with
      ccyc := k.ccyc + BitVec.ofNat 64 a
      ctxs := k.ctxs.map fun e =>
        if k.running = some e.1 then (e.1, { e.2 with leg := { e.2.leg with count := e.2.leg.count + a } }) else e }

/-! ### Routines of the matrix engine -/

/-- A word of the routine of an engine runs (R218, R221). -/
def State.prepareEngine (s : State) (n : Nat) : Prepared :=
  match (s.core n).routine with
  | none => .done s
  | some r =>
    match (s.core n).findTask r.uid with
    | none => .done (s.modCore n fun k => { k with routine := none })
    | some x =>
      if 4095 < r.word then .done (s.routineError n r causeIllegalOp (some 4096) 4096)
      else
        match routineWord x.task.hdr (mget 0 (s.core n).rstore r.word) with
        | .error cause => .done (s.routineError n r cause none r.word)
        | .ok i => .run i { s with actor := .engine n }

/-! ### What the package does by itself -/

/-- What a context by itself makes happen. -/
def State.ctxEvent (s : State) (n c : Nat) (x : Ctx) : Option Event :=
  if x.run = .blocked .answer ∧ x.bundle.all Bundle.answered then some (.dispatchAnswer, .dispatchAnswer n c)
  else if s.mayWake n c x then some (.contextReady, .contextReady n c)
  else if x.buf.cancel ∧ (x.buf.irrevocable ∨ (x.cnt.as = 0 ∧ x.buf.snap.isSome)) then some (.phaseCancel, .phaseCancel n c)
  else if x.over then some (.contextFree, .contextFree n c)
  else if (s.passEdges n c).isSome then some (.edgeIdlePass, .edgeIdlePass n c)
  else if x.run = .blocked .issue ∧ x.bundle.any fun b => decide (x.rqAhead < b.vectors) then some (.rngQueueFill, .rngQueueFill n c)
  else
    (x.pend.findSome? fun w => w.landing.bind fun l => s.localWait n x l.addr.toNat).map fun l =>
      (.loadDataArrival, .loadDataArrival n c l.addr.toNat [] .good)

/-- What a suspended task of a core by itself makes happen: it is freed once it has ended, its edges are passed on its behalf, its
data arrives, or it resumes (R80, R256, R274, R275). -/
def State.suspendedEvent (s : State) (n : Nat) (e : Suspended) : Option Event :=
  if e.ctx.over then some (.contextFree, .contextFree n e.slot)
  else if e.ctx.run ≠ .ready ∧ (s.passEdges n e.slot).isSome then some (.edgeIdlePass, .edgeIdlePass n e.slot)
  else
    match (e.ctx.pend ++ (e.ctx.frame.map (·.pend)).getD [] ++ (e.ctx.eframe.map (·.pend)).getD []).findSome? fun w =>
        w.landing.bind fun l => s.localWait n e.ctx l.addr.toNat with
    | some l => some (.loadDataArrival, .loadDataArrival n e.slot l.addr.toNat [] .good)
    | none => if s.mayResume n e then some (.taskResumption, .taskResumption n e.ctx.task.uid) else none

/-- What an outstanding operation of a core by itself makes happen. -/
def State.asyncEvent (s : State) (n : Nat) (o : Async) : Option Event :=
  if o.load then some (.tileLoadComplete, .tileLoadComplete n o.id [])
  else if o.copy then (if s.copyOpen o.id then none else some (.bswapCopyComplete, .bswapCopyComplete n o.id))
  else some (.tileStorePerform, .tileStorePerform n o.id)

/-- What a core by itself makes happen. -/
def State.coreEvent (s : State) (n : Nat) (k : Core) : Option Event :=
  if k.outq.any (fun a => !a.placed) then some (.homeAccess, .homeAccess n)
  else if k.oldestIs true then some (.atomicPerform, .atomicPerform n)
  else if k.oldestIs false then some (.storePerform, .storePerform n)
  else if k.nextEntry.isSome then some (.matrixEntryExecute, .matrixEntryExecute n)
  else if k.queue.head?.any (·.done) then some (.matrixEntryRetire, .matrixEntryRetire n)
  else
    match k.async.findSome? (s.asyncEvent n) with
    | some e => some e
    | none =>
      match k.ctxs.findSome? fun x => s.ctxEvent n x.1 x.2 with
      | some e => some e
      | none => k.suspended.findSome? fun e => s.suspendedEvent n e.2

/-- What the dispatcher by itself does (R72, R74): it fills an on-chip ring, or serves the next queue. -/
def State.queueEvent (s : State) : Option Event :=
  match s.queues.find? fun q => (s.refill q.1).isSome with
  | some q => some (.onChipRingRefill, .onChipRingRefill q.1)
  | none => s.nextServed.map fun q =>
    if (s.queue q).waiting.isSome then (.placementRetry, .placementRetry q) else (.dispatchHead, .none)

/-- What the other units by themselves make happen. -/
def State.unitEvent (s : State) : Option Event :=
  match s.barriers.find? fun b => (s.barrierStep b).isSome with
  | some b => some (.barrierRelease, .barrierRelease b.grid b.level b.dom b.n)
  | none =>
    match s.ckpt.copy with
    | none => none
    | some c =>
      if s.copyLate c then none
      else if s.ckpt.copied c then some (.ckptCopyComplete, .none)
      else ((List.range (ckptPages s.ckpt.cfg)).find? fun p => s.ckpt.owes p).map fun p => (.ckptPageCopied, .ckptPageCopied p)

/-- The next line of an access that has arrived (R313). -/
def State.arrivalEvent (s : State) : Option Event :=
  s.fabric.arriving.head?.map fun a => (.remoteAccessArrival, .remoteAccessLine a.1)

/-- The first thing that the package does by itself. -/
def State.autoEvent (s : State) : Option Event :=
  match s.arrivalEvent with
  | some e => some e
  | none =>
    match s.cores.findSome? fun k => s.coreEvent k.1 k.2 with
    | some e => some e
    | none =>
      match s.unitEvent with
      | some e => some e
      | none => s.queueEvent

/-- The next core after one on which a context runs or may run. -/
def State.nextCore (s : State) (n : Nat) : Option Nat :=
  ((List.range 144).map fun i => (n + 1 + i) % 144).find? fun m =>
    (s.core m).running.isSome || (s.core m).nextReady.isSome

/-- The acting core can do nothing now: the package goes on by itself, or the turn passes to another core. -/
def State.idleTurn (s : State) (n : Nat) : Prepared :=
  match s.autoEvent with
  | some e => s.happen e
  | none =>
    match (s.cores.find? fun k => k.2.routine.isSome) with
    | some (m, _) => s.prepareEngine m
    | none => .done { s with actor := .core ((s.nextCore n).getD n) }

/-! ### The next bundle of a context -/

/-- What comes before the next bundle (R267): a deferred trap, an action that is due, or a user event. -/
def State.boundaryEvent (s : State) (n c : Nat) (x : Ctx) : Option Event :=
  match x.boundaryStep with
  | some 1 => some (.deferredTrap, .deferredTrap n c)
  | some 2 => some (.graceExpiry, .graceExpiry n)
  | some _ => if (s.deliverNext n c).isSome then some (.userEventDelivery, .userEventDelivery n c) else none
  | none => none

/-- The next slot of a bundle whose request is to be sent (R82). -/
def Bundle.nextAsk (b : Bundle) (fail : Option Nat) : Option Nat :=
  (List.range b.slots.length).find? fun i =>
    decide (b.ask ≤ i) && (b.slots[i]?).any fun p =>
      b.latch.guard p.word && isRequest p.word.instr && (tget b.answers p.pos).isNone
        && (match fail with | some q => decide (p.pos < q) | none => true)

/-- A bundle that blocks before it issues (R82): it makes a request. Slots that `rfe` re-enters block only for answers that are
still to come. -/
def Bundle.blocksFirst (b : Bundle) : Bool :=
  if b.reentry then !b.answered else b.slots.any fun p => b.latch.guard p.word && isRequest p.word.instr

/-- A context blocks and gives up its core (R79). -/
def State.block (s : State) (n c : Nat) (why : Wait) : State :=
  (s.modCtx n c fun x => { x with run := .blocked why }).release n c

/-- The next slot of the bundle of a context that has issued, or that sends a request, runs; one whose slots have all committed
ends, once what its end waited for has come (R272). -/
def Bundle.run (b : Bundle) (n c : Nat) (s : State) : Prepared :=
  match b.here with
  | some p => .run p.word.instr s
  | none => .done (if b.stage = .issued then s.finish n c else s)

/-- A bundle issues (R31, R43, R82), and its first slot runs. -/
def State.issueRun (s : State) (n c : Nat) (b : Bundle) (fail : Option Nat) : Prepared :=
  let s := s.issueBundle n c b fail
  match (s.ctx n c).bundle with
  | some b => b.run n c s
  | none => .done s

/-- A bundle of a context goes on: its requests are sent, it blocks for the answers, it issues, its slots run. The core's clock
runs meanwhile (R130). -/
def State.prepareBundle (s : State) (n c : Nat) : Prepared :=
  let s := s.spend n
  match (s.ctx n c).bundle with
  | none => .done s
  | some b =>
    match b.stage with
    | .issued => b.run n c s
    | stage =>
      match s.verdict n c b with
      | .stall => s.idleTurn n
      | .block => .done (s.block n c .issue)
      | .issue fail =>
        if stage = .asking then
          match b.nextAsk fail with
          | some i => Bundle.run { b with ask := i } n c (s.modBundle n c fun b => { b with ask := i })
          | none =>
            if b.blocksFirst then .done ((s.modBundle n c fun b => { b with stage := .answered }).block n c .answer)
            else s.issueRun n c b fail
        else if b.answered then s.issueRun n c b fail
        else .done (s.block n c .answer)

/-- A loop that a drain has parked goes on when its context does (R273). -/
def Ctx.refill (x : Ctx) : Ctx :=
  if x.leg.draining then x
  else
    match x.loops.parked with
    | none => x
    | some m =>
      let (l, qs) := (x.loops.set m { x.loops.get m with drain := false }).passStart m
      qs.foldl (fun x w => x.push 0 (.q w.1 w.2)) { x with loops := l }

/-- A context reaches its next bundle (R32, R267). -/
def State.prepareNext (s : State) (n c : Nat) : Prepared :=
  let s := s.modCtx n c Ctx.refill
  match s.boundaryEvent n c (s.ctx n c) with
  | some e => s.happen e
  | none =>
    match s.begin n c with
    | .trap t i =>
      if i.cause = causeIllegalClass ∨ i.cause = causeIllegalOp then .run .unlistedOpcode s else .done (t.trap n c i)
    | .frozen t => t.idleTurn n
    | .miss _ _ => s.happen (.registerMissMicrotrap, .registerMissMicrotrap n c)
    | .bundle t _ => t.prepareBundle n c

/-- A phase-protected task opens its phase first (R86, R278). -/
def State.prepareOpen (s : State) (n c : Nat) : Prepared :=
  let x := s.ctx n c
  if x.task.record.prot ∧ !x.opened ∧ x.frame.isNone ∧ x.eframe.isNone then
    match s.openPhase n c with
    | .done t => t.prepareNext n c
    | .wait t => .done (t.block n c .read)
    | .fail t cause taddr => .done (t.trapBefore n c cause taddr none)
  else s.prepareNext n c

/-- The entries parked with a routine of a task may enter the queue again (R220): there is room, and no action is due that would
stop the routine again at once, or a phase waits for them to retire (R279). -/
def Core.mayReenter (k : Core) (x : Ctx) : Bool :=
  x.parked != [] && (!x.actionDue || !x.atBoundary || x.buf.cancel) && decide (k.queue.length + x.parked.length ≤ 8)

/-- Entries parked with a routine enter the queue again when their context runs, blocks or has ended (R220). -/
def State.reenter (s : State) (n : Nat) : State :=
  let s := (s.core n).ctxs.foldl (fun s e =>
    if ((s.core n).running = some e.1 ∨ e.2.run ≠ .ready) ∧ (s.core n).mayReenter e.2 then s.unpark n e.2 else s) s
  (s.core n).suspended.foldl (fun s e =>
    if e.2.ctx.run = .ended ∧ (s.core n).mayReenter e.2.ctx then s.unpark n e.2.ctx else s) s

/-- The running context of a core goes on. -/
def State.prepareRunning (s : State) (n c : Nat) : Prepared :=
  let x := s.ctx n c
  if x.stalled then ((s.setCtx n c { x with stalled := false }).spend n).idleTurn n
  else if x.limitReached then s.happen (.legLimitReached, .legLimitReached n)
  else if x.quotaOver then s.happen (.energyQuotaExhausted, .energyQuotaExhausted n c)
  else
    match x.bundle with
    | none => s.prepareOpen n c
    | some b =>
      match if b.untouched then s.boundaryEvent n c x else none with
      | some e => s.happen e
      | none =>
        if x.lacks.none then s.prepareBundle n c else s.happen (.registerMissMicrotrap, .registerMissMicrotrap n c)

/-- The turn of a core. -/
def State.prepareCore (s : State) (n : Nat) : Prepared :=
  let s := (s.reenter n).wake n
  let k := s.core n
  if k.tickDue then s.happen (.logicalTimeTick, .logicalTimeTick n)
  else
    match k.running, k.nextReady with
    | some c, _ => s.prepareRunning n c
    | none, some c => (s.spend n).happen (.contextReady, .contextReady n c)
    | none, none => (s.spend n).idleTurn n

/-! ### Turns -/

/-- Time passes at every step (R130). -/
def State.passTime (s : State) : State :=
  { s with
    clock := s.clock + 1
    gtime := BitVec.ofNat 64 (min (2 ^ 64 - 1) (s.gtime.toNat + Config.gtimeAdvance s.clock)) }

/-- A row of the opcode table that is an event of the package. -/
def isEvent (i : Instr) : Bool := (entry i).isNone

/-- What the next step does. -/
def State.prepare (s : State) : Prepared :=
  let s := s.passTime
  match s.agenda with
  | .event i x :: ts => let s := { s with agenda := ts }; if isEvent i then s.happen (i, x) else .done s
  | .actor (.core n) :: ts => State.prepareCore { s with agenda := ts, actor := .core n } n
  | .actor (.engine n) :: ts => State.prepareEngine { s with agenda := ts } n
  | [] => match s.actor with | .core n | .engine n => State.prepareCore { s with actor := .core n } n

end Sys2Proof.Machine
end

