-- ==== Sys2Proof/Machine/Step.lean ====
section
/-! DEFINITION. One step of the package: what `State.prepare` finds to be next, done by `exec`; and a state whose next step runs a
given instruction. -/

namespace Sys2Proof.Machine

/-- One step (log 1). -/
def step (s : State) : Host.Outcome State Fault Refusal :=
  match s.prepare with
  | .run i t => exec i t
  | .done t => .next t

/-! ### A state that runs one instruction -/

/-- Words followed by words of `nop`, at least four in all, the last with its stop bit. -/
def bundleOf (ws : List Word) : List Word := ws ++ List.replicate (3 - ws.length) 0 ++ [0x80000000]

/-- The address at which a program is placed. -/
def codeAt : Nat := 0x1000

/-- A kernel header that declares everything that one task may use (R73). -/
def fullHeader : Header :=
  { code := BitVec.ofNat 64 codeAt, ns := 32, nv := 16, nm := 8, nacc := 4, nst := 16, nmp := 8, nbar := 4, npipe := 4
    scratch := 4194304, ctx := 8, level := 5, cf := true }

/-- The page table of the queue: one leaf of 1 GiB at address 0 with every permission (R320). -/
def rootAt : Nat := 2097152

/-- The privileges in which an instruction may run: user, system, and a user event handler. -/
def statusFor (i : Instr) : BitVec 7 :=
  (([0, 0x10, 0x40] : List (BitVec 7)).find? fun st => privilegeOk { status := st } i).getD 0

/-- A task of a grid of one with everything that a header can declare. -/
def loneTask : Task :=
  { uid := 1, grid := 2, index := 0, hdr := fullHeader, record := { grid := 1, jobtag := 1 }, queue := 0
    spBase := 4194304, spSize := 4194304
    popEnd := [(0, 0), (1, 1), (2, 2), (3, 3)], pushEnd := [(0, 0), (1, 1), (2, 2), (3, 3)] }

/-- The package with the lone task on context 0 of core 0, and `ws` at its code address. -/
def State.placed (s : State) (st : BitVec 7) (ws : List Word) : State :=
  let x := firstCtx loneTask 0 0 0 true
  let x := { x with ctl := { x.ctl with status := st } }
  let bytes := writeBytes s.mem.bytes codeAt (ws.flatMap (wordLe 4))
  let pipe : Pipe := { pusher := 1, popper := 1 }
  let k := s.core 0
  let k := { k with ctxs := [(0, x)], running := some 0, pipes := [(0, pipe), (1, pipe), (2, pipe), (3, pipe)] }
  let q := s.queue 0
  let q := { q with cfg := ⟨1, 0, 100000, none, rootAt⟩, running := some 2 }
  let g : Grid :=
    { queue := 0, record := loneTask.record, hdrs := [fullHeader], seq := 0, placed := 1, live := 1 }
  { s with
    cores := mset {} s.cores 0 k
    queues := mset {} s.queues 0 q
    grids := tset s.grids 2 g
    mem := { s.mem with bytes := writeBytes bytes rootAt [0x1E] }
    fresh := max s.fresh 3, actor := .core 0, agenda := [] }

/-- A slot with its stop bit ends its bundle: three slots stand before it, have committed, and the next step goes on with it. -/
def State.placedLast (s : State) (st : BitVec 7) (ws : List Word) : State :=
  let s := s.placed st (0 :: 0 :: 0 :: ws)
  let x := s.ctx 0 0
  match checkBundle fullHeader x.ctl (0 :: 0 :: 0 :: ws) with
  | .ok ps =>
    let stage : Stage := if ps.any (fun p => isRequest p.word.instr) then .asking else .issued
    let b : Bundle :=
      { addr := BitVec.ofNat 64 codeAt, size := 3 + ws.length, slots := ps, cur := 3, ask := 3, stage := stage, popped := 4
        latch := x.latch (s.core 0) }
    s.setCtx 0 0 { x with bundle := some b }
  | .error _ => s

/-- The next step runs an instruction of a routine: word 0 of the store, called by the lone task. -/
def State.placedWord (s : State) (w : Word) : State :=
  let s := s.placed 0 (bundleOf [])
  let call : MatEntry := { id := 3, uid := 1, ctx := 0, op := .call 0 0 }
  let k := s.core 0
  let k := { k with rstore := mset 0 k.rstore 0 w, queue := [call], routine := some { uid := 1, entry := 3, word := 0 } }
  { s with
    cores := mset {} s.cores 0 k
    fresh := 4, agenda := [.actor (.engine 0)] }

/-- The state in which the next step runs an instruction, given by its bits (log 17). The first of three privileges in which it may
run is chosen; a control word of a routine stands in the routine store. -/
def State.withFetchWord (s : State) (nbits w : Nat) : State :=
  let ws := wordsOf ((nbits + 31) / 32) w
  match decodeTableWord nbits w with
  | none => s.placed 0 (bundleOf ws)
  | some i =>
    if routineOnly i then s.placedWord (ws.headD 0)
    else if ws.getLast?.any wordStop then s.placedLast (statusFor i) ws
    else s.placed (statusFor i) (bundleOf ws)

end Sys2Proof.Machine
end

