-- ==== Sys2Proof/Safety.lean ====
section
/-! DEFINITION. What the statements about whole states speak of: the canonical form of memory, and runs. -/

namespace Sys2Proof.Machine

/-- Physical memory is in its canonical form: addresses strictly rising, and no listed byte equal to 0, which an unlisted
address reads as (log 2). -/
def Memory.wf (m : Memory) : Bool := mwf 0 m.bytes

/-- Physical memory is in its canonical form, and so is the table of queues: numbers strictly rising, and no queue listed that is
as at reset. -/
def State.canonical (s : State) : Prop := Memory.wf s.mem = true ∧ mwf {} s.queues = true

/-- A state that `n` steps lead to, each to a next state. -/
inductive Run : State → Nat → State → Prop where
  | nil (s : State) : Run s 0 s
  | cons {s t u : State} {n : Nat} (h : step s = .next t) (r : Run t n u) : Run s (n + 1) u

/-- A state that the machine reaches from reset when turns are put into its agenda (log 1, log 17). -/
inductive Reached : State → Prop where
  | reset : Reached State.reset
  | turn {s : State} (h : Reached s) (ts : List Turn) : Reached { s with agenda := ts }
  | step {s t : State} (h : Reached s) (e : step s = .next t) : Reached t

/-! ### What the statements about slots speak of -/

/-- A slot acts: its bundle has issued, its guard lets it (R20), and its pops and pushes can be served (R198). -/
structure Runs (s : State) (e : Env) : Prop where
  env : s.env = some e
  issued : e.b.stage = .issued
  guard : e.b.latch.guard e.p.word = true
  served : e.b.pipeFail ≠ some e.p.pos

/-- A slot sends its request: its bundle stands before issue, and its guard lets it (R82). -/
structure Asks (s : State) (e : Env) : Prop where
  env : s.env = some e
  asking : e.b.stage ≠ .issued
  guard : e.b.latch.guard e.p.word = true

/-- Slots of the bundle come after the acting one. -/
def Env.mid (e : Env) : Prop := e.b.stage = .issued ∧ e.b.cur + 1 < e.b.slots.length

/-- The instruction stands in the words of a program: it is a row of the operation table (R33). -/
def isSlot (i : Instr) : Bool := (entry i).isSome

/-- The model's read of one byte of physical memory (R319). -/
def State.byte (s : State) (a : Nat) : Byte := mget 0 s.mem.bytes a

/-- Nothing differs but one context of one core: no field of the package but its cores, no other core, nothing else of the
core, no other context, no byte of memory. -/
structure OnlyCtx (n c : Nat) (s t : State) : Prop where
  package : { t with cores := s.cores } = s
  cores : ∀ m, m ≠ n → t.core m = s.core m
  core : { t.core n with ctxs := (s.core n).ctxs } = s.core n
  ctxs : ∀ d, d ≠ c → t.ctx? n d = s.ctx? n d
  bytes : ∀ a, t.byte a = s.byte a

/-! ### What memory operations leave of a core -/

/-- The destination of a landing without its value. -/
def RegWrite.rest : RegWrite → RegWrite
  | .s n _ => .s n 0
  | .es n _ => .es n 0
  | .v n sel _ => .v n sel []
  | w => w

/-- A pending write without the data that it waits for; one that waits for none as it is. -/
def PWrite.rest (w : PWrite) : PWrite :=
  match w.landing with
  | none => w
  | some l => { w with dest := w.dest.rest, landing := some { l with status := .waiting } }

/-- A context without what its memory accesses change by themselves: the data of landings, and the lines of its windows. -/
def Ctx.rest (x : Ctx) : Ctx := { x.mapPend PWrite.rest with windows := [] }

/-- A core without what memory accesses change by themselves: its L1 lines, its logical time (R327), and which of its queued
accesses have their place. -/
def Core.rest (k : Core) : Core :=
  { k with
    ctxs := k.ctxs.map fun e => (e.1, e.2.rest)
    suspended := k.suspended.map fun e => (e.1, { e.2 with ctx := e.2.ctx.rest })
    outq := k.outq.map fun a => { a with placed := false }
    l1 := [], t := 0 }

/-- The cores of two states differ in nothing but what memory accesses change by themselves. -/
def SameCores (s t : State) : Prop := ∀ n, (t.core n).rest = (s.core n).rest

end Sys2Proof.Machine
end

