-- ==== Sys2Proof/Certificates/Slice0/Obligations.lean ====
section
/-! DEFINITION. The statements for the provers, each of which formalises rules of the spec,
  and the tables that they speak of. -/

open Sys2Proof Sys2Proof.Machine

/-- Words written out in the spec, and one of each other class built from R18, stand for the instructions they are said to
encode (R18, R26, R34 to R38). -/
def Obligations.WrittenWordsDecode : Prop :=
  decodeSlot [0x50100000, 0x30C0224A]
    = .ok (⟨false, false, false, 0, .ldI64 ⟨4, 9, 5, false, some 0x0100000⟩⟩, []) ∧
  decodeSlot [0x00202946] = .ok (⟨false, false, false, 0, .add ⟨5, 5, 3, false, none⟩⟩, []) ∧
  decodeSlot [0x80000000] = .ok (⟨true, false, false, 0, .nop⟩, []) ∧
  decodeSlot [0x03A01BE8] = .ok (⟨false, false, false, 0, .li ⟨3, 15, 20, false, none⟩⟩, []) ∧
  decodeSlot [0x5FFFFFFF, 0x040018D8] = .ok (⟨false, false, false, 0, .addi ⟨3, 3, 12, false, some 0xFFFFFFF⟩⟩, []) ∧
  decodeSlot [0x050008C1] = .ok (⟨false, false, false, 0, .cmpiLt ⟨1, 3, 0, true, none⟩⟩, []) ∧
  decodeSlot [0x50000008, 0x31600088] = .ok (⟨false, false, false, 0, .st64 ⟨0, 2, 4, false, some 8⟩⟩, []) ∧
  -- class V, OP 0x00, guard !q2, v5 := v1 + v2
  decodeSlot [0b0_001_0000000_1_1_010_00101_00001_00010_0#32]
    = .ok (⟨false, true, true, 2, .vadd ⟨5, 1, 2, false, none⟩⟩, []) ∧
  -- class X, OP 0x00, v3 := exp2 v4
  decodeSlot [0b1_010_0000000_0_0_000_00011_00100_00000_0#32]
    = .ok (⟨true, false, false, 0, .vexp2 ⟨3, 4, 0, false, none⟩⟩, []) ∧
  -- class T, OP 0x03, acc2
  decodeSlot [0b0_100_0000011_0_0_000_00010_00000_00000_0#32]
    = .ok (⟨false, false, false, 0, .tzero ⟨2, 0, 0, false, none⟩⟩, [])

/-- Every well-formed instruction of the operation table, with every guard, stop bit and operand, is decoded from its own words,
whatever words follow (R18 to R38). Words that decode to a slot are the words that the encoder gives it: every bit of a word is
read, and no slot has two spellings (R18, R25, R26). -/
def Obligations.DecodingInvertsEncoding : Prop :=
  (∀ (x : SlotWord) (ws : List Word), x.instr.wellFormed = true → isSlot x.instr = true →
     decodeSlot (encode x ++ ws) = .ok (x, ws)) ∧
  (∀ (x : SlotWord) (ws rest : List Word), decodeSlot ws = .ok (x, rest) → encode x ++ rest = ws)

/-- The opcodes of each class, as ranges (R34 to R38). -/
def Sys2Proof.listedOpcodes : Nat → List (Nat × Nat)
  | 0 => [(0x00, 0x1D), (0x20, 0x28), (0x40, 0x55), (0x58, 0x60), (0x64, 0x67)]
  | 1 => [(0x00, 0x0C), (0x20, 0x2C), (0x30, 0x45), (0x50, 0x57)]
  | 2 => [(0x00, 0x07), (0x10, 0x19), (0x20, 0x21), (0x30, 0x33)]
  | 3 => [(0x00, 0x06), (0x08, 0x0E), (0x10, 0x18), (0x20, 0x28), (0x2C, 0x2E), (0x30, 0x3E)]
  | 4 => [(0x00, 0x10)]
  | _ => []

/-- A class lists an opcode. -/
def Sys2Proof.isListed (cls op : Nat) : Bool := (listedOpcodes cls).any fun r => decide (r.1 ≤ op ∧ op ≤ r.2)

/-- Each class has the opcodes that its map lists and no others: an unlisted opcode raises ILLEGAL_OP at its word, a word that
decodes has a listed one (R33), and every listed opcode has a word that decodes. A word of a reserved class decodes to nothing
(R19). -/
def Obligations.OpcodesAreThoseListed : Prop :=
  (∀ (h : Header) (c : Ctl) (r : RawSlot), wordClass r.word < 5 → isListed (wordClass r.word) (wordOp r.word) = false →
    checkSlot h c r = .error (causeIllegalOp, r.own)) ∧
  (∀ (ext : Option (BitVec 28)) (w : Word) (x : SlotWord), decodeWord ext w = .ok x →
    isListed (wordClass w) (wordOp w) = true) ∧
  (∀ cls op : Nat, isListed cls op = true → ∃ (w : Word) (x : SlotWord),
    wordClass w = cls ∧ wordOp w = op ∧ decodeWord none w = .ok x) ∧
  ∀ (w : Word) (ws : List Word), 6 ≤ wordClass w → decodeSlot (w :: ws) = .error .reservedClass

/-- The state in which the turn of a core begins: time has passed, entries parked with a routine are back in their queue, and
the contexts whose condition has cleared are ready (R79, R220, log 1). -/
def Sys2Proof.turnOf (s : State) (n : Nat) : State := (({ s.passTime with actor := .core n } : State).reenter n).wake n

/-- The running context of a core goes on: nothing that comes before a slot or a bundle is due. -/
structure Sys2Proof.GoesOn (t : State) (n c : Nat) : Prop where
  running : (t.core n).running = some c
  tick : (t.core n).tickDue = false
  stalled : (t.ctx n c).stalled = false
  limit : (t.ctx n c).limitReached = false
  quota : (t.ctx n c).quotaOver = false

/-- A step of a core whose running context has a bundle that has issued runs the instruction of the slot at which the bundle
stands, the core's clock having run (R31, R43, log 1). A step of a core whose running context stands at a bundle that can issue
and makes no request issues it and runs the instruction of its first slot (R31, R42, R82). The words that stand at the program
counter decode to the bundle that the context reaches: the writes that are due become visible (R39), and the latch holds the
registers as they then stand (R42). -/
def Obligations.StepRunsTheDecodedInstruction : Prop :=
  (∀ (s : State) (n c : Nat) (b : Bundle) (p : Placed), s.agenda = [] → s.actor = .core n → GoesOn (turnOf s n) n c →
     ((turnOf s n).ctx n c).bundle = some b → b.stage = .issued → b.here = some p →
     step s = exec p.word.instr ((turnOf s n).spend n)) ∧
  (∀ (s : State) (n c : Nat) (b : Bundle) (p : Placed) (ps : List Placed), s.agenda = [] → s.actor = .core n →
     GoesOn (turnOf s n) n c → ((turnOf s n).ctx n c).bundle = some b →
     (turnOf s n).boundaryEvent n c ((turnOf s n).ctx n c) = none → ((turnOf s n).ctx n c).lacks.none = true →
       b.stage = .asking → b.slots = p :: ps → b.cur = 0 →
     ((turnOf s n).spend n).verdict n c b = .issue none → b.nextAsk none = none → b.blocksFirst = false →
     step s = exec p.word.instr (((turnOf s n).spend n).issueBundle n c b none)) ∧
  (∀ (s u : State) (n c : Nat) (a : DWord) (ws : List Word) (ps : List Placed), (s.ctx n c).pc = .at a → a.toNat % 4 = 0 →
     State.fetchWords n c 8 s a [] = .words u ws →
     checkBundle (u.ctx n c).task.hdr (u.ctx n c).ctl ws = .ok ps → ((u.ctx n c).missing (wordInstrs ws)).none = true →
     (u.ctx n c).frozen = false →
     ∃ t, s.begin n c = .bundle t ps ∧
       ∃ b, (t.ctx n c).bundle = some b ∧ b.addr = a ∧ b.size = ws.length ∧ b.slots = ps ∧ b.stage = .asking ∧
         b.latch.regs = (u.ctx n c).settle.regs ∧ b.latch.ctl = (u.ctx n c).ctl ∧
         (t.ctx n c).regs = (u.ctx n c).settle.regs)

/-- A run of words is a bundle: no class is reserved, its EXT words stand before slots that they can join, S stands on the last
of four words or more, its slots are within the limits of every class, and no two of them write one register (R19, R27, R29,
R30). -/
def Sys2Proof.wellFormedBundle (ws : List Word) (rs : List RawSlot) : Prop :=
  (∀ w ∈ ws, wordClass w < 6) ∧ rawSlots 0 ws = some rs ∧ 4 ≤ ws.length ∧ (∃ w, ws.getLast? = some w ∧ wordStop w = true) ∧
    classLimits rs = true ∧ extsOk rs = true ∧ doubleWrite (bundleWrites rs) = false

/-- A slot whose guard is false has no effect: of every instruction of the operation table, the bundle alone goes on to its next
slot (R20). -/
def Obligations.FalseGuardHasNoEffect : Prop :=
  ∀ (i : Instr) (s : State) (e : Env), isSlot i = true → s.env = some e → e.b.latch.guard e.p.word = false →
    exec i s = .next (s.advance e)

/-- The pending writes that become visible at the next bundle. -/
def Sys2Proof.dueOf (x : Ctx) : List PWrite := x.pend.filter fun w => decide (w.due ≤ x.count) && w.ready && !w.failed

/-- A value after the writes that become visible at the next bundle: that of the last issued of those that write it, as `g`
reads them, else its old one. -/
def Sys2Proof.becomes {α : Type} (x : Ctx) (g : RegWrite →
  Option α) (old : α) : α := (((dueOf x).filterMap fun w => g w.dest).getLast?).getD old

/-- The value that a write gives to a scalar register. -/
def Sys2Proof.givesS (n : Nat) (w : RegWrite) : Option DWord := match w with | .s m v => if m = n then some v else none | _ => none

/-- The value that a write gives to an event register. -/
def Sys2Proof.givesEs (n : Nat) (w : RegWrite) : Option DWord := match w with | .es m v => if m = n then some v else none | _ => none

/-- The value that a write gives to a bit of p. -/
def Sys2Proof.givesP (n : Nat) (w : RegWrite) : Option Bool := match w with | .p m b => if m = n then some b else none | _ => none

/-- The value that a write gives to a bit of q. -/
def Sys2Proof.givesQ (n : Nat) (w : RegWrite) : Option Bool := match w with | .q m b => if m = n then some b else none | _ => none

/-- The value that a write gives to bit j of lane i of a vector register: one of whole lanes, or one of some bits of them. -/
def Sys2Proof.givesV (n i j : Nat) (w : RegWrite) : Option Bool :=
  match w with
  | .v m sel v => if m = n ∧ sel.getLsbD i = true then some ((lane v i).getLsbD j) else none
  | .vBits m bits sel v => if m = n ∧ sel.getLsbD i = true ∧ bits.getLsbD j = true then some ((lane v i).getLsbD j) else none
  | _ => none

/-- The value that a write gives to bit i of a mask register. -/
def Sys2Proof.givesM (n i : Nat) (w : RegWrite) : Option Bool :=
  match w with | .m m sel v => if m = n ∧ sel.getLsbD i = true then some (v.getLsbD i) else none | _ => none

/-- The value that a write gives to a matrix parameter register. -/
def Sys2Proof.givesMp (n : Nat) (w : RegWrite) : Option DWord := match w with | .mp m v => if m = n then some v else none | _ => none

/-- The value that a write gives to a stream register. -/
def Sys2Proof.givesSt (n : Nat) (w : RegWrite) : Option Stream := match w with | .st m v => if m = n then some v else none | _ => none

/-- The lane flags DIVZ, STAG and CONV that a write gives. -/
def Sys2Proof.givesXa (w : RegWrite) : Option (Mask × Mask × Mask) := match w with | .xa d s c => some (d, s, c) | _ => none

/-- The grammar mask that a write gives. -/
def Sys2Proof.givesGrammar (w : RegWrite) : Option (Option (DWord × BitVec 32)) := match w with | .grammar m => some m | _ => none

/-- The PATH that a write gives. -/
def Sys2Proof.givesPath (w : RegWrite) : Option DWord := match w with | .path v => some v | _ => none

/-- A write becomes visible at its bundle and not before: of several that become visible at one bundle the last issued is kept,
in every lane of a vector register, and every bit of a lane and of a mask, separately: this of the scalar and event registers,
the predicates of p and q, the vector and mask registers, the matrix parameters, the streams, the lane flags of the
extrapolation state, the grammar mask and PATH; a register that no due write names keeps its value; and writes that are not due
stay pending (R39, R41). The end of a bundle that no transfer, loop end or slot of its own redirects: the next one is the bundle
that follows, the bundle is counted, and nothing that its slots left in the pending-write queue is lost (R31, R39). -/
def Obligations.DueWritesBecomeVisible : Prop :=
  (∀ x : Ctx,
     (∀ n, mget 0 x.settle.regs.s n = becomes x (givesS n) (mget 0 x.regs.s n)) ∧
     (∀ n, mget 0 x.settle.regs.es n = becomes x (givesEs n) (mget 0 x.regs.es n)) ∧
     (∀ n, n < 8 → x.settle.regs.p.getLsbD n = becomes x (givesP n) (x.regs.p.getLsbD n)) ∧
     (∀ n, n < 8 → x.settle.regs.q.getLsbD n = becomes x (givesQ n) (x.regs.q.getLsbD n)) ∧
     (∀ n i j, i < 1024 → j < 32 → (lane (mget [] x.settle.regs.v n) i).getLsbD j
       = becomes x (givesV n i j) ((lane (mget [] x.regs.v n) i).getLsbD j)) ∧
     (∀ n i, i < 1024 → (mget 0 x.settle.regs.m n).getLsbD i = becomes x (givesM n i) ((mget 0 x.regs.m n).getLsbD i)) ∧
     (∀ n, mget 0 x.settle.regs.mp n = becomes x (givesMp n) (mget 0 x.regs.mp n)) ∧
     (∀ n, mget {} x.settle.units.st n = becomes x (givesSt n) (mget {} x.units.st n)) ∧
     (x.settle.units.xa.divz, x.settle.units.xa.stag, x.settle.units.xa.conv)
       = becomes x givesXa (x.units.xa.divz, x.units.xa.stag, x.units.xa.conv) ∧
     x.settle.units.cand.mask = becomes x givesGrammar x.units.cand.mask ∧
     x.settle.units.cand.path = becomes x givesPath x.units.cand.path ∧
     x.settle.pend = x.pend.filter (fun w => !(decide (w.due ≤ x.count) && w.ready)) ∧
     x.settle.ctl = x.ctl ∧ x.settle.cnt = x.cnt ∧ x.settle.loops = x.loops ∧ x.settle.count = x.count) ∧
  (∀ (s : State) (n c : Nat) (x : Ctx) (b : Bundle), s.ctx? n c = some x → x.bundle = some b → b.acts = [] →
     b.transfer = none → x.actionDue = false → x.leg.draining = false → x.loops.lastAt b.addr = none →
     OnlyCtx n c s (s.finish n c) ∧
     ∃ y, (s.finish n c).ctx? n c = some y ∧ y.pc = .at b.next ∧ y.count = x.count + 1 ∧ y.bundle = none ∧
       y.regs = x.regs ∧ y.pend = x.pend ∧ y.loops = x.loops ∧ y.cnt = x.cnt ∧ y.units = x.units ∧
       { y.ctl with eused := x.ctl.eused } = x.ctl)

/-- The larger or lesser of two scalars as numbers (R97). -/
def Sys2Proof.pickBy (unsigned least : Bool) (a b : DWord) : DWord :=
  let lt := if unsigned then decide (a.toNat < b.toNat) else decide (a.toInt < b.toInt)
  if lt = least then a else b

/-- The value that an integer instruction writes, computed from its operands as the spec's tables say, with its visibility
distance (R97, R100). -/
def Sys2Proof.integerRow (e : Env) : Instr → Option (Fields × Nat × DWord)
  | .add f => some (f, 1, BitVec.ofNat 64 ((e.sA f).toNat + (e.sB f).toNat))
  | .sub f => some (f, 1, BitVec.ofInt 64 ((e.sA f).toInt - (e.sB f).toInt))
  | .mul f => some (f, 3, BitVec.ofNat 64 ((e.sA f).toNat * (e.sB f).toNat))
  | .mulh f => some (f, 3, if f.md then BitVec.ofNat 64 ((e.sA f).toNat * (e.sB f).toNat / 2 ^ 64)
      else BitVec.ofInt 64 ((e.sA f).toInt * (e.sB f).toInt / 2 ^ 64))
  | .andS f => some (f, 1, e.sA f &&& e.sB f)
  | .orS f => some (f, 1, e.sA f ||| e.sB f)
  | .xorS f => some (f, 1, e.sA f ^^^ e.sB f)
  | .andn f => some (f, 1, e.sA f &&& ~~~e.sB f)
  | .shl f => some (f, 1, BitVec.ofNat 64 ((e.sA f).toNat * 2 ^ ((e.sB f).toNat % 64)))
  | .shr f => some (f, 1, BitVec.ofNat 64 ((e.sA f).toNat / 2 ^ ((e.sB f).toNat % 64)))
  | .sar f => some (f, 1, BitVec.ofInt 64 ((e.sA f).toInt / 2 ^ ((e.sB f).toNat % 64)))
  | .minS f => some (f, 1, pickBy f.md true (e.sA f) (e.sB f))
  | .maxS f => some (f, 1, pickBy f.md false (e.sA f) (e.sB f))
  | .sext f => some (f, 1, ((e.sA f).setWidth ((e.sB f).toNat % 64 + 1)).signExtend 64)
  | .zext f => some (f, 1, ((e.sA f).setWidth ((e.sB f).toNat % 64 + 1)).setWidth 64)
  | .madd f => some (f, 3, BitVec.ofNat 64 ((e.sD f).toNat + (e.sA f).toNat * (e.sB f).toNat))
  | .sel f => some (f, 1, (e.sD f &&& e.sA f) ||| (~~~e.sD f &&& e.sB f))
  | .mov f => some (f, 1, e.sA f)
  | .addi f => some (f, 1, BitVec.ofNat 64 ((e.sA f).toNat + (riValue f).toNat))
  | .andi f => some (f, 1, e.sA f &&& riValue f)
  | .ori f => some (f, 1, e.sA f ||| riValue f)
  | .xori f => some (f, 1, e.sA f ^^^ riValue f)
  | .shli f => some (f, 1, BitVec.ofNat 64 ((e.sA f).toNat * 2 ^ ((riValue f).toNat % 64)))
  | .shri f => some (f, 1, BitVec.ofNat 64 ((e.sA f).toNat / 2 ^ ((riValue f).toNat % 64)))
  | .sari f => some (f, 1, BitVec.ofInt 64 ((e.sA f).toInt / 2 ^ ((riValue f).toNat % 64)))
  | .li f => some (f, 1, i11Value f)
  | _ => none

/-- `div` and `rem` (R98): for B not 0 the quotient is truncated toward zero, the remainder takes the sign of A or is 0, and
both are written modulo 2^64 at distance 20; for B = 0 DIV0 is raised, nothing is written, and TADDR stays. -/
def Obligations.DivisionResults : Prop :=
  ∀ (s : State) (e : Env) (f : Fields), Runs s e →
    (e.sB f = 0 →
      exec (.div f) s = .next (s.slotTrap e e.p.pos 0x11 e.x.ctl.taddr) ∧
      exec (.rem f) s = .next (s.slotTrap e e.p.pos 0x11 e.x.ctl.taddr)) ∧
    (e.sB f ≠ 0 → ∃ a b q r : Int,
      a = (if f.md then ((e.sA f).toNat : Int) else (e.sA f).toInt) ∧
      b = (if f.md then ((e.sB f).toNat : Int) else (e.sB f).toInt) ∧
      a = b * q + r ∧ r.natAbs < b.natAbs ∧ (0 ≤ a → 0 ≤ r) ∧ (a < 0 → r ≤ 0) ∧
      exec (.div f) s = .next ((s.setCtx e.n e.c (e.x.putS e.b.latch f.d 20 (BitVec.ofInt 64 q))).advance e) ∧
      exec (.rem f) s = .next ((s.setCtx e.n e.c (e.x.putS e.b.latch f.d 20 (BitVec.ofInt 64 r))).advance e))

/-- The compares and the predicate logic, with their opcode and the predicate that each writes (R99). -/
def Sys2Proof.predicateRow (e : Env) : Instr → Option (Fields × Nat × Bool)
  | .cmpEq f => some (f, 0x18, decide ((e.sA f).toNat = (e.sB f).toNat))
  | .cmpNe f => some (f, 0x19, decide ((e.sA f).toNat ≠ (e.sB f).toNat))
  | .cmpLt f => some (f, 0x1A,
      if f.md then decide ((e.sA f).toNat < (e.sB f).toNat) else decide ((e.sA f).toInt < (e.sB f).toInt))
  | .cmpLe f => some (f, 0x1B,
      if f.md then decide ((e.sA f).toNat ≤ (e.sB f).toNat) else decide ((e.sA f).toInt ≤ (e.sB f).toInt))
  | .plogAnd f => some (f, 0x1C, e.b.latch.p f.a.toNat && e.b.latch.p f.b.toNat)
  | .plogAndn f => some (f, 0x1C, e.b.latch.p f.a.toNat && !e.b.latch.p f.b.toNat)
  | _ => none

/-- The compares and the predicate logic have the opcodes of R99 in class S, and their D names one of the predicates 0 to 15, as
A and B do in `plog`; each that acts completes, its truth value a pending write of predicate D at distance 1; and three
`plog.andn` in three bundles make an OR. -/
def Obligations.ComparesAndPredicates : Prop :=
  (∀ (i : Instr) (s : State) (e : Env) (f : Fields) (op : Nat) (v : Bool), predicateRow e i = some (f, op, v) →
    (∃ o, entry i = some (f, o) ∧ o.cls = 0 ∧ o.op = op) ∧
    (fieldsOk i = true → f.d.toNat < 16 ∧ ((i = .plogAnd f ∨ i = .plogAndn f) → f.a.toNat < 16 ∧ f.b.toNat < 16) ∧
      (i = .plogAnd f → f.md = false) ∧ (i = .plogAndn f → f.md = true)) ∧
    (Runs s e → exec i s = .next ((s.setCtx e.n e.c (e.x.putP f.d 1 v)).advance e))) ∧
  ∀ a b : Bool, let t := true && !a; (true && !(t && !b)) = (a || b)

/-- The compares with an immediate (R100). -/
def Sys2Proof.immediateRow (e : Env) : Instr → Option (Fields × Bool)
  | .cmpiEq f => some (f, decide ((e.sA f).toInt = (riValue f).toInt))
  | .cmpiLt f => some (f, decide ((e.sA f).toInt < (riValue f).toInt))
  | _ => none

/-- Every integer instruction that acts completes: its value becomes a pending write of sD at its distance, and its bundle goes
on (R39, R97, R100). `clz`, `ctz` and `popc` count leading zero bits, trailing zero bits and one bits; of 0 the first two count
64 (R97). `cmpi.eq` and `cmpi.lt` compare with the immediate, as signed numbers (R100). -/
def Obligations.IntegerResults : Prop :=
  (∀ (i : Instr) (s : State) (e : Env) (f : Fields) (l : Nat) (v : DWord), Runs s e → integerRow e i = some (f, l, v) →
     exec i s = .next ((s.setCtx e.n e.c (e.x.putS e.b.latch f.d l v)).advance e)) ∧
  (∀ (s : State) (e : Env) (f : Fields), Runs s e →
     (∃ k : Nat, k ≤ 64 ∧ (∀ j, j < k → (e.sA f).getLsbD (63 - j) = false) ∧
       (k < 64 → (e.sA f).getLsbD (63 - k) = true) ∧
       exec (.clz f) s = .next ((s.setCtx e.n e.c (e.x.putS e.b.latch f.d 1 (BitVec.ofNat 64 k))).advance e)) ∧
     (∃ k : Nat, k ≤ 64 ∧ (∀ j, j < k → (e.sA f).getLsbD j = false) ∧ (k < 64 → (e.sA f).getLsbD k = true) ∧
       exec (.ctz f) s = .next ((s.setCtx e.n e.c (e.x.putS e.b.latch f.d 1 (BitVec.ofNat 64 k))).advance e)) ∧
     exec (.popc f) s = .next ((s.setCtx e.n e.c (e.x.putS e.b.latch f.d 1
       (BitVec.ofNat 64 ((List.range 64).filter fun j => (e.sA f).getLsbD j).length))).advance e)) ∧
  (∀ (i : Instr) (s : State) (e : Env) (f : Fields) (v : Bool), Runs s e → immediateRow e i = some (f, v) →
     exec i s = .next ((s.setCtx e.n e.c (e.x.putP f.d 1 v)).advance e))

/-- An integer, compare or predicate instruction, or a read of a control register or of time. -/
def Sys2Proof.isRegisterSlot (e : Env) (i : Instr) : Bool :=
  (integerRow e i).isSome || (predicateRow e i).isSome || (immediateRow e i).isSome ||
    match i with | .nop | .clz _ | .ctz _ | .popc _ | .div _ | .rem _ | .mfc _ | .gtime _ | .ccyc _ => true | _ => false

/-- The control transfers (R101, R102): a branch to an aligned target becomes the bundle's transfer, with the link of `call` and
`callr` pending; one to a target that is not a multiple of 4 raises MISALIGN with the target in TADDR; and after a transfer that
acted every later one of the bundle does nothing. -/
def Obligations.BranchesTransfer : Prop :=
  ∀ (s : State) (e : Env) (f : Fields), Runs s e →
    (∀ (i : Instr) (target : DWord) (link : Option (BitVec 5)),
      (i, target, link) ∈ [(Instr.br f, e.b.addr + 4 * i16Value f, none), (.brr f, e.sA f, none), (.ret f, e.sA f, none),
        (.call f, e.b.addr + 4 * i16Value f, some 31), (.callr f, e.sA f, some f.d)] →
      e.b.transfer = none →
        (target.toNat % 4 = 0 → exec i s = .next
          ((((match link with
              | some d => s.setCtx e.n e.c (e.x.putS e.b.latch d 1 (e.b.addr + BitVec.ofNat 64 (4 * e.b.size)))
              | none => s)).modBundle e.n e.c fun b => { b with transfer := some (.at target) }).advance e)) ∧
        (target.toNat % 4 ≠ 0 → exec i s = .next (s.slotTrap e e.p.pos 0x08 target))) ∧
    (e.b.transfer ≠ none → ∀ i ∈ [Instr.br f, .brr f, .ret f, .call f, .callr f, .loop f, .loopp f, .lexit f],
      exec i s = .next (s.advance e))

/-- The loops after pass `j` of a pipelined loop, and the stage predicates that it writes. -/
def Sys2Proof.passesOf (l : Loops) (n : Nat) : Nat → Loops × List (Nat × Bool)
  | 0 => l.passStart n
  | j + 1 => (passesOf l n j).1.passStart n

/-- `loop` and `loopp` (R104): the loops that must end do, the counter takes the count, and the loop starts; a pipelined one
starts its first pass, in which q1 alone of its stage predicates is true and COUNT falls by one; a loop of count 0, plain or
pipelined, is passed over; STAGES 0 raises ILLEGAL_OPERAND before any change. `lexit` (R106) ends an active loop and those
started after it, its COUNT becomes 0, and the bundle after its last is next; of a loop that is not active it raises RESOURCE. A
pipelined loop of count N and S stages: in pass j the stage predicate q_i is true exactly when 0 ≤ j − (i − 1) < N, so that a
stage is active up to pass N + S − 2 and none after it (R104, R105). A plain loop at the end of its last bundle: COUNT falls by
one; while it is not 0 the body begins again, and when it is 0 the loop is over (R105). A COUNT of 0 falls to 2^32 − 1 (the
model's reading, log 61). A pipelined loop at the end of its last bundle (R104, R105), while no action is due: the next pass
starts, with a stage more while COUNT is not 0, which then falls by one, and the stage predicates are written; while some stage
is active the body begins again, and when none is the loop is over. -/
def Obligations.HardwareLoops : Prop :=
  (∀ (s : State) (e : Env) (f : Fields), Runs s e → e.b.transfer = none →
     let c := if f.a = 0 then e.x.loops.counter f.d.toNat else e.sA f
     let stop := e.b.addr + 4 * riValue f
     (exec (.loop f) s =
       let l := (e.x.loops.endFrom f.d.toNat).setCounter f.d.toNat c
       let y : LoopState := { l.get f.d.toNat with
         start := e.b.next, stop := stop, pipe := false, order := e.x.loops.nextOrder, active := decide (countOf c ≠ 0) }
       .next (((s.setCtx e.n e.c { e.x with loops := l.set f.d.toNat y }).modBundle e.n e.c fun b =>
         { b with transfer := some (if countOf c = 0 then .after stop else .at e.b.next) }).advance e)) ∧
     (stagesOf c = 0 → exec (.loopp f) s = .next (s.slotTrap e e.p.pos 0x04 e.slotAddr)) ∧
     (stagesOf c ≠ 0 → exec (.loopp f) s =
       let l := e.x.loops.endFrom f.d.toNat
       let y : LoopState := { l.get f.d.toNat with
         start := e.b.next, stop := stop, pipe := true, order := e.x.loops.nextOrder, drain := false
         active := decide (countOf c ≠ 0), q := if countOf c = 0 then 0 else 1 }
       let l := (l.set f.d.toNat y).setCounter f.d.toNat (if countOf c = 0 then c else withCount c (countOf c - 1))
       let qs := (List.range (stagesOf c)).map fun i => (i + 1, decide (i = 0 ∧ countOf c ≠ 0))
       .next (((s.setCtx e.n e.c ({ e.x with loops := l }.putQs qs)).modBundle e.n e.c fun b =>
         { b with transfer := some (if countOf c = 0 then .after stop else .at e.b.next) }).advance e)) ∧
     ((e.x.loops.get f.d.toNat).active = false → exec (.lexit f) s = .next (s.slotTrap e e.p.pos 0x05 e.slotAddr)) ∧
     ((e.x.loops.get f.d.toNat).active = true → exec (.lexit f) s =
       let x := e.x.loops.get f.d.toNat
       let k := e.x.loops.counter f.d.toNat
       let qs := if x.pipe then (List.range (stagesOf k)).map fun i => (i + 1, false) else []
       let l := (e.x.loops.endFrom f.d.toNat).setCounter f.d.toNat (withCount k 0)
       .next (((s.setCtx e.n e.c ({ e.x with loops := l }.putQs qs)).modBundle e.n e.c fun b =>
         { b with transfer := some (.after x.stop) }).advance e))) ∧
  (∀ (l : Loops) (n N S : Nat), n < 4 → countOf (l.counter n) = N →
     stagesOf (l.counter n) = S → 1 ≤ S → (l.get n).q = 0 → (l.get n).drain = false →
     ∀ j, (passesOf l n j).2 = (List.range S).map (fun i => (i + 1, decide (i ≤ j ∧ j - i < N))) ∧
       (((passesOf l n j).1.get n).q = 0 ↔ (N = 0 ∨ N + S - 1 ≤ j))) ∧
  (∀ (l : Loops) (n : Nat) (a : DWord), n < 4 →
     (l.get n).active = true → (l.get n).pipe = false → (l.get n).stop = a →
     (∀ m, m ≠ n → ¬((l.get m).active = true ∧ (l.get m).stop = a)) →
     let r := l.endOf a false false
     countOf (r.loops.counter n) = (if countOf (l.counter n) = 0 then 2 ^ 32 - 1 else countOf (l.counter n) - 1) ∧
     (countOf (l.counter n) ≠ 1 → r.next = some (l.get n).start ∧ (r.loops.get n).active = true) ∧
     (countOf (l.counter n) = 1 → r.next = none ∧ (r.loops.get n).active = false) ∧
     r.qs = [] ∧ (∀ m, m ≠ n → r.loops.counter m = l.counter m ∧ r.loops.get m = l.get m)) ∧
  (∀ (l : Loops) (n : Nat) (a : DWord), n < 4 →
     (l.get n).active = true → (l.get n).pipe = true → (l.get n).drain = false → (l.get n).stop = a →
     (∀ m, m ≠ n → ¬((l.get m).active = true ∧ (l.get m).stop = a)) →
     let r := l.endOf a false false
     let N := countOf (l.counter n)
     let S := stagesOf (l.counter n)
     let q := (2 * (l.get n).q.toNat + (if N = 0 then 0 else 1)) % 2 ^ S
     r.qs = (List.range S).map (fun i => (i + 1, q.testBit i)) ∧
     countOf (r.loops.counter n) = N - 1 ∧ stagesOf (r.loops.counter n) = S ∧
     (r.loops.get n).q.toNat = q ∧ (r.loops.get n).active = decide (q ≠ 0) ∧
     r.next = (if q = 0 then none else some (l.get n).start) ∧
     (∀ m, m ≠ n → r.loops.counter m = l.counter m ∧ r.loops.get m = l.get m))

/-- Among the transfer slots of a bundle whose guards are true only the first acts: every later one acts as if its guard were
false, and a bundle in which one acted ends no loop iteration (R102); where it leads on, its target is the next bundle. -/
def Obligations.OnlyTheFirstTransferActs : Prop :=
  (∀ (s : State) (e : Env) (f : Fields), Runs s e → e.b.transfer ≠ none →
    ∀ i ∈ [Instr.br f, .brr f, .call f, .callr f, .ret f, .loop f, .loopp f, .lexit f],
      exec i s = .next (s.advance e)) ∧
  ∀ (s : State) (n c : Nat) (x : Ctx) (b : Bundle) (p : NextPc), s.ctx? n c = some x → x.bundle = some b →
    b.transfer = some p → EndAct.rfe ∉ b.acts → EndAct.rfu ∉ b.acts →
    (∀ y, (s.finish n c).ctx? n c = some y → y.loops = x.loops) ∧
    (b.acts = [] → ∃ y, (s.finish n c).ctx? n c = some y ∧ y.loops = x.loops ∧ y.pc = p)

/-- `trap v` and `sys v` (R269): their words are 0x09800000 and 0x09A00000 with imm16, whose sign-extended value is v; `trap`
raises TRAP (0x21) and `sys` SYS (0x20); TADDR is v; the slot has committed, so RESUME is k + 1, or 8 after the last slot; and
with a frame live, as it is while a handler runs, or with PRIV 1, the trap is a double one and ends the task. -/
def Obligations.TrapAndSysRaise : Prop :=
  (∀ v : BitVec 16, ∃ f g : Fields,
    decodeSlot [0x09800000 + v.setWidth 32] = .ok (⟨false, false, false, 0, .trap f⟩, []) ∧ i16Value f = v.signExtend 64 ∧
    decodeSlot [0x09A00000 + v.setWidth 32] = .ok (⟨false, false, false, 0, .sys g⟩, []) ∧ i16Value g = v.signExtend 64) ∧
  (∀ (s : State) (e : Env) (f : Fields), Runs s e →
    let resume := if e.b.cur + 1 < e.b.slots.length then e.p.pos + 1 else 8
    exec (.trap f) s = .next (s.slotTrap e resume 0x21 (i16Value f)) ∧
    exec (.sys f) s = .next (s.slotTrap e resume 0x20 (i16Value f))) ∧
  ∀ (s : State) (n c : Nat) (t : TrapInfo),
    (s.ctx n c).frame ≠ none ∨ ((t.cause = 0x20 ∨ t.cause = 0x21) ∧ (s.ctx n c).ctl.priv = true) →
    ∃ u, s.enterTrap n c t = State.endTask u n c true

/-- A comparison that finds a difference raises CMPTRAP with TADDR 0, and one that finds none does nothing (R122); `wait.cnt`
does nothing once its bundle issues, but for a loss recorded in CNTRM, which it clears and raises as REMOTE_FAIL at the address
of the first operation lost (R117, R118). A bundle does not issue while an acting `wait.cnt` of it finds COUNT above max(0, A +
v), taken as signed (R117), nor while its acting slots would raise CNTST or CNTRM above 256 (R116): a store or an atomic adds 1
to CNTST where a place of it is no peer's and 1 to CNTRM where one is, a `ckpt.seal` or `ckpt.diff` whose request is not
answered 1 to CNTRM, `cf.spill` what its images add, and any other slot nothing (R112, R114, R289, R344). A slot whose guard is
false adds nothing. -/
def Obligations.ChecksPassOrTrap : Prop :=
  (∀ (s : State) (e : Env) (f : Fields), Runs s e →
     (e.sA f = e.sB f → exec (.cmptrap f) s = .next (s.advance e)) ∧
     (e.sA f ≠ e.sB f → exec (.cmptrap f) s = .next (s.slotTrap e e.p.pos 0x12 0)) ∧
     (e.vecA f = e.vecB f → exec (.cmptrapV f) s = .next (s.advance e)) ∧
     (e.vecA f ≠ e.vecB f → exec (.cmptrapV f) s = .next (s.slotTrap e e.p.pos 0x12 0)) ∧
     ((e.x.cnt.loss = none ∨ f.d ≠ 1) → exec (.waitCnt f) s = .next (s.advance e)) ∧
     (∀ a, e.x.cnt.loss = some a → f.d = 1 → exec (.waitCnt f) s = .next
       ((s.setCtx e.n e.c { e.x with cnt := { e.x.cnt with loss := none } }).slotTrap e e.p.pos 0x0B a)) ∧
     exec .nop s = .next (s.advance e)) ∧
  ((∀ (s : State) (n c : Nat) (b : Bundle) (p : Placed) (f : Fields), b.reentry = false → p ∈ b.slots.drop b.cur →
     b.latch.guard p.word = true → p.word.instr = .waitCnt f → f.d.toNat ≤ 2 →
     max 0 (b.latch.s f.a + riValue f).toInt < ((s.ctx n c).cnt.get f.d.toNat : Int) → s.verdict n c b ≠ .issue none) ∧
   (∀ (s : State) (n c : Nat) (b : Bundle), b.reentry = false →
     let x := s.ctx n c
     let adds := ((b.slots.drop b.cur).filter fun p => b.latch.guard p.word).map (s.slotCounts n x b)
     let st := (adds.map (·.1)).sum
     let rm := (adds.map (·.2)).sum
     (0 < st ∧ 256 < x.cnt.st + st) ∨ (0 < rm ∧ 256 < x.cnt.rm + rm) → s.verdict n c b ≠ .issue none) ∧
   (∀ (s : State) (n : Nat) (x : Ctx) (k : AccessKind) (a : DWord) (size : Nat),
     (∀ e, s.places n x k a size = .error e → s.accessCounts n x k a size = (0, 0)) ∧
     ∀ t ps, s.places n x k a size = .ok (t, ps) → s.accessCounts n x k a size =
       (if ∃ q ∈ ps, q.1.remote = false then 1 else 0, if ∃ q ∈ ps, q.1.remote = true then 1 else 0)) ∧
   ∀ (s : State) (n : Nat) (x : Ctx) (b : Bundle) (p : Placed) (f : Fields),
     (∀ k a size, memAccess b.latch p.word.instr = some (k, a, size) →
       s.slotCounts n x b p = if k = .load then (0, 0) else s.accessCounts n x k a size) ∧
     (p.word.instr ∈ [Instr.ckptSeal f, .ckptDiff f] →
       s.slotCounts n x b p = if tget b.answers p.pos = none then (0, 1) else (0, 0)) ∧
     (p.word.instr = .cfSpill f →
       let image (i : Nat) := s.accessCounts n x .store (b.latch.s f.a + BitVec.ofNat 64 (1024 * i)) 1024
       let is := List.range (min 128 (b.latch.s f.b).toNat)
       s.slotCounts n x b p = ((is.map fun i => (image i).1).sum, (is.map fun i => (image i).2).sum)) ∧
     (memAccess b.latch p.word.instr = none → (∀ g, p.word.instr ∉ [Instr.ckptSeal g, .ckptDiff g, .cfSpill g]) →
       s.slotCounts n x b p = (0, 0)))

/-- The frame header of a trap, from FSTATUS on (R264): STATUS, CAUSE, TADDR, TBUN, RESUME, LIVE, NPEND and PHASEK. -/
def Sys2Proof.headerOf (k : Core) (x : Ctx) (t : TrapInfo) (split : Bool) : List Byte :=
  wordLe 8 (((x.ctl.status &&& 0x70).setWidth 64 ||| BitVec.ofNat 64 (8 * split.toNat + t.slot))
      ||| (if (k.slotmap &&& k.pwrmask) = 0x1FF then 0 else 0x80))
    ++ wordLe 8 (t.cause.setWidth 64) ++ wordLe 8 t.taddr ++ wordLe 8 t.tbun
    ++ [BitVec.ofNat 8 t.resume, BitVec.ofNat 8 (x.frame.isSome.toNat + 4 * t.noissue.toNat), 0, 0] ++ natLe 4 x.npend
    ++ natLe 8 x.buf.k

/-- A trap that ends its task (R265, R269): one with a frame live, and `sys` or `trap` with PRIV 1. -/
def Sys2Proof.isDouble (x : Ctx) (t : TrapInfo) : Bool := x.frame.isSome || ((t.cause = 0x20 || t.cause = 0x21) && x.ctl.priv)

/-- Taking a trap (R265). The header is stored to the save area, after the core's earlier stores, with the word of a routine
error at 1,408 (R221). With a handler set and no double trap, CAUSE, TADDR and TBUN are written; STATUS holds RSLOT and SPLIT
with PRIV 1, EVTEN 0 and INEVT 0; the bundle, the pending writes and the loops are frozen in the core's own copy; the handler's
address is next; and the save area holds the header, LIVE[0] in it, and the word, where its blocks are in the memory map (R354).
Registers, counters, accumulators, streams and every other context stay, as far as the stores of the core that take their places
meanwhile leave them. With no handler, or at a double trap (R269), the task ends, and its save area takes the same stores and
regions behind the core's earlier accesses, which nothing orders (R358). The regions of the save area whose layout the spec does
not give take free bytes (log 8); the core's own copy, and how an ending task's save area is written, are log 46; addresses of
the save area are taken modulo the size of memory (log 47); DEGRED is that of the core as the trap is taken (log 69). A trap of
a context whose task holds a fine claim on a PROVISIONAL slice goes to no handler (R228): the slice is FAULTED-PROVISIONAL, with
CAUSE, TADDR, TBUN, RSLOT and its start generation recorded, the claim ends, and so does the task. Any other trap is entered as
R265 says. -/
def Obligations.TrapEntry : Prop :=
  (∀ (s : State) (n c : Nat) (x : Ctx) (t : TrapInfo), s.ctx? n c = some x → t.slot < 8 →
     let split := x.bundle.any (fun b => b.split) && !t.noissue
     let header := headerOf (s.core n) x t split
     let frame := [(8, header)] ++ t.word.toList.map fun w => (0x580, natLe 8 w)
     let handler : DWord := leWord 64 ((s.placeAll n).peek (x.saveAt 0) 8)
     (isDouble x t = false → handler ≠ 0 →
       SameCores (s.setCtx n c { x with
           ctl := { x.ctl with
             cause := t.cause, taddr := t.taddr, tbun := t.tbun, status := BitVec.ofNat 7 (16 + 8 * split.toNat + t.slot) }
           frame := some { bundle := if t.noissue then none else x.bundle, pend := x.pend, count := x.count,
                           loops := x.loops, noissue := t.noissue, next := .after t.tbun }
           loops := { x.loops with state := [] }, bundle := none, pend := [], pc := .at handler })
         (s.enterTrap n c t) ∧
       (x.ctl.savebase.toNat % 2 ^ 22 = 0 →
         (∀ b, b < 2 ^ 22 → s.ckpt.page (x.saveAt b) = none ∧ s.mem.missing (x.saveAt b) = false) →
         (∀ i h, header[i]? = some h → (s.enterTrap n c t).byte (x.saveAt (8 + i)) = if i = 33 then h ||| 1 else h) ∧
         ∀ w, t.word = some w → ∀ i h, (natLe 8 w)[i]? = some h → (s.enterTrap n c t).byte (x.saveAt (0x580 + i)) = h)) ∧
     (isDouble x t = true ∨ handler = 0 → s.enterTrap n c t = State.endTask ((s.setCtx n c { x with
       ctl := { x.ctl with cause := t.cause, taddr := t.taddr, tbun := t.tbun } }).queueSave n x
         (frame ++ (trapRegions t.word).map fun r => (r.off, r.bytes s.clock))) n c true)) ∧
  (∀ (s : State) (n c : Nat) (t : TrapInfo),
     (∀ h m x, s.claimOf (s.ctx n c).task.uid = some (h, m, x) → x.state = .provisional →
       let u := (s.hearSlices n).faultSlice h m x t.cause t.taddr t.tbun (BitVec.ofNat 3 t.slot)
       s.trap n c t = u.endTask n c true ∧
       ∀ ch, tget s.chains h = some ch → ∃ d, tget u.chains h = some d ∧
         d.slice m = { x with
           state := .faulted, claim := none, due := false
           frec := some { cause := t.cause, taddr := t.taddr, tbun := t.tbun, rslot := BitVec.ofNat 3 t.slot, gen := x.gen
                          coarse := false, delivered := false } } ∧
         ∀ k, k ≠ m → d.slice k = ch.slice k) ∧
     ((∀ h m x, s.claimOf (s.ctx n c).task.uid = some (h, m, x) → x.state ≠ .provisional) →
       s.trap n c t = s.enterTrap n c t))

/-- What `rfe` leaves when its bundle ends (R268), FSTATUS, FTBUN and RESUME read from the save area after the core's earlier
stores: STATUS from FSTATUS, the frame no longer live, and the loops and pending writes that the trap froze. The handler's own
writes that are still pending join them, each with the distance that it has left: R268 is silent on them (log 24). A bundle that
had not issued is issued from FTBUN, or passed over where RESUME is 8. One that had issued is the core's own copy (logs 8 and
46): it is entered again at the first slot that RESUME does not pass; where RESUME is 8, or passes all its slots, or all of them
have committed (R43), its end follows as if its last slot had just committed; and at another FTBUN, or with a RESUME above 8,
the context goes on at FTBUN, and a snapshot that the bundle's `bswap` takes goes on after that bundle (R86, R279). EUSED takes
the charge of the bundle of `rfe` (R276). An FTBUN that is no multiple of 4 and to be used raises MISALIGN on the slot (R29).
With no live frame the task ends. -/
def Obligations.TrapReturn : Prop :=
  ∀ (s : State) (n c : Nat) (x : Ctx) (b0 : Bundle), s.ctx? n c = some x →
    (x.frame = none → s.returnTrap n c b0 = s.endTask n c true) ∧
    ∀ fr, x.frame = some fr →
      let u := s.placeAll n
      let status : DWord := leWord 64 (u.peek (x.saveAt 8) 8)
      let ftbun : DWord := leWord 64 (u.peek (x.saveAt 32) 8)
      let resume := ((u.peek (x.saveAt 40) 1).getD 0 0).toNat
      let live := (u.peek (x.saveAt 41) 1).getD 0 0
      let after (count : Nat) := fr.pend ++ x.pend.map fun w => { w with due := count + (w.due - (x.count + 1)) }
      (resume ≠ 8 → ftbun.toNat % 4 ≠ 0 → s.returnTrap n c b0 = u.trap n c
        { slot := b0.posOf .rfe, resume := b0.posOf .rfe, noissue := false, tbun := b0.addr, cause := 0x08, taddr := ftbun }) ∧
      (resume = 8 ∨ ftbun.toNat % 4 = 0 → ∃ charge : DWord,
        let y := { x with
          ctl := { x.ctl with status := status.setWidth 7, eused := x.ctl.eused + charge }, frame := none, bundle := none
          loops := { x.loops with state := fr.loops.state }, count := fr.count, peerBuf := [], peerBad := none }
        (fr.noissue = true → SameCores (s.setCtx n c { y with
            pc := if resume = 8 then fr.next else .at ftbun, pend := after fr.count }) (s.returnTrap n c b0) ∧
          (s.returnTrap n c b0).byte (x.saveAt 41) = live &&& 0xFE) ∧
        ∀ b, fr.noissue = false → fr.bundle = some b →
          let z := { y with pend := after (fr.count + 1) }
          (∀ k, ftbun = b.addr → resume < 8 → b.cur < b.slots.length → (∃ p, b.slots[k]? = some p ∧ resume ≤ p.pos) →
            (∀ j, j < k → ∀ p, b.slots[j]? = some p → p.pos < resume) →
            SameCores (s.setCtx n c { z with bundle := some { b with
                cur := k, ask := k, stage := .asking, pipeFail := none, reentry := true, popped := max b.popped k
                answers := b.answers.filter fun a => match a.2 with
                  | .value _ | .words _ | .copy _ _ _ _ => true
                  | _ => false } })
              (s.returnTrap n c b0)) ∧
          (resume = 8 ∨ (ftbun = b.addr ∧ resume < 8 ∧ (b.slots.length ≤ b.cur ∨ ∀ p ∈ b.slots, p.pos < resume)) →
            ∃ w, SameCores (s.setCtx n c { z with bundle := some { b with cur := b.slots.length } }) w ∧
              s.returnTrap n c b0 = w.finishRest n c b) ∧
          (resume ≠ 8 → (ftbun ≠ b.addr ∨ 9 ≤ resume) → ∃ (more : DWord) (snap : Option Snapshot),
            SameCores (s.setCtx n c { z with
                pc := .at ftbun, count := fr.count + 1, ctl := { z.ctl with eused := z.ctl.eused + more }
                buf := { z.buf with snap := snap } })
              (s.returnTrap n c b0) ∧
            (EndAct.snap ∉ b.acts → snap = x.buf.snap) ∧
            (EndAct.snap ∈ b.acts →
              ∃ q, snap = some q ∧ q.pc = .at b.next ∧ q.count = fr.count + 1 ∧ q.regs = x.regs ∧ q.loops = z.loops)))

/-- The slots that act when their bundle ends complete (R80, R81, R268, R272): each joins what the bundle makes happen. What
those slots make happen: `exit` ends the task, `rfe` and `rfu` return, and `yield` gives up the core with the context ready;
each slot that fires its gang member adds 1 to FIRES, and the passes of every `er.idle` are to be made before it is ready again
(R80, R81, R255, R256, R268, R272). The end of a task (R80): its pending writes and landings are discarded, it holds no bundle
and no frame, and the core is free for another context; its registers and its trap status are kept for the record of its end. -/
def Obligations.EndsOfBundlesAndTasks : Prop :=
  (∀ (s : State) (e : Env), Runs s e → ∀ (i : Instr) (a : EndAct),
     (i, a) ∈ [(Instr.yield, EndAct.yield), (.exit, .exit), (.rfe, .rfe), (.rfu, .rfu)] →
     exec i s = .next ((s.modBundle e.n e.c fun b => { b with acts := b.acts ++ [a] }).advance e)) ∧
  (∀ (s : State) (n c : Nat) (x : Ctx) (b : Bundle), s.ctx? n c = some x → x.bundle = some b →
     (b.acts = [.exit] → ∃ charge : DWord, s.finish n c =
       (s.modCtx n c fun x => { x with ctl := { x.ctl with eused := x.ctl.eused + charge } }).endTask n c x.frame.isSome) ∧
     (b.acts = [.rfe] → s.finish n c = s.returnTrap n c b) ∧
     (b.acts = [.rfu] → x.pend.all PWrite.ready = true → s.finish n c = s.returnEvent n c b) ∧
     (b.acts = [.yield] → x.actionDue = false → (s.core n).running = some c →
       ((s.finish n c).core n).running = none ∧ ((s.finish n c).core n).last = c ∧
       ∃ y, (s.finish n c).ctx? n c = some y ∧ y.run = x.run ∧ y.regs = x.regs) ∧
     (b.acts ≠ [] → (∀ a ∈ b.acts, a = .yieldEr ∨ ∃ k, a = .erIdle k) → x.task.gslot.isSome = true → x.actionDue = false →
       (s.core n).running = some c →
       let passes : EndAct → Nat := fun a => match a with | .erIdle k => k | _ => 0
       ((s.finish n c).core n).running = none ∧ ((s.finish n c).core n).last = c ∧
       ∃ y, (s.finish n c).ctx? n c = some y ∧ y.fires = x.fires + BitVec.ofNat 32 b.acts.length ∧
         y.run = .edges (b.acts.map passes).sum ∧ y.regs = x.regs)) ∧
  (∀ (s : State) (n c : Nat) (x : Ctx) (trapped : Bool), s.ctx? n c = some x →
     ((s.endTask n c trapped).core n).running ≠ some c ∧
     ∃ y, (s.endTask n c trapped).ctx? n c = some y ∧ y.run = .ended ∧ y.pend = [] ∧ y.bundle = none ∧ y.frame = none ∧
       y.eframe = none ∧ y.deferred = [] ∧ y.trapped = trapped ∧ y.regs = x.regs ∧ y.loops = x.loops ∧ y.task = x.task)

/-- A user event and the return from one (R270, R272): delivery writes EVTSRC and es0, sets INEVT, freezes the pending writes
and continues at EVTVEC; at the return the handler's writes that are still pending become visible in the order of R41, by the
bundle at which they are due and of one bundle by their issue; it clears INEVT, takes up the frozen writes and continues at es0
as the handler left it, with the charge of its bundle in EUSED (R276); an es0 that is no multiple of 4 raises MISALIGN on the
slot (R29). -/
def Obligations.UserEventsAndReturn : Prop :=
  (∀ (s : State) (n c src : Nat) (a : DWord) (x : Ctx), s.ctx? n c = some x → 1 ≤ src → src ≤ 3 →
    OnlyCtx n c s (s.deliver n c src a) ∧
    ∃ y, (s.deliver n c src a).ctx? n c = some y ∧ y.ctl.evtsrc = BitVec.ofNat 8 src ∧
      y.ctl.status = x.ctl.status ||| 0x40 ∧ y.regs = { x.regs with es := mset 0 x.regs.es 0 a } ∧ y.pend = [] ∧
      y.eframe = some ⟨x.pend, x.count⟩ ∧ y.pc = .at x.ctl.evtvec ∧
      (∀ k, k < 3 → y.cnt.fired.getLsbD k = (x.cnt.fired.getLsbD k && decide (k + 1 ≠ src)))) ∧
  (∀ ws : List PWrite, (byDue ws).Perm ws ∧ (byDue ws).Pairwise (fun v w => v.due ≤ w.due) ∧
    ∀ d, (byDue ws).filter (fun w => w.due = d) = ws.filter (fun w => w.due = d)) ∧
  ∀ (s : State) (n c : Nat) (x : Ctx) (fr : EventFrame) (b : Bundle), s.ctx? n c = some x → x.eframe = some fr →
    (∀ w ∈ x.pend, w.failed = false) →
    let y := (byDue x.pend).foldl (fun y w => y.apply w.dest) { x with pend := [] }
    let es0 : DWord := mget 0 y.regs.es 0
    (es0.toNat % 4 = 0 → OnlyCtx n c s (s.returnEvent n c b) ∧ ∃ charge : DWord,
      (s.returnEvent n c b).ctx? n c = some { y with
        ctl := { y.ctl with status := y.ctl.status &&& 0x3F, eused := y.ctl.eused + charge }
        eframe := none, bundle := none, pend := fr.pend, count := fr.count, pc := .at es0 }) ∧
    (es0.toNat % 4 ≠ 0 → s.returnEvent n c b = (s.setCtx n c y).trap n c
      { slot := b.posOf .rfu, resume := b.posOf .rfu, noissue := false, tbun := b.addr, cause := 0x08, taddr := es0 })

/-- The control registers that `mtc` writes with no rule of their own, their value after a write (R124). -/
def Sys2Proof.plainWrite (c : Ctl) (n : Nat) (v : DWord) : Option Ctl :=
  match n with
  | 0x01 => some { c with cause := v.setWidth 8 }
  | 0x02 => some { c with taddr := v }
  | 0x03 => some { c with tbun := v }
  | 0x04 => some { c with evtvec := v &&& 0xFFFFFFFFFFFFFFFC }
  | 0x05 => some { c with evtsrc := v.setWidth 8 }
  | 0x06 => some { c with savebase := v &&& 0xFFFFFFFFFFC00000 }
  | 0x08 => some { c with leglim := v.setWidth 48 }
  | 0x09 => some { c with equota := v }
  | 0x0A => some { c with eused := v }
  | 0x10 => some { c with rngpos := v }
  | _ => none

/-- Writing a control register completes, with the value that the register takes (R93, R124 to R127, R161, R209, R286, R311); a
reserved bit or rounding mode of FMODE, and a value that RNGSRC does not take, raise ILLEGAL_OPERAND and write nothing. STATUS
takes all but DEGRED in system privilege and EVTEN alone in user privilege. A write of XCNT replaces what a buffer phase holds
of it as well. -/
def Obligations.ControlRegisterWrites : Prop :=
  ∀ (s : State) (e : Env) (f : Fields), Runs s e →
    let v := e.sA f
    let put (c : Ctl) : Host.Outcome State Fault Refusal := .next ((s.setCtx e.n e.c { e.x with ctl := c }).advance e)
    (∀ c, plainWrite e.x.ctl f.d.toNat v = some c → exec (.mtc f) s = put c) ∧
    (e.b.latch.ctl.priv = true → exec (.mtcStatus f) s = put { e.x.ctl with status := v.setWidth 7 }) ∧
    (e.b.latch.ctl.priv = false → ∃ st : BitVec 7, (∀ k, k < 7 →
      st.getLsbD k = if k = 5 then v.getLsbD 5 else e.x.ctl.status.getLsbD k) ∧
      exec (.mtcStatus f) s = put { e.x.ctl with status := st }) ∧
    exec (.mtcFflags f) s = put { e.x.ctl with fflags := v.setWidth 5 } ∧
    (v.toNat < 2 ^ 11 → v.getLsbD 3 = false → v.toNat % 8 ≤ 4 →
      exec (.mtcFmode f) s = put { e.x.ctl with fmode := v.setWidth 11 }) ∧
    (2 ^ 11 ≤ v.toNat ∨ v.getLsbD 3 = true ∨ 5 ≤ v.toNat % 8 →
      exec (.mtcFmode f) s = .next (s.slotTrap e e.p.pos 0x04 e.slotAddr)) ∧
    exec (.mtcEmask f) s = put { e.x.ctl with emask := v.setWidth 3 } ∧
    exec (.mtcRngkey f) s = .next ((s.setCtx e.n e.c { e.x with
      rqAhead := 0, ctl := { e.x.ctl with rngkey := v, qpos := 0 } }).advance e) ∧
    (rngsrcOk v = true → exec (.mtcRngsrc f) s = put { e.x.ctl with rngsrc := v }) ∧
    (rngsrcOk v = false → exec (.mtcRngsrc f) s = .next (s.slotTrap e e.p.pos 0x04 e.slotAddr)) ∧
    exec (.mtcTbudget f) s = put { e.x.ctl with tbudget := BitVec.ofInt 32 (max 0 (min v.toInt 0xFFFFFFFF)) } ∧
    exec (.mtcXcnt f) s = .next ((s.setCtx e.n e.c { e.x with
      ctl := { e.x.ctl with xcnt := v }, buf := { e.x.buf with xof := 0, xnv := 0 } }).advance e) ∧
    (slotmapOk (v.setWidth 9) = true → exec (.mtcSlotmap f) s =
      .next ((s.modCore e.n fun k => { k with slotmap := v.setWidth 9 }).advance e)) ∧
    (slotmapOk (v.setWidth 9) = false → exec (.mtcSlotmap f) s = .next (s.slotTrap e e.p.pos 0x04 e.slotAddr))

/-- A slot that the privilege or a user event handler forbids (R124, R268, R271, R272): in user privilege `rfe` and an `mtc` of
a system register; outside a handler `rfu`; in a handler a V-, X- or T-class slot, the slots that R82, R233 and R253 name, those
that move a ring or a stream, and a write of any register but es0 to es3, which have the numbers 28 to 31, and FFLAGS. -/
def Sys2Proof.Forbidden (c : Ctl) (i : Instr) : Prop :=
  (c.priv = false ∧ (i = .rfe ∨
    ∃ n, mtcTarget i = some n ∧ n ∈ [0x01, 0x02, 0x03, 0x05, 0x06, 0x07, 0x08, 0x09, 0x0A, 0x17])) ∨
  (c.inevt = false ∧ i = .rfu) ∨
  (c.inevt = true ∧ (classOf i ∈ [1, 2, 4] ∨ i ∈ [Instr.yield, .exit, .yieldEr] ∨
    (∃ f, i ∈ [Instr.bar f, .bswap f, .slcClaim f, .slcClaimC f, .slcWait f, .erIdle f,
      .tld f, .tst f, .gld f, .gst f, .radv f, .radvH f]) ∨
    (∃ n, mtcTarget i = some n ∧ n ≠ 0x0B) ∨ ∃ w ∈ slotWrites i, ¬((∃ n, w = .s n ∧ 28 ≤ n) ∨ w = .c 0x0B)))

/-- What a bundle that passes the checks holds: its slots are those that its words decode to, in order; it has four words or
more, and S stands on the last; its slots are within the limits of every class, a `nop` counting in none; no two of them write
one register; and the fields of each are legal, within the privilege and within what the kernel header declares (R21, R25, R27,
R29, R30, R32, R124). What a bundle that fails a check raises (R32): ILLEGAL_CLASS at its first word of a reserved class; else
ILLEGAL_BUNDLE where it is no bundle; else the cause of the first of its slots that fails, at that slot's word, whatever its
guard. Privilege (R124, R268, R271, R272, R359): a slot whose word is legal and that the privilege or a user event handler
forbids raises PRIVILEGE at its word when its bundle is decoded, whatever its guard; an `mtc` of OPPT, CNTST, CNTRM, CNTAS or
PWRMASK in either privilege, or of DMR in system privilege, raises ILLEGAL_OPERAND; and no bundle that holds one of these passes
the checks. -/
def Obligations.BundleChecksHold : Prop :=
  (∀ (h : Header) (c : Ctl) (ws : List Word) (ps : List Placed), checkBundle h c ws = .ok ps →
     (∃ rs, wellFormedBundle ws rs ∧
       rs.map RawSlot.decode = ps.map (fun p => .ok p.word) ∧ rs.map RawSlot.pos = ps.map Placed.pos) ∧
     ∀ p ∈ ps, fieldsOk p.word.instr = true ∧ privilegeOk c p.word.instr = true ∧
       resourceOk h c.inevt p.word.instr = true ∧ routineOnly p.word.instr = false) ∧
  (∀ (h : Header) (c : Ctl) (ws : List Word),
     (∀ i w, ws[i]? = some w → 6 ≤ wordClass w → (∀ j, j < i → ∀ v, ws[j]? = some v → wordClass v < 6) →
       checkBundle h c ws = .error (0x01, i)) ∧
     ((∀ w ∈ ws, wordClass w < 6) → (¬∃ rs, wellFormedBundle ws rs) → checkBundle h c ws = .error (0x03, 0)) ∧
     ∀ (rs : List RawSlot) (k : Nat) (r : RawSlot), wellFormedBundle ws rs → rs[k]? = some r → (∀ j, j < k →
       ∀ q, rs[j]? = some q → ∃ p, checkSlot h c q = .ok p) →
       ∀ e, checkSlot h c r = .error e → checkBundle h c ws = .error e) ∧
  ((∀ (h : Header) (c : Ctl) (r : RawSlot) (x : SlotWord), r.decode = .ok x → controlWord r.word = false →
     (∀ f o, entry x.instr = some (f, o) → o.rep = true → (payload f).extractLsb' 16 12 = 0) → fieldsOk x.instr = true →
     (∀ n, mtcTarget x.instr = some n → n ∈ [0x12, 0x13, 0x14, 0x15, 0x18] ∨ (n = 0x07 ∧ c.priv = true) →
       checkSlot h c r = .error (0x04, r.own)) ∧
     ((∀ n, mtcTarget x.instr = some n → ¬(n ∈ [0x12, 0x13, 0x14, 0x15, 0x18] ∨ (n = 0x07 ∧ c.priv = true))) →
       Forbidden c x.instr → checkSlot h c r = .error (0x06, r.own))) ∧
   ∀ (h : Header) (c : Ctl) (ws : List Word) (ps : List Placed), checkBundle h c ws = .ok ps → ∀ p ∈ ps,
     ¬Forbidden c p.word.instr ∧
     (∀ n, mtcTarget p.word.instr = some n → ¬(n ∈ [0x12, 0x13, 0x14, 0x15, 0x18] ∨ (n = 0x07 ∧ c.priv = true))))

/-- Reading a control register or time (R123, R130): `mfc` gives the register as it stood when the bundle issued, `gtime` the
package's time as the core reads it, `ccyc` the core's cycles; each completes with a pending write of sD at distance 1. The time
that a core reads is within 2 ticks of the package's, in whatever state; within 2 ticks of 0 it is clipped at 0 (log 5). `opsel`
(R129): while a change settles it raises OPSEL_BUSY and changes nothing; a request for the point in effect writes 0; any other
writes the settling time, and TGT is the slower of the request and CAP with SETTLE 1. Events on counters (R119): `evt` arms an
event with its threshold, which fires at once where the count is not above it and is then no longer armed; `evt.off` disarms it.
Nothing but the context's counters changes. -/
def Obligations.ReadsAndRequestsOfTheCore : Prop :=
  (∀ (s : State) (e : Env) (f : Fields), Runs s e →
     let put (v : DWord) : Host.Outcome State Fault Refusal :=
       .next ((s.setCtx e.n e.c (e.x.putS e.b.latch f.d 1 v)).advance e)
     exec (.mfc f) s = put (e.b.latch.creg f.a.toNat) ∧
     (∃ time : DWord, exec (.gtime f) s = put time ∧ time = s.gtimeAt e.n) ∧
     (∀ n, s.gtime.toNat + 2 < 2 ^ 64 →
       s.gtime.toNat ≤ (s.gtimeAt n).toNat + 2 ∧ (s.gtimeAt n).toNat ≤ s.gtime.toNat + 2) ∧
     exec (.ccyc f) s = put (s.core e.n).ccyc ∧
     (∀ l : Latch,
       (l.creg 0x00).toNat = l.ctl.status.toNat + (if l.slotmap &&& l.pwrmask = 0x1FF then 0 else 128) ∧
       l.creg 0x01 = l.ctl.cause.setWidth 64 ∧ l.creg 0x02 = l.ctl.taddr ∧ l.creg 0x03 = l.ctl.tbun ∧
       l.creg 0x04 = l.ctl.evtvec ∧ l.creg 0x05 = l.ctl.evtsrc.setWidth 64 ∧ l.creg 0x06 = l.ctl.savebase ∧
       l.creg 0x07 = l.ctl.dmr ∧ l.creg 0x08 = l.ctl.leglim.setWidth 64 ∧ l.creg 0x09 = l.ctl.equota ∧
       l.creg 0x0A = l.ctl.eused ∧ l.creg 0x0B = l.ctl.fflags.setWidth 64 ∧ l.creg 0x0C = l.ctl.fmode.setWidth 64 ∧
       l.creg 0x0D = l.ctl.emask.setWidth 64 ∧ l.creg 0x0E = l.ctl.rngkey ∧ l.creg 0x0F = l.ctl.rngsrc ∧
       l.creg 0x10 = l.ctl.rngpos ∧ l.creg 0x11 = l.ctl.tbudget.setWidth 64 ∧ l.creg 0x12 = l.oppt.setWidth 64 ∧
       (l.creg 0x13).toNat = l.cnt.st % 2 ^ 32 ∧
       (l.creg 0x14).toNat = l.cnt.rm % 2 ^ 32 + (if l.cnt.loss = none then 0 else 2 ^ 63) ∧
       (l.creg 0x15).toNat = l.cnt.as % 2 ^ 32 ∧ l.creg 0x16 = l.ctl.xcnt ∧
       l.creg 0x17 = l.slotmap.setWidth 64 ∧ l.creg 0x18 = l.pwrmask.setWidth 64)) ∧
  (∀ (s : State) (e : Env) (f : Fields), Runs s e →
     let k := s.core e.n
     let cap := (k.oppt.extractLsb' 7 3).toNat
     let cur := (k.oppt.extractLsb' 0 3).toNat
     let t := max ((e.sA f).toNat % 8) cap
     (k.oppt.getLsbD 6 = true → exec (.opsel f) s = .next (s.slotTrap e e.p.pos 0x16 e.slotAddr)) ∧
     (k.oppt.getLsbD 6 = false → t = cur →
       exec (.opsel f) s = .next (((s.irrevocable e.n e.c).modCtx e.n e.c fun x => x.putS e.b.latch f.d 1 0).advance e)) ∧
     (k.oppt.getLsbD 6 = false → t ≠ cur → ∃ o : BitVec 10, o.extractLsb' 7 3 = k.oppt.extractLsb' 7 3 ∧
       o.getLsbD 6 = true ∧ (o.extractLsb' 3 3).toNat = t ∧ o.extractLsb' 0 3 = k.oppt.extractLsb' 0 3 ∧
       exec (.opsel f) s = .next ((((s.irrevocable e.n e.c).modCore e.n fun k => { k with oppt := o }).modCtx e.n e.c fun x =>
         x.putS e.b.latch f.d 1 (if t < cur then BitVec.ofNat 64 (4000 * (cur - t)) else 1000)).advance e))) ∧
  (∀ (s : State) (e : Env) (f : Fields), Runs s e → f.d.toNat ≤ 2 →
     let k := f.d.toNat
     let th : BitVec 32 := (e.sA f).setWidth 32
     (∃ c : Counters, { c with armed := e.x.cnt.armed, fired := e.x.cnt.fired } = e.x.cnt ∧
       (∀ j, j < 3 →
         let t : Option (BitVec 32) := if j = k then some th else tget e.x.cnt.armed j
         let fires : Bool := t.any fun v => decide (e.x.cnt.get j ≤ v.toNat)
         tget c.armed j = (if fires then none else t) ∧ c.fired.getLsbD j = (e.x.cnt.fired.getLsbD j || fires)) ∧
       exec (.evt f) s = .next ((s.setCtx e.n e.c { e.x with cnt := c }).advance e)) ∧
     exec (.evtOff f) s = .next ((s.setCtx e.n e.c { e.x with
       cnt := { e.x.cnt with armed := tdel e.x.cnt.armed k } }).advance e))

/-- A load: its address, size and alignment in bytes, whether it allocates in L1, how its bytes become a value, its destination
(none where the value is discarded), and its landing distance. -/
structure Sys2Proof.LoadRow where
  addr : DWord
  size : Nat
  align : Nat
  allocate : Bool
  kind : LandKind
  dest : Option RegWrite
  dist : Nat

/-- The loads (R26, R107, R108, R109, R111). -/
def Sys2Proof.loadRow (e : Env) (i : Instr) : Option LoadRow :=
  let scalar (f : Fields) (kind : LandKind) (size : Nat) : Option LoadRow :=
    some ⟨e.sA f + ldOffset false f, size, size, !f.md, kind, e.landDest f.d, ldDistance f⟩
  match i with
  | .ldI8 f => scalar f .signed 1
  | .ldN8 f => scalar f .unsigned 1
  | .ldI16 f => scalar f .signed 2
  | .ldN16 f => scalar f .unsigned 2
  | .ldI32 f => scalar f .signed 4
  | .ldN32 f => scalar f .unsigned 4
  | .ldI64 f => scalar f .unsigned 8
  | .ldV f => some ⟨e.sA f + ldOffset true f, 4096, 64, true, .lanes,
      if f.d.toNat < 16 then some (.v f.d.toNat e.b.latch.active []) else none, ldDistance f⟩
  | _ => none

/-- No part of an access lies in a stash window. -/
def Sys2Proof.unstashed (ps : List (Place × Nat)) : Prop := ∀ p ∈ ps, ∀ uid j off, p.1 ≠ .stash uid j off

/-- A load of any width that acts (R107 to R111): a misaligned address raises MISALIGN, an address that fails raises its cause
at its lowest byte, one that must wait for the scoreboard (R191) or for an earlier access to the same bytes of a peer (R121)
stalls with nothing changed, and a load with a destination that finds 32 vestibule entries taken raises RESOURCE. Otherwise it
completes: a load with a destination leaves a landing, pending for its distance, with the bytes that were read, and one whose
value is discarded leaves none; nothing else of any core differs, outside stash windows, and no byte of memory where no earlier
access of the core waits for its place. The value of a scalar load (R108): `ld.i` sign-extends, `ld.n` and `ld.i64` zero-extend,
of little-endian bytes. -/
def Obligations.LoadsLand : Prop :=
  (∀ (i : Instr) (s : State) (e : Env) (r : LoadRow), Runs s e → loadRow e i = some r →
     let quiet (s u : State) (ps : List (Place × Nat)) : Prop := unstashed ps → (s.core e.n).outq.all (·.placed) = true →
       (∀ l, (s.mem.line l).own = none) → ∀ b, u.byte b = s.byte b
     (r.addr.toNat % r.align ≠ 0 → exec i s = .next (s.slotTrap e e.p.pos 0x08 r.addr)) ∧
     (∀ g, r.addr.toNat % r.align = 0 → s.places e.n e.px .load r.addr r.size = .error g →
       exec i s = .next (g.s.slotTrap e e.p.pos g.cause g.taddr)) ∧
     (∀ t ps, r.addr.toNat % r.align = 0 → s.places e.n e.px .load r.addr r.size = .ok (t, ps) →
       (t.core e.n).placesBusy false ps = true ∨ t.peersBusy e.x.task.uid ps = true →
       exec i s = .next (s.modCtx e.n e.c fun x => { x with stalled := true })) ∧
     ∀ t ps, r.addr.toNat % r.align = 0 → s.places e.n e.px .load r.addr r.size = .ok (t, ps) →
       (t.core e.n).placesBusy false ps = false → t.peersBusy e.x.task.uid ps = false →
       (r.dest ≠ none → 32 ≤ e.x.landings → exec i s = .next (s.slotTrap e e.p.pos 0x05 e.slotAddr)) ∧
       (r.dest = none → ∃ u, exec i s = .next (u.advance e) ∧ (unstashed ps → SameCores s u) ∧ quiet s u ps) ∧
       ∀ d, r.dest = some d → e.x.landings < 32 → ∃ u l w, exec i s = .next (u.advance e) ∧ quiet s u ps ∧
         (unstashed ps → SameCores (s.setCtx e.n e.c { e.x with
           pend := e.x.pend ++ [{ due := e.x.count + r.dist, dest := d, landing := some l }] }) u) ∧
         l.id = t.fresh ∧ l.addr = r.addr ∧ l.slot = e.slotAddr ∧ l.kind = r.kind ∧ l.size = r.size ∧
         (u.ctx e.n e.c).pend.getLast? = some w ∧
         w.dest = d.patch l 0 (partBytes (State.readParts e.n r.allocate { t with fresh := t.fresh + 1 } 0 ps).2)) ∧
  (∀ bs : List Byte,
     (bs.length ≤ 8 → landValue .unsigned bs.length bs = BitVec.ofNat 64 (leNat bs)) ∧
     (1 ≤ bs.length → bs.length ≤ 8 → landValue .signed bs.length bs
       = (BitVec.ofNat (8 * bs.length) (leNat bs)).signExtend 64))

/-- The undo area of the checkpoint unit (R346). -/
def Sys2Proof.undoArea (s : State) (b : Nat) : Prop := s.ckpt.cfg.undobase ≤ b ∧ b < s.ckpt.cfg.undobase + s.ckpt.cfg.undolen

/-- A line by logical time (R328), its owner recalled and its slice with room for it: a load of core n reads its own L1 copy
while the copy's version is older than T and its lease has not ended; else it reads the home, at a time after W, extends the
lease and takes a copy where it allocates, for which L1 may drop others and changes none (log 53). A store takes a time after
the lease, which becomes W and R, and its bytes are written and no others, but for the pre-image of a page of the shard in the
undo area (R346), which leaves a block that a reset has removed empty (R354). -/
def Obligations.LinesByLogicalTime : Prop :=
  ∀ (s : State) (n l : Nat),
    let u := s.reach l
    let h := u.mem.line l
    (∀ k allocate, tget (s.core n).l1 l = some k → k.w < (s.core n).t → (s.core n).t ≤ k.e →
      s.loadLine n allocate l = (s, k.data)) ∧
    (∀ allocate, (∀ k, tget (s.core n).l1 l = some k → ¬(k.w < (s.core n).t ∧ (s.core n).t ≤ k.e)) →
      let time := max (s.core n).t (h.w + 1)
      let t := (s.loadLine n allocate l).1
      (s.loadLine n allocate l).2 = readBytes u.mem.bytes (64 * l) 64 ∧
      (t.core n).t = time ∧ t.mem.line l = { h with r := max h.r (time + 32) } ∧
      (tget (t.core n).l1 l = if allocate then some ⟨readBytes u.mem.bytes (64 * l) 64, h.w, time + 32⟩
        else tget (s.core n).l1 l) ∧
      (∀ m, m ≠ l → tget (t.core n).l1 m = tget (s.core n).l1 m ∨ (allocate = true ∧ tget (t.core n).l1 m = none)) ∧
      ∀ a, t.byte a = u.byte a) ∧
    ∀ a bs, lineOf a = l → a % 64 + bs.length ≤ 64 →
      let time := max (s.core n).t (h.r + 1)
      let t := s.storePieces n l [(a, bs)]
      (t.core n).t = time ∧ t.mem.line l = { h with w := time, r := time } ∧
      ∀ b, s.ckpt.page a = none ∨ (¬undoArea s b ∧ s.mem.missing b = false) →
        t.byte b = if a ≤ b ∧ b < a + bs.length then bs.getD (b - a) 0 else u.byte b

/-- The stores: address, size, alignment, and the bytes written, by offset (R107, R111, R112). -/
def Sys2Proof.storeRow (e : Env) (i : Instr) : Option (DWord × Nat × Nat × List (Nat × List Byte)) :=
  let scalar (f : Fields) (size : Nat) : Option (DWord × Nat × Nat × List (Nat × List Byte)) :=
    some (e.sA f + maOffset f, size, size, [(0, natLe size (e.sB f).toNat)])
  match i with
  | .st8 f => scalar f 1
  | .st16 f => scalar f 2
  | .st32 f => scalar f 4
  | .st64 f => scalar f 8
  | .stV f => some (e.sA f + maOffset f, 4096, 64, (List.range 1024).filterMap fun k =>
      if e.b.latch.active.getLsbD k then some (4 * k, natLe 4 (lane (e.vecB f) k).toNat) else none)
  | _ => none

/-- A store of any width that acts (R107, R111, R112): a misaligned address raises MISALIGN, an address that fails raises its
cause at its lowest byte, one that must wait for the scoreboard (R191) or for an earlier access to the same bytes of a peer
(R121) stalls with nothing changed, and otherwise it completes, with its bytes on their way to their places. Where the bytes of
a scalar store go (R112, R121): to the scratchpad at once, counted in CNTST until the store leaves the core's queue; to local
memory through that queue, counted in CNTST, with no byte of memory changed until the store takes its place; to a peer by a
message, counted in CNTRM, or lost where the peer does not answer (R118). That a store waits in a queue of its core and changes
no byte until a later event gives it its place, as R327 says of a store that is held, is log 28 (DEDUCED). What the translation
of its address leaves is the state t: memory as it stands then keeps its bytes. -/
def Obligations.StoresComplete : Prop :=
  (∀ (i : Instr) (s : State) (e : Env) (a : DWord) (size align : Nat) (pieces : List (Nat × List Byte)), Runs s e →
     storeRow e i = some (a, size, align, pieces) →
     (a.toNat % align ≠ 0 → exec i s = .next (s.slotTrap e e.p.pos 0x08 a)) ∧
     (∀ g, a.toNat % align = 0 → s.places e.n e.px .store a size = .error g →
       exec i s = .next (g.s.slotTrap e e.p.pos g.cause g.taddr)) ∧
     ∀ t ps, a.toNat % align = 0 → s.places e.n e.px .store a size = .ok (t, ps) →
       ((t.core e.n).placesBusy true ps = true ∨ t.peersBusy e.x.task.uid ps = true →
         exec i s = .next (s.modCtx e.n e.c fun x => { x with stalled := true })) ∧
       ((t.core e.n).placesBusy true ps = false → t.peersBusy e.x.task.uid ps = false →
         exec i s = .next ((t.storeAt e a pieces ps).advance e))) ∧
  (∀ (s t : State) (e : Env) (a : DWord) (bs : List Byte) (p : Place), s.env = some e →
     bs.length ∈ [1, 2, 4, 8] → a.toNat % bs.length = 0 → s.places e.n e.px .store a bs.length = .ok (t, [(p, bs.length)]) →
     let u := t.storeAt e a [(0, bs)] [(p, bs.length)]
     (∀ b, p = .spad b →
       SameCores (s.modCore e.n fun k => { k with
         ctxs := tset k.ctxs e.c { e.x with cnt := { e.x.cnt with st := e.x.cnt.st + 1 } }
         spad := writeBytes k.spad b bs
         outq := k.outq ++ [{ id := t.fresh, uid := e.x.task.uid, ctx := e.c, pieces := [] }] }) u ∧
       ∀ c, u.byte c = t.byte c) ∧
     (∀ pa, p = .mem pa → pa % bs.length = 0 →
       SameCores (s.modCore e.n fun k => { k with
         ctxs := tset k.ctxs e.c { e.x with
           buf := { e.x.buf with irrevocable := true }, cnt := { e.x.cnt with st := e.x.cnt.st + 1 } }
         outq := k.outq ++ [{ id := t.fresh, uid := e.x.task.uid, ctx := e.c, pieces := [(pa, bs)] }] }) u ∧
       ∀ b, u.byte b = t.byte b) ∧
     (∀ node off, p = .peer node off → s.nodeUp node = true →
       SameCores (s.setCtx e.n e.c { e.x with
         buf := { e.x.buf with irrevocable := true }, cnt := { e.x.cnt with rm := e.x.cnt.rm + 1 } }) u ∧
       u.sent = t.sent ++ [.store (t.fresh + 1) node [(off, bs)]] ∧ ∀ b, u.byte b = t.byte b) ∧
     (∀ node off, p = .peer node off → s.nodeUp node = false →
       SameCores (s.setCtx e.n e.c { e.x with
         buf := { e.x.buf with irrevocable := true }, cnt := { e.x.cnt with loss := some (e.x.cnt.loss.getD a) } }) u ∧
       u.sent = t.sent ∧ ∀ b, u.byte b = t.byte b))

/-- The atomics with their operation (R114). -/
def Sys2Proof.atomicRow : Instr → Option (Fields × AmoOp)
  | .amoAdd f => some (f, .add)
  | .amoAnd f => some (f, .and)
  | .amoOr f => some (f, .or)
  | .amoXor f => some (f, .xor)
  | .amoMin f => some (f, .min)
  | .amoMax f => some (f, .max)
  | .amoXchg f => some (f, .xchg)
  | .amoCas f => some (f, .cas)
  | .amoFadd f => some (f, .fadd)
  | _ => none

/-- An atomic that acts (R107, R109, R114): MISALIGN, XLATE and PROTECT as a store's; it stalls where an earlier access to the
same bytes of a peer is not answered (R121); RESOURCE where its landing finds no entry. Otherwise it completes, with a landing
unless its old value is discarded: one on local memory enters the core's queue with its operand and is counted in CNTST; one on
peer memory is counted in CNTRM, or lost where the peer does not answer. No byte of memory changes, once its address is
translated, until it takes its place: that it waits in the core's queue is log 28 (DEDUCED). What an atomic writes at its home
and what it gives back (R115), in w = 64 or 32 bits; a floating-point add of a word, or of each of its two halves, rounds the
exact sum to nearest even, with the canonical NaN for a sum that is none, and gives the old word back zero-extended. The oldest
access of a core that has no place takes one (R115, R327, log 28), where no stash owns its line: a store's bytes are written; an
atomic's new value is, and its old value is its landing's, which is marked where its block is (R110, R353); nothing else of
memory changes, but for a pre-image in the undo area (R346), which leaves a block that a reset has removed empty (R354), and
nothing of the cores but the landing. -/
def Obligations.AtomicsPerform : Prop :=
  (∀ (i : Instr) (s : State) (e : Env) (f : Fields) (op : AmoOp), Runs s e → atomicRow i = some (f, op) →
     let a := e.sA f + ldOffset false f
     let size := if op = .fadd ∨ f.md = true then 4 else 8
     let m : Amo := ⟨op, f.md, e.sB f, e.sD f⟩
     (a.toNat % size ≠ 0 → exec i s = .next (s.slotTrap e e.p.pos 0x08 a)) ∧
     (∀ g, a.toNat % size = 0 → s.places e.n e.px .atomic a size = .error g →
       exec i s = .next (g.s.slotTrap e e.p.pos g.cause g.taddr)) ∧
     (∀ t ps, a.toNat % size = 0 → s.places e.n e.px .atomic a size = .ok (t, ps) → t.peersBusy e.x.task.uid ps = true →
       exec i s = .next (s.modCtx e.n e.c fun x => { x with stalled := true })) ∧
     ∀ t p k, a.toNat % size = 0 → s.places e.n e.px .atomic a size = .ok (t, [(p, k)]) →
       t.peersBusy e.x.task.uid [(p, k)] = false →
       let landed (cnt : Counters) : Ctx := { e.x with
         pend := e.x.pend ++ (e.landDest f.d).toList.map fun d =>
           { due := e.x.count + laDistance f, dest := d
             landing := some
               { id := t.fresh, addr := a, slot := e.slotAddr, kind := .unsigned, size := 8, status := .waiting, atomic := true } }
         buf := { e.x.buf with irrevocable := true }, cnt := cnt }
       (e.landDest f.d ≠ none → 32 ≤ e.x.landings → exec i s = .next (s.slotTrap e e.p.pos 0x05 e.slotAddr)) ∧
       (e.landDest f.d = none ∨ e.x.landings < 32 → ∃ u, exec i s = .next (u.advance e) ∧
         (∀ b, u.byte b = t.byte b) ∧
         (∀ pa, p = .mem pa → SameCores (s.modCore e.n fun q => { q with
           ctxs := tset q.ctxs e.c (landed { e.x.cnt with st := e.x.cnt.st + 1 })
           outq := q.outq ++ [{ id := t.fresh, uid := e.x.task.uid, ctx := e.c, pieces := [(pa, [])], amo := some m }] }) u) ∧
         (∀ node off, p = .peer node off → s.nodeUp node = true →
           SameCores (s.setCtx e.n e.c (landed { e.x.cnt with rm := e.x.cnt.rm + 1 })) u ∧
           ∃ id, u.sent = t.sent ++ [.atomic id node off m]) ∧
         ∀ node off, p = .peer node off → s.nodeUp node = false →
           SameCores (s.setCtx e.n e.c (landed { e.x.cnt with loss := some (e.x.cnt.loss.getD a) })) u ∧ u.sent = t.sent)) ∧
  (∀ (m : Amo) (old : DWord),
     let w := if m.op = .fadd ∨ m.md = true then 32 else 64
     let o := old.setWidth w
     let b := m.b.setWidth w
     m.bytes = w / 8 ∧
     (m.op ≠ .fadd → (m.new old).setWidth w = (match m.op with
       | .add => o + b
       | .and => o &&& b
       | .or => o ||| b
       | .xor => o ^^^ b
       | .min => if b.toInt < o.toInt then b else o
       | .max => if o.toInt < b.toInt then b else o
       | .xchg => b
       | .cas => if o = m.cmp.setWidth w then b else o
       | .fadd => o)) ∧
     (m.op = .fadd → (m.new old).setWidth 32
       = (perValue m.md (fun _ _ => rne) (fun _ x y _ => x.add false y) (old.setWidth 32) (m.b.setWidth 32) 0).1) ∧
     (m.op = .fadd → m.md = false → (f32 (old.setWidth 32)).isNan = true ∨ (f32 (m.b.setWidth 32)).isNan = true →
       (m.new old).setWidth 32 = (0x7FC00000 : Word)) ∧
     m.result old = if m.op = .fadd then (old.setWidth 32).setWidth 64 else o.signExtend 64) ∧
  (∀ (s : State) (n : Nat) (a : Access) (pa : Nat),
     (s.core n).outq.find? (fun b => !b.placed) = some a → pa + 8 ≤ Config.windowBase → pa % 64 + 8 ≤ 64 →
     (s.mem.line (lineOf pa)).own = none →
     SameCores s (s.placeNext n) ∧
     (∀ bs, a.amo = none → a.pieces = [(pa, bs)] → bs.length ≤ 8 →
       ∀ b, s.ckpt.page pa = none ∨ (¬undoArea s b ∧ s.mem.missing b = false) →
       (s.placeNext n).byte b = if pa ≤ b ∧ b < pa + bs.length then bs.getD (b - pa) 0 else s.byte b) ∧
     ∀ m, a.amo = some m → a.pieces = [(pa, [])] →
       let old : DWord := leWord 64 (readBytes s.mem.bytes pa m.bytes)
       (∀ b, s.ckpt.page pa = none ∨ (¬undoArea s b ∧ s.mem.missing b = false) → (s.placeNext n).byte b
         = if pa ≤ b ∧ b < pa + m.bytes then (natLe m.bytes (m.new old).toNat).getD (b - pa) 0 else s.byte b) ∧
       ∀ (x : Ctx) (i : Nat) (w : PWrite) (l : Landing) r v, (s.core n).findTask a.uid = some x → x.pend[i]? = some w →
         w.landing = some l → l.id = a.id →
         l.kind = .unsigned → w.dest = .s r v → ∃ y, ((s.placeNext n).core n).findTask a.uid = some y ∧
           y.pend[i]? = some { w with
             dest := .s r (m.result old)
             landing := some { l with status := if s.mem.isBad pa m.bytes then .uncorrectable else l.status } })

/-- A store of a run of bytes, of whatever length and alignment, writes them and no other byte of memory, where no stash owns a
line of them (R107, R328), but for the pre-images of pages of the shard in the undo area (R346), which leave a block that a
reset has removed empty (R354). A load of local memory of a core that holds none of its lines reads the bytes as they stand, and
changes none (R120, R328). `pref` completes whatever its address and changes no value that an access reads (R113): no byte of
memory, and nothing of any core but L1 and what the translation of its address leaves, where no stash owns a line and no earlier
access of the core waits for its place. Its own fill leaves the core's logical time. -/
def Obligations.MemoryReadsAndWrites : Prop :=
  (∀ (s : State) (n a : Nat) (bs : List Byte),
     (∀ b, a ≤ b → b < a + bs.length → (s.mem.line (lineOf b)).own = none) →
     ∀ b, (∀ c, a ≤ c → c < a + bs.length → s.ckpt.page c = none) ∨ (¬undoArea s b ∧ s.mem.missing b = false) →
       (s.storeMem n a bs).byte b = if a ≤ b ∧ b < a + bs.length then bs.getD (b - a) 0 else s.byte b) ∧
  (∀ (s : State) (n a len : Nat) (allocate : Bool),
     (∀ b, a ≤ b → b < a + len → (s.mem.line (lineOf b)).own = none ∧ tget (s.core n).l1 (lineOf b) = none) →
     (s.loadMem n allocate a len).2 = (List.range len).map (fun i => s.byte (a + i)) ∧
     ∀ b, (s.loadMem n allocate a len).1.byte b = s.byte b) ∧
  (∀ (s : State) (e : Env) (f : Fields), Runs s e → (∀ l, (s.mem.line l).own = none) →
     (s.core e.n).outq.all (·.placed) = true →
     ∃ u, exec (.pref f) s = .next (u.advance e) ∧ SameCores s u ∧ (∀ b, u.byte b = s.byte b) ∧
       (∀ t p, s.runAt e.n e.px .load (e.sA f + maOffset f).toNat 1 = .ok (t, p) → u = s ∨ (u.core e.n).t = (t.core e.n).t) ∧
       ∀ g, s.runAt e.n e.px .load (e.sA f + maOffset f).toNat 1 = .error g → u = s)

/-- What a lane becomes: from operands A, B and D, the random vector of RS, and the lane's number; with its flags. -/
abbrev Sys2Proof.LaneFn := Lanes → Lanes → Lanes → Lanes → Nat → Word × BitVec 5

/-- A lane computed from the same lane of A, B and D, without flags. -/
def Sys2Proof.bitLane (g : Word → Word → Word → Word) : LaneFn := fun a b d _ k => (g (lane a k) (lane b k) (lane d k), 0)

/-- A lane computed value by value, as f32 or as two bf16 halves, rounded by FMODE (R149, R150, R160). -/
def Sys2Proof.floatLane (e : Env) (md : Bool) (g : Rnd → Machine.Num → Machine.Num → Machine.Num →
  Machine.Num × BitVec 5) : LaneFn := fun a b d r k =>
  perValue md (fun n j => e.b.latch.ctl.rnd (lane r k) n j) g (lane a k) (lane b k) (lane d k)

/-- A special function of a lane (R179). -/
def Sys2Proof.specialLane (md : Bool) (g : Fmt → Machine.Num → Nat × BitVec 5) : LaneFn := fun a _ _ _ k =>
  if md then
    let lo := g fmtBf16 (bf16 ((lane a k).extractLsb' 0 16))
    let hi := g fmtBf16 (bf16 ((lane a k).extractLsb' 16 16))
    (BitVec.ofNat 32 (lo.1 + 65536 * hi.1), lo.2 ||| hi.2)
  else let r := g fmtF32 (f32 (lane a k)); (BitVec.ofNat 32 r.1, r.2)

/-- The reduction of a lane's row or column over its active lanes (R172). -/
def Sys2Proof.groupLane (e : Env) (row md : Bool) (g : Rnd → List Machine.Num →
  Machine.Num × BitVec 5) : LaneFn := fun a _ _ r k =>
  let ls := (List.range 1024).filter fun i =>
    e.b.latch.active.getLsbD i && (if row then i / 64 = k / 64 else i % 64 = k % 64)
  let rnd (n j : Nat) : Rnd := e.b.latch.ctl.rnd (lane r (ls.headD 0)) n j
  if md then
    let lo := fmtBf16.result (rnd 2 0) (g (rnd 2 0) (ls.map fun l => bf16 ((lane a l).extractLsb' 0 16)))
    let hi := fmtBf16.result (rnd 2 1) (g (rnd 2 1) (ls.map fun l => bf16 ((lane a l).extractLsb' 16 16)))
    (BitVec.ofNat 32 (lo.1 + 65536 * hi.1), lo.2 ||| hi.2)
  else
    let x := fmtF32.result (rnd 1 0) (g (rnd 1 0) (ls.map fun l => f32 (lane a l)))
    (BitVec.ofNat 32 x.1, x.2)

/-- The instructions that write the active lanes of a vector destination, with their distance and what a lane becomes (R164,
R165, R167 to R174, R176, R179). -/
def Sys2Proof.laneRow (e : Env) : Instr → Option (Nat × LaneFn)
  | .vadd f => some (4, floatLane e f.md fun r a b _ => a.add (decide (r.mode = .rdn)) b)
  | .vsub f => some (4, floatLane e f.md fun r a b _ => a.add (decide (r.mode = .rdn)) b.negate)
  | .vmul f => some (4, floatLane e f.md fun _ a b _ => a.mul b)
  | .vfma f => some (4, floatLane e f.md fun r a b d => d.fma (decide (r.mode = .rdn)) a b)
  | .vfms f => some (4, floatLane e f.md fun r a b d => d.fma (decide (r.mode = .rdn)) a.negate b)
  | .vmin f => some (4, bitLane fun a b d => (perValue f.md (fun _ _ => rne) (fun _ x y _ => (lesser x y, 0)) a b d).1)
  | .vmax f => some (4, bitLane fun a b d => (perValue f.md (fun _ _ => rne) (fun _ x y _ => (greater x y, 0)) a b d).1)
  | .vabs f => some (4, bitLane fun a b d => (perValue f.md (fun _ _ => rne) (fun _ x _ _ => (x.abs, 0)) a b d).1)
  | .vneg f => some (4, bitLane fun a b d => (perValue f.md (fun _ _ => rne) (fun _ x _ _ => (x.negate, 0)) a b d).1)
  | .vaddI32 _ => some (2, bitLane fun a b _ => BitVec.ofNat 32 (a.toNat + b.toNat))
  | .vsubI32 _ => some (2, bitLane fun a b _ => BitVec.ofInt 32 (a.toInt - b.toInt))
  | .vmulI32 _ => some (2, bitLane fun a b _ => BitVec.ofNat 32 (a.toNat * b.toNat))
  | .vminI32 f => some (2, bitLane fun a b _ =>
      if (if f.md then decide (b.toNat < a.toNat) else decide (b.toInt < a.toInt)) then b else a)
  | .vmaxI32 f => some (2, bitLane fun a b _ =>
      if (if f.md then decide (a.toNat < b.toNat) else decide (a.toInt < b.toInt)) then b else a)
  | .vand _ => some (2, bitLane fun a b _ => a &&& b)
  | .vor _ => some (2, bitLane fun a b _ => a ||| b)
  | .vxor _ => some (2, bitLane fun a b _ => a ^^^ b)
  | .vshl _ => some (2, bitLane fun a b _ => BitVec.ofNat 32 (a.toNat * 2 ^ (b.toNat % 32)))
  | .vshr f => some (2, bitLane fun a b _ =>
      if f.md then BitVec.ofInt 32 (a.toInt / 2 ^ (b.toNat % 32)) else BitVec.ofNat 32 (a.toNat / 2 ^ (b.toNat % 32)))
  | .vsel _ => some (2, bitLane fun a b d => (d &&& a) ||| (~~~d &&& b))
  | .vmov _ => some (2, bitLane fun a _ _ => a)
  | .vsplat f => some (2, fun _ _ _ _ _ =>
      (if f.md then BitVec.ofNat 32 (65537 * ((e.sA f).toNat % 65536)) else BitVec.ofNat 32 (e.sA f).toNat, 0))
  | .vrotR f => some (2, fun a _ _ _ k =>
      (lane a (64 * (k / 64) + (((k % 64 : Nat) - (riValue f).toInt) % 64).toNat), 0))
  | .vrotC f => some (3, fun a _ _ _ k =>
      (lane a (64 * (((k / 64 : Nat) - (riValue f).toInt) % 16).toNat + k % 64), 0))
  | .vbcR f => some (2, fun a _ _ _ k => (lane a (64 * (k / 64) + (e.sB f).toNat % 64), 0))
  | .vbcC f => some (3, fun a _ _ _ k => (lane a (64 * ((e.sB f).toNat % 16) + k % 64), 0))
  | .vperm _ => some (2, fun a b _ _ k => (lane a ((lane b k).toNat % 1024), 0))
  | .vtrn _ => some (5, fun a _ _ _ k => (lane a (64 * (k % 16) + 16 * (k % 64 / 16) + k / 64), 0))
  | .vsumR f => some (6, groupLane e true f.md fun r vs => sumValues (decide (r.mode = .rdn)) vs)
  | .vmaxR f => some (6, groupLane e true f.md fun _ vs => (vs.foldl greater .nan, 0))
  | .vminR f => some (6, groupLane e true f.md fun _ vs => (vs.foldl lesser .nan, 0))
  | .vsumC f => some (5, groupLane e false f.md fun r vs => sumValues (decide (r.mode = .rdn)) vs)
  | .vmaxC f => some (5, groupLane e false f.md fun _ vs => (vs.foldl greater .nan, 0))
  | .vminC f => some (5, groupLane e false f.md fun _ vs => (vs.foldl lesser .nan, 0))
  | .vcvt f => some (4, fun a _ d r k =>
      convertLane (e.b.latch.ctl.rnd (lane r k) 1 0) (cvtKind f) (cvtPart f) (lane a k) (lane d k))
  | .vround f => some (4, fun a _ _ r k => roundLane (e.b.latch.ctl.rnd (lane r k) 1 0) f.b.toNat (lane a k))
  | .vdeq f => if quantOk (e.sB f) then
      some (4, fun a _ _ r k =>
        let y := fmtF32.round (e.b.latch.ctl.rnd (lane r k) 1 0) (dequantLane (e.sB f) a k)
        (BitVec.ofNat 32 y.1, y.2))
    else none
  | .vexp2 f => some (8, specialLane f.md exp2Of)
  | .vlog2 f => some (8, specialLane f.md log2Of)
  | .vrcp f => some (8, specialLane f.md rcpOf)
  | .vrsq f => some (8, specialLane f.md rsqOf)
  | .vsqrt f => some (8, specialLane f.md sqrtOf)
  | .vtanh f => some (8, specialLane f.md tanhOf)
  | .vsig f => some (8, specialLane f.md sigOf)
  | _ => none

/-- The bits of a lane that an instruction writes: for a conversion to a narrower format those of its half or byte (R173). -/
def Sys2Proof.laneBits : Instr → Word
  | .vcvt f =>
    if cvtKind f = 4 ∨ cvtKind f = 5 then 0xFFFF <<< (16 * cvtPart f)
    else if 8 ≤ cvtKind f ∧ cvtKind f ≤ 12 then 0xFF <<< (8 * cvtPart f) else 0xFFFFFFFF
  | _ => 0xFFFFFFFF

/-- What the applications of a slot before number `j` have written to v0 to v15. -/
def Sys2Proof.earlier (e : Env) (f : Fields) (o : OpInfo) (outs : List Lanes) (j : Nat) : SMap Lanes :=
  (outs.take j).zipIdx.foldl (fun m w =>
    let d := fieldD f o w.2
    if d < 16 then tset m d (mergeLanes e.b.latch.active w.1 ((tget m d).getD (e.b.latch.vreg d))) else m) []

/-- Lane `k` of application `j` of a slot, computed from the operands that the application reads (R22, R28). -/
def Sys2Proof.laneOf (e : Env) (f : Fields) (o : OpInfo) (g : LaneFn) (outs : List Lanes) (j k : Nat) : Word × BitVec 5 :=
  let src (fld v : Nat) : Lanes := e.vec (earlier e f o outs j) j fld v
  g (src 0 (fieldA f o j)) (src 1 (fieldB f o j)) (if o.d.reads then src 2 (fieldD f o j) else []) (e.rs j) k

/-- The formats of the special functions with their canonical NaN, one, one half, infinity and sign bit. -/
def Sys2Proof.specialFormats : List (Fmt × Nat × Nat × Nat × Nat × Nat) := [
  (fmtF32, 0x7FC00000, 0x3F800000, 0x3F000000, 0x7F800000, 0x80000000),
  (fmtBf16, 0x7FC0, 0x3F80, 0x3F00, 0x7F80, 0x8000)]

/-- The lane of a widening conversion: the value itself, without a flag (R173). -/
def Sys2Proof.isWide (r : Word × BitVec 5) (x : Machine.Num) : Prop :=
  r.2 = 0 ∧ match x with
  | .nan => r.1 = 0x7FC00000
  | .inf s => r.1 = if s then 0xFF800000 else 0x7F800000
  | .fin s n d e => (f32 r.1).eq (.fin s n d e) = true ∧ (f32 r.1).neg = s

/-- The vector instructions (R28, R162 to R176, R179, R181): every active lane of a destination takes the value that the
instruction gives it from the latched sources, an inactive one 0 where the destination is a pipe and its old value where it is a
register, as do the bits outside the half or byte of a narrowing `vcvt`; with an EXT word the applications follow one another,
each seeing the registers that those before it wrote, and their results become visible together. The flags of all active lanes
are raised; where FMODE enables one of them, the slot raises FP with flags that it would have raised in TADDR, and writes
nothing. The special functions (R179, R180), with flags NV 16, DZ 8, OF 4, UF 2 and NX 1. A NaN gives the canonical NaN;
infinities, zeros and negative values give what R180 lists; results beyond the largest finite value give an infinity with OF and
NX. 2^x of an integer, log2 of a power of two, 1 / x, √ of a square and 1 / √ of an even power of two are the exact value,
rounded to nearest even; tanh and the logistic function far from 0 are the value next to their limit. Conversions of a lane
(R173, R174, R176). A narrowing `vcvt` puts the rounded code into its half or byte, a six-bit code with zeros above it; widening
kinds are exact and raise no flag; a conversion to an integer rounds, sets NX where that is inexact, and saturates with NV, as a
NaN gives 0. `vround` keeps the rounded value as f32, and one to E4M3 changes no later conversion to E4M3. `vdeq` multiplies the
element, the scale of its block and the band. -/
def Obligations.VectorResults : Prop :=
  (∀ (i : Instr) (s : State) (e : Env) (f : Fields) (o : OpInfo) (l : Nat) (g : LaneFn), Runs s e → entry i = some (f, o) →
     laneRow e i = some (l, g) →
     ∃ outs : List Lanes, outs.length = repeats f o + 1 ∧
       (∀ j v, outs[j]? = some v → ∀ k, k < 1024 →
         lane v k = if e.b.latch.active.getLsbD k then (laneOf e f o g outs j k).1 else 0) ∧
       let flags := (List.range (repeats f o + 1)).foldl (fun fl j =>
         (List.range 1024).foldl (fun fl k =>
           if e.b.latch.active.getLsbD k then fl ||| (laneOf e f o g outs j k).2 else fl) fl) 0
       let te : BitVec 5 := e.b.latch.ctl.fmode.extractLsb' 4 5
       (te &&& flags = 0 → exec i s = .next ((outs.zipIdx.foldl (fun s w =>
           s.writeBits e (fieldD f o w.2) (l + repeats f o) (laneBits i) e.b.latch.active w.1)
         (s.setCtx e.n e.c { e.x with ctl := { e.x.ctl with fflags := e.x.ctl.fflags ||| flags } })).advance e)) ∧
       (te &&& flags ≠ 0 → ∃ fl : BitVec 5, fl &&& ~~~flags = 0 ∧ te &&& fl ≠ 0 ∧
         exec i s = .next (s.slotTrap e e.p.pos 0x10 (fl.setWidth 64)))) ∧
  (∀ f nan one half inf sgn, (f, nan, one, half, inf, sgn) ∈ specialFormats →
     (∀ g ∈ [exp2Of, log2Of, rcpOf, rsqOf, sqrtOf, tanhOf, sigOf], g f .nan = (nan, 0)) ∧
     exp2Of f (.inf true) = (0, 0) ∧ exp2Of f (.inf false) = (inf, 0) ∧
     log2Of f (.inf true) = (nan, 16) ∧ log2Of f (.inf false) = (inf, 0) ∧
     rcpOf f (.inf true) = (sgn, 0) ∧ rcpOf f (.inf false) = (0, 0) ∧
     rsqOf f (.inf true) = (nan, 16) ∧ rsqOf f (.inf false) = (0, 0) ∧
     sqrtOf f (.inf true) = (nan, 16) ∧ sqrtOf f (.inf false) = (inf, 0) ∧
     tanhOf f (.inf true) = (sgn + one, 0) ∧ tanhOf f (.inf false) = (one, 0) ∧
     sigOf f (.inf true) = (0, 0) ∧ sigOf f (.inf false) = (one, 0) ∧
     -- zeros
     (∀ s d e, let sign := if s then sgn else 0;
       exp2Of f (.fin s 0 d e) = (one, 0) ∧ log2Of f (.fin s 0 d e) = (sgn + inf, 8) ∧
       rcpOf f (.fin s 0 d e) = (sign + inf, 8) ∧ rsqOf f (.fin s 0 d e) = (sign + inf, 8) ∧
       sqrtOf f (.fin s 0 d e) = (sign, 0) ∧ tanhOf f (.fin s 0 d e) = (sign, 0) ∧ sigOf f (.fin s 0 d e) = (half, 0)) ∧
     ∀ n e, 0 < n →
       -- values below 0
       log2Of f (.fin true n 1 e) = (nan, 16) ∧ rsqOf f (.fin true n 1 e) = (nan, 16) ∧ sqrtOf f (.fin true n 1 e) = (nan, 16) ∧
       -- results beyond the formats
       (magLt n 1 e 1 1 (-128) = true → ∀ s, rcpOf f (.fin s n 1 e) = ((if s then sgn else 0) + inf, 5)) ∧
       (magLt n 1 e 1024 1 0 = false → exp2Of f (.fin false n 1 e) = (inf, 5) ∧ exp2Of f (.fin true n 1 e) = (0, 3) ∧
         (∀ s, tanhOf f (.fin s n 1 e) = ((if s then sgn else 0) + one, 1)) ∧
         sigOf f (.fin false n 1 e) = (one, 1) ∧ sigOf f (.fin true n 1 e) = (0, 3)) ∧
       -- exact values
       (∀ s (m : Nat), (scaled n 1 e).1 = m * (scaled n 1 e).2 →
         exp2Of f (.fin s n 1 e) = f.round rne (.fin false 1 1 (if s then -m else m))) ∧
       (∀ j : Nat, n = 2 ^ j → log2Of f (.fin false n 1 e) = f.round rne (.ofInt (j + e))) ∧
       (∀ s, rcpOf f (.fin s n 1 e) = f.round rne (.fin s 1 n (-e))) ∧
       (∀ m k, (Machine.Num.fin false n 1 e).eq (.fin false (m * m) 1 (2 * k)) = true →
         sqrtOf f (.fin false n 1 e) = f.round rne (.fin false m 1 k)) ∧
       (∀ k, n < 2 ^ 64 → (Machine.Num.fin false n 1 e).eq (.fin false 1 1 (2 * k)) = true →
         rsqOf f (.fin false n 1 e) = f.round rne (.fin false 1 1 (-k)))) ∧
  (∀ (rm : Rnd) (a d : Word),
     (∀ kind w fmt, (kind, w, fmt) ∈ [(4, 16, fmtBf16), (5, 16, fmtF16), (8, 8, fmtE4M3), (9, 8, fmtE5M2), (10, 8, fmtE2M3),
         (11, 8, fmtE3M2)] → ∀ n, n * w < 32 →
       let r := convertLane rm kind n a d
       let c := fmt.round rm (f32 a)
       r.1.extractLsb' (w * n) w = BitVec.ofNat w c.1 ∧ r.2 = c.2 ∧ c.1 < 2 ^ fmt.width) ∧
     (∀ kind w fmt, (kind, w, fmt) ∈ [(6, 16, fmtBf16), (7, 16, fmtF16), (13, 8, fmtE4M3), (14, 8, fmtE5M2)] → ∀ n, n * w < 32 →
       isWide (convertLane rm kind n a d) (fmt.value (a.extractLsb' (w * n) w).toNat)) ∧
     (∀ n, n < 4 → isWide (convertLane rm 15 n a d) (.ofInt (a.extractLsb' (8 * n) 8).toInt)) ∧
     (∀ kind (i : Int), (kind, i) ∈ [(0, a.toInt), (1, (a.toNat : Int))] →
       let r := convertLane rm kind 0 a d
       let c := fmtF32.round rm (.ofInt i)
       r = (BitVec.ofNat 32 c.1, c.2) ∧ (i.natAbs ≤ 2 ^ 24 → isWide r (.ofInt i))) ∧
     (∀ kind w (lo hi : Int), (kind, w, lo, hi) ∈ [(2, 32, -2147483648, 2147483647), (3, 32, 0, 4294967295), (12, 8, -128,
       127)] →
       ∀ n, n * w < 32 →
       let r := convertLane rm kind n a d
       let put (i : Int) (fl : BitVec 5) : Prop := r.1.extractLsb' (w * n) w = BitVec.ofInt w i ∧ r.2 = fl
       match f32 a with
       | .nan => put 0 16
       | .inf s => put (if s then lo else hi) 16
       | .fin s m q e =>
         let v := roundInt rm s (scaled m q e).1 (scaled m q e).2
         let i : Int := if s then -v.1 else v.1
         if i < lo then put lo 16 else if hi < i then put hi 16 else put i (if v.2 then 1 else 0)) ∧
     (∀ b fmt, (b, fmt) ∈ [(0, fmtE2M1), (1, fmtE2M3), (2, fmtE3M2), (3, fmtE4M3), (4, fmtE5M2), (5, fmtBf16), (6, fmtF16)] →
       let c := fmt.round rm (f32 a)
       isWide ((roundLane rm b a).1, 0) (fmt.value c.1) ∧ (roundLane rm b a).2 = c.2) ∧
     (match f32 a with
       | .fin s m q e =>
         isWide ((roundLane rm 10 a).1, 0) (.fin s (roundInt rm s (scaled m q e).1 (scaled m q e).2).1 1 0)
       | x => isWide (roundLane rm 10 a) x) ∧
     (∀ n, n < 4 → (convertLane rm 8 n (roundLane rm 3 a).1 d).1 = (convertLane rm 8 n a d).1) ∧
     ∀ (v : DWord) (p : Lanes) (l : Nat), l < 1024 →
       let byte (i : Nat) : Nat := ((lane p (i / 4)).extractLsb' (8 * (i % 4)) 8).toNat
       let scale (i : Nat) : Machine.Num := if byte i = 255 then .nan else .fin false 1 1 ((byte i : Int) - 127)
       (v.toNat % 16 = 0 → dequantLane v p l =
         (((fmtE2M1.value (byte (l / 2) / 16 ^ (l % 2) % 16)).mul (fmtE3M5.value (byte (3072 + l / 8)))).1.mul
           (bf16 (v.extractLsb' 16 16))).1) ∧
       (∀ t fmt, (t, fmt) ∈ [(1, fmtE2M3), (2, fmtE3M2)] → v.toNat % 16 = t → ∃ c < 64,
         (∀ k < 6, c.testBit k = (byte (24 * (l / 32) + (6 * (l % 32) + k) / 8)).testBit ((6 * (l % 32) + k) % 8)) ∧
         dequantLane v p l = ((fmt.value c).mul (scale (3072 + l / 32))).1) ∧
       (∀ t fmt, (t, fmt) ∈ [(8, fmtE4M3), (9, fmtE5M2)] → v.toNat % 16 = t →
         dequantLane v p l = ((fmt.value (byte l)).mul (scale (3072 + l / 32))).1))

/-- What the fields of a slot name: s0 reads zero and discards writes, p0 and q0 read true and discard them, m0 reads all ones
and discards them; any other write is pending at its own register, one of s28 to s31 in a user event handler at es0 to es3, and
one of a mask register in the lanes that it selects (R21, R39, R271). Where a vector result goes (R22, R163, R198): to v0 to v15
as a pending write of the selected lanes, nowhere for vector operand 17, and for a pipe tail to the end of the task's own pipe,
with the core's logical time; a write of some bits of the lanes (R173) is pending with those bits. -/
def Obligations.HardwiredRegistersAndDestinations : Prop :=
  ((∀ (x : Ctx) (l : Latch) (k : Nat) (v : DWord), l.s 0 = 0 ∧ x.putS l 0 k v = x) ∧
   (∀ (x : Ctx) (l : Latch) (d : BitVec 5) (k : Nat) (v : DWord), d ≠ 0 →
     x.putS l d k v = x.push k (if l.ctl.inevt = true ∧ 28 ≤ d.toNat then .es (d.toNat - 28) v else .s d.toNat v)) ∧
   (∀ (x : Ctx) (l : Latch) (k : Nat) (b : Bool),
     l.p 0 = true ∧ l.p 8 = true ∧ x.putP 0 k b = x ∧ x.putP 8 k b = x) ∧
   (∀ (x : Ctx) (d : BitVec 5) (k : Nat) (b : Bool), d.toNat < 16 → d.toNat % 8 ≠ 0 →
     x.putP d k b = x.push k (if d.toNat < 8 then .p d.toNat b else .q (d.toNat - 8) b)) ∧
   (∀ (x : Ctx) (l : Latch) (k : Nat) (sel v : Mask), l.m 0 = BitVec.allOnes 1024 ∧ x.putM 0 k sel v = x) ∧
   (∀ (x : Ctx) (d : BitVec 5) (k : Nat) (sel v : Mask), d ≠ 0 → x.putM d k sel v = x.push k (.m d.toNat sel v)) ∧
   ∀ (x : Ctx) (k : Nat) (w : RegWrite),
     x.push k w = { x with pend := x.pend ++ [{ due := x.count + k, dest := w }] }) ∧
  (∀ (s : State) (e : Env) (v l : Nat) (sel : Mask) (x : Lanes), s.ctx? e.n e.c ≠ none →
     (∀ bits : Word, s.writeBits e v l bits sel x = if v < 16 ∧ bits ≠ 0xFFFFFFFF then s.modCtx e.n e.c fun y => { y with
       pend := y.pend ++ [{ due := y.count + l, dest := .vBits v bits sel x }] } else s.writeVec e v l sel x) ∧
     (v < 16 → s.writeVec e v l sel x = s.modCtx e.n e.c fun y => { y with
       pend := y.pend ++ [{ due := y.count + l, dest := .v v sel x }] }) ∧
     (v = 17 → s.writeVec e v l sel x = s) ∧
     (∀ p, 22 ≤ v → tget (s.ctx e.n e.c).task.pushEnd (v - 22) = some p →
       ∃ q, tget ((s.writeVec e v l sel x).core e.n).pipes p = some q ∧
         q.entries = (mget {} (s.core e.n).pipes p).entries ++ [(x, (s.core e.n).t)] ∧
         ((s.writeVec e v l sel x).ctx e.n e.c).buf.irrevocable = true ∧
         ∀ p', p' ≠ p → tget ((s.writeVec e v l sel x).core e.n).pipes p' = tget (s.core e.n).pipes p'))

/-- The bit of a lane that a compare writes (R166, R167): with MD 1 a floating-point relation must hold for both halves. -/
def Sys2Proof.compareRow (e : Env) : Instr → Option (Fields × Nat × (Nat → Bool))
  | .vcmpEq f => some (f, 4, fun k => bothHalves f.md (fun x y => x.eq y) (lane (e.vecA f) k) (lane (e.vecB f) k))
  | .vcmpLt f => some (f, 4, fun k => bothHalves f.md (fun x y => x.lt y) (lane (e.vecA f) k) (lane (e.vecB f) k))
  | .vcmpLe f => some (f, 4, fun k => bothHalves f.md (fun x y => x.lt y || x.eq y) (lane (e.vecA f) k) (lane (e.vecB f) k))
  | .vcmpUn f => some (f, 4, fun k => bothHalves f.md (fun x y => x.isNan || y.isNan) (lane (e.vecA f) k) (lane (e.vecB f) k))
  | .vcmpiEq f => some (f, 2, fun k => decide ((lane (e.vecA f) k).toNat = (lane (e.vecB f) k).toNat))
  | .vcmpiLt f => some (f, 2, fun k =>
      if f.md then decide ((lane (e.vecA f) k).toNat < (lane (e.vecB f) k).toNat)
      else decide ((lane (e.vecA f) k).toInt < (lane (e.vecB f) k).toInt))
  | _ => none

/-- The bit of a mask that a mask instruction writes (R178, R250). -/
def Sys2Proof.maskRow (e : Env) : Instr → Option (Fields × (Nat → Bool))
  | .mand f => some (f, fun k => (e.b.latch.m f.a.toNat).getLsbD k && (e.b.latch.m f.b.toNat).getLsbD k)
  | .mor f => some (f, fun k => (e.b.latch.m f.a.toNat).getLsbD k || (e.b.latch.m f.b.toNat).getLsbD k)
  | .mxor f => some (f, fun k => (e.b.latch.m f.a.toNat).getLsbD k != (e.b.latch.m f.b.toNat).getLsbD k)
  | .mnot f => some (f, fun k => !(e.b.latch.m f.a.toNat).getLsbD k)
  | .mfirstM f => some (f, fun k => (List.range (k + 1)).all fun j => !(e.b.latch.m f.a.toNat).getLsbD j)
  | .mset f => some (f, fun k => decide ((e.sA f).toNat ≤ k ∧ k < (e.sB f).toNat))
  | .xaStat f => some (f, fun k =>
      (if f.b.toNat = 0 then e.x.units.xa.divz else if f.b.toNat = 1 then e.x.units.xa.stag else e.x.units.xa.conv).getLsbD k)
  | _ => none

/-- Compares and mask instructions complete (R162, R166, R167, R178): a compare writes the bits of active lanes of its mask
register, a mask instruction all 1,024 bits; `mcnt` counts the one bits and `mfirst` finds the lowest, 1,024 if there is none;
`mact` selects the active mask. -/
def Obligations.MaskResults : Prop :=
  ∀ (s : State) (e : Env), Runs s e →
    (∀ i f l (g : Nat → Bool), compareRow e i = some (f, l, g) → ∃ v : Mask, (∀ k, k < 1024 → v.getLsbD k = g k) ∧
      exec i s = .next ((s.setCtx e.n e.c (e.x.putM f.d l e.b.latch.active v)).advance e)) ∧
    (∀ i f (g : Nat → Bool), maskRow e i = some (f, g) → ∃ v : Mask, (∀ k, k < 1024 → v.getLsbD k = g k) ∧
      exec i s = .next ((s.setCtx e.n e.c (e.x.putM f.d 1 (BitVec.allOnes 1024) v)).advance e)) ∧
    ∀ f : Fields,
      exec (.mcnt f) s = .next ((s.setCtx e.n e.c (e.x.putS e.b.latch f.d 1
        (BitVec.ofNat 64 ((List.range 1024).filter fun k => (e.b.latch.m f.a.toNat).getLsbD k).length))).advance e) ∧
      (∃ k : Nat, k ≤ 1024 ∧ (∀ j, j < k → (e.b.latch.m f.a.toNat).getLsbD j = false) ∧
        (k < 1024 → (e.b.latch.m f.a.toNat).getLsbD k = true) ∧
        exec (.mfirst f) s = .next ((s.setCtx e.n e.c (e.x.putS e.b.latch f.d 1 (BitVec.ofNat 64 k))).advance e)) ∧
      exec (.mact f) s = .next ((s.setCtx e.n e.c { e.x with ctl := { e.x.ctl with emask := f.a.setWidth 3 } }).advance e)

/-- The flags of the active lanes together. -/
def Sys2Proof.flagsOf (act : Mask) (g : Nat → BitVec 5) : BitVec 5 :=
  (List.range 1024).foldl (fun fl k => if act.getLsbD k then fl ||| g k else fl) 0

/-- Single lanes and planes: `vext` and `vins` (R168), the three terms of `vsplit3` (R132), cosine and sine of `vsincos` (R131),
`vcorr` (R177) and `vquant` (R175). Each completes with its writes and the flags of its active lanes, but for FP where FMODE
enables a flag that it raises, with its flags in TADDR (R154). The jump partial of `vcorr` is +∞ where some U is NaN or
infinite, else the greatest |U − Fold| of the active lanes, rounded up. An illegal target or band of `vquant` and `vdeq` raises
ILLEGAL_OPERAND. -/
def Obligations.LanesAndPlanes : Prop :=
  ∀ (s : State) (e : Env) (f : Fields), Runs s e →
    let act := e.b.latch.active
    let te : BitVec 5 := e.b.latch.ctl.fmode.extractLsb' 4 5
    let raised (fl : BitVec 5) : State :=
      s.setCtx e.n e.c { e.x with ctl := { e.x.ctl with fflags := e.x.ctl.fflags ||| fl } }
    let fpTrap (fl : BitVec 5) : Host.Outcome State Fault Refusal := .next (s.slotTrap e e.p.pos 0x10 (fl.setWidth 64))
    (let w := lane (e.vecA f) ((e.sB f).toNat % 1024);
      exec (.vext f) s = .next ((s.setCtx e.n e.c (e.x.putS e.b.latch f.d 2
        (if f.md then BitVec.ofInt 64 w.toInt else BitVec.ofNat 64 w.toNat))).advance e)) ∧
    (∃ (v : Lanes) (sel : Mask), lane v ((e.sB f).toNat % 1024) = (e.sA f).setWidth 32 ∧
      (∀ k, k < 1024 → sel.getLsbD k = (act.getLsbD k && decide (k = (e.sB f).toNat % 1024))) ∧
      exec (.vins f) s = .next ((s.writeVec e f.d.toNat 2 sel v).advance e)) ∧
    (∃ hi mid lo : Lanes,
      (∀ k, k < 1024 → act.getLsbD k = true →
        let x (j : Nat) : Word := if j < 1024 then lane (e.vecA f) j else lane (e.vecB f) (j - 1024);
        lane hi k = halves (splitTerms (x (2 * k))).1.toNat (splitTerms (x (2 * k + 1))).1.toNat ∧
        lane mid k = halves (splitTerms (x (2 * k))).2.1.toNat (splitTerms (x (2 * k + 1))).2.1.toNat ∧
        lane lo k = halves (splitTerms (x (2 * k))).2.2.toNat (splitTerms (x (2 * k + 1))).2.2.toNat) ∧
      exec (.vsplit3 f) s = .next ((((s.writeVec e f.d.toNat 4 act hi).writeVec e (f.d.toNat + 1) 4 act mid).writeVec e
        (f.d.toNat + 2) 4 act lo).advance e)) ∧
    (let turn (k : Nat) := sincosOf (f32 (lane (e.vecA f) k))
      let fl := flagsOf act fun k => (turn k).2.2
      (te &&& fl ≠ 0 → exec (.vsincos f) s = fpTrap fl) ∧
      (te &&& fl = 0 → ∃ c si : Lanes,
        (∀ k, k < 1024 → act.getLsbD k = true →
          lane c k = BitVec.ofNat 32 (turn k).1 ∧ lane si k = BitVec.ofNat 32 (turn k).2.1) ∧
        exec (.vsincos f) s = .next ((((raised fl).writeVec e f.d.toNat 8 act c).writeVec e (f.d.toNat + 1) 8 act si).advance
          e))) ∧
    (let value (k : Nat) := perValue f.md (fun n j => e.b.latch.ctl.rnd (lane (e.rs 0) k) n j)
        (fun r a b d => sumValues (decide (r.mode = .rdn)) [a, b, d.negate]) (lane (e.vecA f) k) (lane (e.vecB f) k)
        (lane (e.b.latch.vreg f.d.toNat) k)
      let fl := flagsOf act fun k => (value k).2
      -- the values U and Fold of a lane, one FP32 or two BF16
      let pairs (k : Nat) : List (Machine.Num × Machine.Num) :=
        (laneValues f.md (value k).1).zip (laneValues f.md (lane (e.vecB f) k))
      let on (k : Nat) : Prop := k < 1024 ∧ act.getLsbD k = true
      (te &&& fl ≠ 0 → exec (.vcorr f) s = fpTrap fl) ∧
      (te &&& fl = 0 → ∃ u p : Lanes,
        (∀ k, on k → lane u k = (value k).1) ∧
        ((∃ k, on k ∧ ∃ q ∈ pairs k, q.1.isFinite = false) → ∀ k, on k → lane p k = 0x7F800000) ∧
        ((∀ k, on k → ∀ q ∈ pairs k, q.1.isFinite = true) → ∀ k, on k → ∃ m, on m ∧ ∃ q ∈ pairs m,
          (∀ m', on m' → ∀ q' ∈ pairs m', (q.1.sub q.2).abs.lt (q'.1.sub q'.2).abs = false) ∧
          lane p k = BitVec.ofNat 32 (fmtF32.roundUp (q.1.sub q.2).abs)) ∧
        exec (.vcorr f) s = .next ((((raised fl).writeVec e f.d.toNat 4 act u).writeVec e (f.d.toNat + 1) 4 act p).advance
          e))) ∧
    (quantOk (e.sB f) = true →
      let r := quantLanes e.b.latch.ctl (e.sB f) (e.vecA f) (e.rs 0)
      (te &&& r.2 ≠ 0 → exec (.vquant f) s = fpTrap r.2) ∧
      (te &&& r.2 = 0 →
        exec (.vquant f) s = .next (((raised r.2).writeVec e f.d.toNat 4 (BitVec.allOnes 1024) r.1).advance e))) ∧
    (quantOk (e.sB f) = false →
      exec (.vquant f) s = .next (s.slotTrap e e.p.pos 0x04 e.slotAddr) ∧
      exec (.vdeq f) s = .next (s.slotTrap e e.p.pos 0x04 e.slotAddr))

/-- Entry ε_(p−1) of the table of Wynn's recursion at place `k`, in FP64, over the iterates `x` (R248). -/
def Sys2Proof.epsilon (x : Nat → Machine.Num) : Nat → Nat → Machine.Num
  | 0, _ => .zero false
  | 1, k => x k
  | p + 2, k =>
    let d := r64 ((epsilon x (p + 1) (k + 1)).sub (epsilon x (p + 1) k))
    r64 ((epsilon x p (k + 1)).add false (r64 ((Machine.Num.ofInt 1).div d))).1

/-- Random numbers and extrapolation (R247 to R250, R311, R312): `rng.key` sets the key and position 0, `rng.pos` reads the
position of the next pop and sets it, both discarding the vectors made ahead; `xa.init` empties the history with a depth of 2 to
8, a method and two tolerances, or raises ILLEGAL_OPERAND; `xa.push` appends an iterate and drops the oldest beyond the depth;
`xa.est` writes the estimate to active lanes and the flags at distance 16. The estimates (R248 to R250). EPS takes, lane by
lane, the newest iterate where there are fewer than three, with DIVZ where one of them is not finite, a divisor is 0 or below
TAU or the estimate is infinite; from three and four the single quotient, from five on Wynn's recursion in FP64. LSQ takes the
newest iterate with DIVZ where there are fewer than two or one of an active lane is not finite, and without it where the active
lanes do not move; from two iterates the newest, or +0 under a TAU above 1; from three the weights of the Cholesky solution, and
the newest with DIVZ where a pivot is not above 0 or below TAU times the trace. CONV and STAG compare with the newest iterate
and the estimate before. -/
def Obligations.RandomAndExtrapolation : Prop :=
  (∀ (s : State) (e : Env) (f : Fields), Runs s e →
     let put (x : Ctx) : Host.Outcome State Fault Refusal := .next ((s.setCtx e.n e.c x).advance e)
     let xa := e.x.units.xa
     exec (.rngKey f) s = put { e.x with rqAhead := 0, ctl := { e.x.ctl with rngkey := e.sA f, qpos := 0 } } ∧
     exec (.rngPosR f) s = put (e.x.putS e.b.latch f.d 1 e.b.latch.ctl.qpos) ∧
     exec (.rngPos f) s = put { e.x.putS e.b.latch f.d 1 e.b.latch.ctl.qpos with
       rqAhead := 0, ctl := { e.x.ctl with qpos := e.sA f } } ∧
     (let a := (e.sA f).toNat
       let tol : Word := (e.sB f).extractLsb' 0 32
       let tau : Word := (e.sB f).extractLsb' 32 32
       let legal := decide (2 ≤ a % 16 ∧ a % 16 ≤ 8 ∧ a < 32) && toleranceOk tol && toleranceOk tau
       (legal = true → exec (.xaInit f) s = put { e.x with units := { e.x.units with
         xa := { depth := a % 16, lsq := decide (16 ≤ a), tol := tol, tau := tau } } }) ∧
       (legal = false → exec (.xaInit f) s = .next (s.slotTrap e e.p.pos 0x04 e.slotAddr))) ∧
     exec (.xaPush f) s = put { e.x with units := { e.x.units with xa := { xa with
       history := (if xa.history.length < xa.depth then xa.history else xa.history.drop 1) ++ [e.vecA f] } } } ∧
     ∃ (v : Lanes) (d st c : Mask), xa.estimate e.b.latch.active = (v, d, st, c) ∧
       exec (.xaEst f) s = .next (((s.setCtx e.n e.c ({ e.x with units := { e.x.units with
         xa := { xa with prev := some v } } }.push 16 (.xa d st c))).writeVec e f.d.toNat 16 e.b.latch.active v).advance e)) ∧
  ((∀ (tau : Machine.Num) (xs : List Word),
     let n := xs.length
     let j := (n - 1) / 2
     let x (i : Nat) : Machine.Num := f32 (xs.getD (n - (2 * j + 1) + i) 0)
     let failed := estEps tau xs = (xs.getLastD 0, true)
     let is (y : Machine.Num) : Prop :=
       if (f32 (toF32 y)).isInf then failed else estEps tau xs = (toF32 y, false)
     let small (y : Machine.Num) : Bool := y.isZero || y.abs.lt tau
     let finite := ∀ w ∈ xs, (f32 w).isFinite = true
     (n = 0 → estEps tau xs = (0, true)) ∧ (¬finite → failed) ∧
     (finite → n = 1 ∨ n = 2 → estEps tau xs = (xs.getLastD 0, false)) ∧
     (finite → n = 3 ∨ n = 4 →
       let d2 := (x 2).sub (x 1)
       let d := d2.sub ((x 1).sub (x 0))
       if small d then failed else is ((x 2).sub ((d2.mul d2).1.div d))) ∧
     (finite → 5 ≤ n →
       let diff (p k : Nat) : Machine.Num := r64 ((epsilon x (p + 1) (k + 1)).sub (epsilon x (p + 1) k))
       ((∃ p < 2 * j, ∃ k < 2 * j - p, small (diff p k) = true) → failed) ∧
       ((∀ p < 2 * j, ∀ k < 2 * j - p, small (diff p k) = false) → is (epsilon x (2 * j + 1) 0)))) ∧
   (∀ (xa : Xa) (act : Mask) (i : Nat), i < 1024 →
     let n := xa.history.length
     let x (k l : Nat) : Machine.Num := f32 (lane (xa.history.getD k []) l)
     let on (l : Nat) : Prop := l < 1024 ∧ act.getLsbD l = true
     let newest := lane (xa.history.getLastD []) i
     let finite := ∀ k < n, ∀ l, on l → (x k l).isFinite = true
     let still := ∀ k, k + 1 < n → ∀ l, on l → (x (k + 1) l).eq (x k l) = true
     let r := xa.estLsq act i
     (n < 2 ∨ ¬finite → r = (newest, true)) ∧
     (2 ≤ n → finite → on i →
       (still → (f32 r.1).eq (f32 newest) = true ∧ r.2 = false) ∧
       (¬still → n = 2 → if (Machine.Num.ofInt 1).lt (f32 xa.tau) then r = (0, false)
         else (f32 r.1).eq (f32 newest) = true ∧ r.2 = false) ∧
       (¬still → n = 3 →
         -- the sums of products of the two differences over the active lanes
         let h (p q : Nat) : Machine.Num := ((List.range 1024).filter fun l => act.getLsbD l).foldl (fun acc l =>
           r64 (acc.add false (((x (p + 1) l).sub (x p l)).mul ((x (q + 1) l).sub (x q l))).1).1) (.zero false)
         let limit := ((f32 xa.tau).mul ((h 0 0).add false (h 1 1)).1).1
         let small (d : Machine.Num) : Bool := d.le (.zero false) || d.lt limit || d.isNan
         let l00 := sqrt64 (h 0 0)
         let l10 := div64 (h 1 0) l00
         let d1 := sub64 (h 1 1) (mul64 l10 l10)
         let l11 := sqrt64 d1
         let y0 := div64 (.ofInt 1) l00
         let z1 := div64 (div64 (sub64 (.ofInt 1) (mul64 l10 y0)) l11) l11
         let z0 := div64 (sub64 y0 (mul64 l10 z1)) l00
         let sum (u v : Machine.Num) : Machine.Num := add64 (add64 (.zero false) u) v
         let est := toF32 (sum (mul64 (div64 z0 (sum z0 z1)) (x 1 i)) (mul64 (div64 z1 (sum z0 z1)) (x 2 i)))
         if small (h 0 0) || small d1 then (f32 r.1).eq (f32 newest) = true ∧ r.2 = true
         else r = if (f32 est).isInf then (newest, true) else (est, false)))) ∧
   ∀ (xa : Xa) (act : Mask) (i : Nat), i < 1024 →
     let est : Nat → Word × Bool := if xa.lsq then xa.estLsq act else fun l => estEps (f32 xa.tau) (xa.history.map fun v => lane v l)
     let (v, divz, stag, conv) := xa.estimate act
     let sets : Bool := !xa.lsq || act.getLsbD i
     let within (a b : Word) : Bool :=
       (f32 a).isFinite && (f32 b).isFinite && ((f32 a).sub (f32 b)).abs.le (f32 xa.tol)
     lane v i = (est i).1 ∧ divz.getLsbD i = (sets && (est i).2) ∧
     conv.getLsbD i = (sets && xa.history != [] && within (est i).1 (lane (xa.history.getLastD []) i)) ∧
     stag.getLsbD i = (sets && xa.history != [] && match xa.prev with
       | none => false
       | some p => within (est i).1 (lane p i)))

/-- The frame of the register slots, in a bundle with slots after them: nothing but the context differs, no byte of memory; in
the context only one pending write more, or none, and the place in the bundle. Flags, control registers, special registers,
counters, loops, accumulators and the registers as they are visible stay (R39, R97 to R100). The frame of the vector, mask and
special-function slots whose results go to registers, FMODE enabling no trap, in a bundle with slots after them: nothing but the
context differs, no byte of memory; in the context only pending writes more, flags raised, the active mask of `mact`, the random
and the extrapolation state of the instructions that name them, and the place in the bundle (R162 to R181). The candidate
instructions, which write rows and memory, are left out. -/
def Obligations.SlotFrames : Prop :=
  (∀ (i : Instr) (s t : State) (e : Env), Runs s e → e.mid → isRegisterSlot e i = true →
     (∀ f, i = .div f ∨ i = .rem f → e.sB f ≠ 0) → exec i s = .next t →
     OnlyCtx e.n e.c s t ∧
     ∃ ws : List PWrite, ws.length ≤ 1 ∧
       t.ctx? e.n e.c = some { e.x with
         pend := e.x.pend ++ ws, bundle := some { e.b with cur := e.b.cur + 1 } }) ∧
  (∀ (i : Instr) (s t : State) (e : Env) (f : Fields) (o : OpInfo), Runs s e → e.mid → entry i = some (f, o) →
     (o.cls = 1 ∨ o.cls = 2) → isCandidate i = false → fieldsOk i = true → slotPushes ⟨0, ⟨false, false, false, 0, i⟩⟩ = [] →
       e.b.latch.ctl.te = 0 →
     (∀ g, i = .vquant g ∨ i = .vdeq g → quantOk (e.sB g) = true) → (∀ g, i ≠ .xaInit g) → exec i s = .next t →
     OnlyCtx e.n e.c s t ∧
     ∃ (ws : List PWrite) (fl : BitVec 5) (y : Ctx),
       t.ctx? e.n e.c = some y ∧ y.pend = e.x.pend ++ ws ∧ y.ctl.fflags = e.x.ctl.fflags ||| fl ∧
       { y with
         pend := e.x.pend, bundle := e.x.bundle, rqAhead := e.x.rqAhead
         units := { y.units with xa := e.x.units.xa }
         ctl := { y.ctl with
           fflags := e.x.ctl.fflags, emask := e.x.ctl.emask, rngkey := e.x.ctl.rngkey, qpos := e.x.ctl.qpos } } = e.x ∧
       y.bundle = some { e.b with cur := e.b.cur + 1 } ∧
       ((∀ g, i ≠ .mact g) → y.ctl.emask = e.x.ctl.emask) ∧
       (o.cls = 1 → y.units = e.x.units ∧ y.rqAhead = e.x.rqAhead ∧ y.ctl.rngkey = e.x.ctl.rngkey ∧ y.ctl.qpos = e.x.ctl.qpos))

/-- The formats with their NaN, where they have one, and what an infinity becomes in them: the infinity, or the largest value.
-/
def Sys2Proof.floatFormats : List (Fmt × Option Nat × Bool × Nat) := [
  (fmtE2M1, none, false, 0x7), (fmtE2M3, none, false, 0x1F), (fmtE3M2, none, false, 0x1F), (fmtE4M3, some 0x7F, false, 0x7E),
  (fmtE5M2, some 0x7E, true, 0x7C), (fmtF16, some 0x7E00, true, 0x7C00), (fmtBf16, some 0x7FC0, true, 0x7F80),
  (fmtF32, some 0x7FC00000, true, 0x7F800000)]

/-- Integers that a rounding chooses (R148), for a fraction n / d and a sign: toward zero, toward −∞, toward +∞, and to nearest
with ties to even; exact values stay. Rounding to a format (R148, R151, R152): the value of a finite code gives that code and no
flag, in every mode; a NaN the canonical NaN, or +0 with NV in a format without one; an infinity itself where the format has it,
and else the largest value with NV, or the NaN of E4M3 under E4NAN; a finite value of twice the largest or more overflows with
OF and NX, in RZ to the largest value. -/
def Obligations.RoundingOfFractions : Prop :=
  (∀ (n d r k : Nat) (neg e4 : Bool), 0 < d →
     let a (m : RMode) : Nat := (roundInt ⟨m, e4, r, k⟩ neg n d).1
     (∀ m, (roundInt ⟨m, e4, r, k⟩ neg n d).2 = decide (n % d ≠ 0)) ∧
     (n % d = 0 → ∀ m, a m = n / d) ∧
     a .rz = n / d ∧
     (n % d ≠ 0 → a .rdn = (if neg then n / d + 1 else n / d) ∧ a .rup = (if neg then n / d else n / d + 1)) ∧
     2 * (a .rne * d) ≤ 2 * n + d ∧ 2 * n ≤ 2 * (a .rne * d) + d ∧
     (2 * (a .rne * d) = 2 * n + d ∨ 2 * n = 2 * (a .rne * d) + d → a .rne % 2 = 0) ∧
     (n % d ≠ 0 → a .rs = if r < n % d * 2 ^ k / d then n / d + 1 else n / d)) ∧
  (∀ f nan infinite top, (f, nan, infinite, top) ∈ floatFormats → ∀ rm : Rnd,
     (∀ c, c < 2 ^ f.width → (f.value c).isFinite = true → f.round rm (f.value c) = (c, 0)) ∧
     f.round rm .nan = (match nan with
       | some c => (c, 0)
       | none => (0, 16)) ∧
     (∀ s, let sign := if s then 2 ^ (f.width - 1) else 0;
       f.round rm (.inf s) = (if infinite then (sign + top, 0)
         else if nan ≠ none ∧ rm.e4nan then (0x7F, 16) else (sign + top, 16)) ∧
       ∀ n d e, 0 < n → 0 < d →
         (Machine.Num.fin false n d e).lt ((f.value (if infinite then top - 1 else top)).mul (.ofInt 2)).1 = false →
         f.round rm (.fin s n d e) = (if infinite then
             (match rm.mode with
               | .rne | .rs => sign + top
               | .rz => sign + top - 1
               | .rup => if s then sign + top - 1 else top
               | .rdn => if s then sign + top else top - 1)
           else if nan ≠ none ∧ rm.e4nan then 0x7F else sign + top, 5)))

/-- An operation enters the matrix queue of its core, its context counting it in CNTAS (R192, R201). -/
def Sys2Proof.queued (t : State) (e : Env) (id : Nat) (x : Ctx) (op : MatOp) (reads writes : List (Nat × Nat)) : State :=
  (t.setCtx e.n e.c { x with cnt := { x.cnt with as := x.cnt.as + 1 } }).modCore e.n fun k =>
    { k with queue := k.queue ++ [{ id := id, uid := x.task.uid, ctx := e.c, op := op, reads := reads, writes := writes }] }

/-- A slot whose operation is queued waits at its place until the entry retires (R207, R212). -/
def Sys2Proof.waitingFor (e : Env) (id : Nat) (t : State) : State :=
  ((t.modBundle e.n e.c fun b => { b with answers := tset b.answers e.p.pos (.value (BitVec.ofNat 64 id)) }).modCtx e.n e.c
    fun x => { x with run := .blocked (.entry id) }).release e.n e.c

/-- The slots that queue an operation (R201). -/
def Sys2Proof.queueSlots (f : Fields) : List Instr :=
  [.tmma f, .tmmaCell f, .tspmma f, .tspmma48 f, .tcomp f, .tcomp48 f, .tzero f, .tdrain f, .tdacc f, .tdaccClamp f, .tcall f,
    .tvproj f, .tvprojR f, .tvprojPair f, .tvprojPairR f]

/-- A footprint of an asynchronous operation in the scratchpad is refused exactly where a range of it meets a stash window of
the allocation (R335) or a tile of an edge that is not incident to the context (R260). A slot that would queue an operation
waits (R201, R220): it stalls while entries of its context are parked with a routine, and its bundle blocks while the queue
holds 8 entries. Slots that queue an operation (R189, R201 to R207, R212, R214, R217, R287, R298, R301): the streams' formats
must agree, or ILLEGAL_OPERAND is raised, and so it is for an operand or control word that is not legal; each tile is claimed,
or STREAM is raised, and a slot of a ring is taken, or its room awaited; a footprint in a window or a foreign tile raises
PROTECT (R260, R335); a drain waits while its accumulator is busy; otherwise the operation is queued, with what it latched, and
the bundle goes on, or waits for the entry where it is a `tcomp` or a drain to registers, and goes on when the entry has
retired. That a BF16 drain takes two slots of its ring is log 39. A slot whose entry was queued goes on when the entry has
retired, and waits until then (R207, R212). -/
def Obligations.MatrixSlotsQueue : Prop :=
  (∀ (k : Core) (x : Ctx) (rs : List (Nat × Nat)),
     k.foreignRange x rs = none ↔ ∀ r ∈ rs, k.tilesFree x [(.spad r.1, r.2)] = true ∧
       ∀ y ∈ k.tasks, y.task.spBase = x.task.spBase → ∀ w ∈ y.windows,
         ¬(max r.1 (x.task.spBase + 65536 * w.2.spg) < min (r.1 + r.2) (x.task.spBase + 65536 * (w.2.spg + w.2.npg)))) ∧
  (∀ (s : State) (e : Env) (f : Fields), Runs s e → tget e.b.answers e.p.pos = none → ∀ i ∈ queueSlots f,
     (e.x.parked ≠ [] → exec i s = .next (s.modCtx e.n e.c fun x => { x with stalled := true })) ∧
     (e.x.parked = [] → 8 ≤ (s.core e.n).queue.length →
       exec i s = .next ((s.modCtx e.n e.c fun x => { x with run := .blocked .issue }).release e.n e.c))) ∧
  (∀ (s : State) (e : Env) (f : Fields), Runs s e → tget e.b.answers e.p.pos = none → e.x.parked = [] →
     (s.core e.n).queue.length < 8 →
     let id := s.fresh
     let u := { s with fresh := s.fresh + 1 }
     let trapAt (c : BitVec 8) (a : DWord) : Host.Outcome State Fault Refusal := .next (s.slotTrap e e.p.pos c a)
     let trap (c : BitVec 8) : Host.Outcome State Fault Refusal := trapAt c e.slotAddr
     -- a trap after walks of the tables, and accesses, that have moved the state on
     let trapOn (t : State) (c : BitVec 8) (a : DWord) : Host.Outcome State Fault Refusal := .next (t.slotTrap e e.p.pos c a)
     let block (t : State) (why : Wait) : Host.Outcome State Fault Refusal :=
       .next ((t.modCtx e.n e.c fun x => { x with run := .blocked why }).release e.n e.c)
     -- the operation enters the queue unless its footprint is refused, and the bundle goes on, or waits for the entry
     let enter (k : State → State) (t : State) (x : Ctx) (op : MatOp) (reads writes : List (Nat × Nat)) :
         Host.Outcome State Fault Refusal :=
       match (t.core e.n).foreignRange x (reads ++ writes) with
       | some a => trapAt 0x0A a
       | none => .next (k (queued t e id x op reads writes))
     let go := enter fun t => t.advance e
     let goLater := enter (waitingFor e id)
     let a := f.a.toNat
     let b := f.b.toNat
     let d := f.d.toNat
     let st (n : Nat) : Stream := e.x.stream s.clock n
     let claim (x : Ctx) (n k : Nat) : Option (Ctx × List Tile) := x.claimTiles s.clock n id k
     -- products of dense tiles
     (∀ i ∈ [Instr.tmma f, .tmmaCell f],
       (pairOk (st a) (st b) = false → exec i s = trap 0x04) ∧
       (pairOk (st a) (st b) = true → claim e.x a 1 = none → exec i s = trap 0x19) ∧
       ∀ y ts, pairOk (st a) (st b) = true → claim e.x a 1 = some (y, ts) → claim y b 1 = none → exec i s = trap 0x19) ∧
     (∀ y z t v, pairOk (st a) (st b) = true → claim e.x a 1 = some (y, [t]) → claim y b 1 = some (z, [v]) →
       exec (.tmma f) s = go u z (.mma d t v none) (t.ranges ++ v.ranges) [] ∧
       exec (.tmmaCell f) s = go u z (.mma d t v (some e.x.units.cell)) (t.ranges ++ v.ranges) []) ∧
     -- products of compressed tiles
     (let ok := (st a).cmp = true ∧ (st (a + 1)).cmp = false ∧ formatGroup (st a).fmt = formatGroup (st (a + 1)).fmt;
       (∀ i ∈ [Instr.tspmma f, .tspmma48 f],
         (¬ok → exec i s = trap 0x04) ∧ (ok → claim e.x a 1 = none → exec i s = trap 0x19) ∧
         ∀ y ts, ok → claim e.x a 1 = some (y, ts) → claim y (a + 1) 2 = none → exec i s = trap 0x19) ∧
       ∀ y z t v w, ok → claim e.x a 1 = some (y, [t]) → claim y (a + 1) 2 = some (z, [v, w]) →
         exec (.tspmma f) s = go u z (.spmma false d t v w [e.b.latch.vreg b, e.b.latch.vreg (b + 1)])
           (t.ranges ++ v.ranges ++ w.ranges) [] ∧
         exec (.tspmma48 f) s = go u z (.spmma true d t v w
           [e.b.latch.vreg b, e.b.latch.vreg (b + 1), e.b.latch.vreg (b + 2)]) (t.ranges ++ v.ranges ++ w.ranges) []) ∧
     -- compression
     (let ok := (st a).cmp = false ∧ (st b).cmp = true ∧ (st a).fmt = (st b).fmt;
       (∀ i ∈ [Instr.tcomp f, .tcomp48 f],
         (¬ok → exec i s = trap 0x04) ∧ (ok → claim e.x a 2 = none → exec i s = trap 0x19) ∧
         ∀ y t v, ok → claim e.x a 2 = some (y, [t, v]) →
           ((st b).takeTail y.task b 1 = .short → exec i s = trap 0x19) ∧
           ((st b).takeTail y.task b 1 = .wait → exec i s = block u (.room b 1))) ∧
       ∀ y t v x' o, ok → claim e.x a 2 = some (y, [t, v]) → (st b).takeTail y.task b 1 = .tiles x' [o] →
         exec (.tcomp f) s = goLater u (y.setStream s.clock b x') (.comp false d t v o) (t.ranges ++ v.ranges) o.ranges ∧
         exec (.tcomp48 f) s = goLater u (y.setStream s.clock b x') (.comp true d t v o) (t.ranges ++ v.ranges) o.ranges) ∧
     -- accumulators and routines
     exec (.tzero f) s = go u e.x (.zero d) [] [] ∧
     ((e.sA f).toNat < 4096 → exec (.tcall f) s = go u e.x (.call (e.sA f).toNat e.b.latch.ctl.status) [] []) ∧
     (4096 ≤ (e.sA f).toNat → exec (.tcall f) s = trap 0x04) ∧
     -- accumulation into rows
     (let stride := if f.b = 0 then 512 else e.sB f;
       (∀ i ∈ [Instr.tdacc f, .tdaccClamp f],
         ((e.sA f).toNat % 512 ≠ 0 → exec i s = trapAt 0x08 (e.sA f)) ∧
         ((e.sA f).toNat % 512 = 0 → stride.toNat % 512 ≠ 0 → exec i s = trapAt 0x08 (e.sA f + stride)) ∧
         ∀ g, (e.sA f).toNat % 512 = 0 → stride.toNat % 512 = 0 → u.daccRows e.n e.px (e.sA f) stride = .error g →
           exec i s = trapOn g.s g.cause g.taddr) ∧
       ∀ t rows, (e.sA f).toNat % 512 = 0 → stride.toNat % 512 = 0 → u.daccRows e.n e.px (e.sA f) stride = .ok (t, rows) →
         let spad := rows.filterMap fun r => match r with | .spad x => some (x, 512) | _ => none
         let y := ((t.core e.n).findTask e.x.task.uid).getD e.x
         -- a row in memory makes it an irrevocable act
         let outside := rows.any fun r => match r with | .mem _ _ => true | _ => false
         let z : Ctx := if outside then { y with buf := { y.buf with irrevocable := true } } else y
         exec (.tdacc f) s = go t z (.dacc false d rows) spad spad ∧
         exec (.tdaccClamp f) s = go t z (.dacc true d rows) spad spad) ∧
     -- drains
     ((s.core e.n).accBusy e.x d = true → exec (.tdrain f) s = block u (.acc d)) ∧
     ((s.core e.n).accBusy e.x d = false →
       let epi := e.x.units.epi
       let qt := epiQt epi
       let bias := e.x.task.spBase + epiField epi 12 4
       let reads := if epiFlag epi 0 then [(bias, 512)] else []
       let op (x : DrainDest) (p : PassLatch) : MatOp := .drain d epi e.b.latch.ctl.e4nan bias x p
       let v := (e.sA f).toNat
       let n := v / 16 % 16 + 1
       (epiDest epi = 0 →
         let ok := v < 2 ^ 15 ∧ v % 16 + n ≤ 16 ∧ v / 256 % 128 + n * (4096 / drainWidth qt) ≤ 128
         (¬ok → exec (.tdrain f) s = trap 0x04) ∧ (ok → e.x.task.hdr.nv < v % 16 + n → exec (.tdrain f) s = trap 0x05) ∧
         (ok → v % 16 + n ≤ e.x.task.hdr.nv →
           exec (.tdrain f) s = goLater u e.x (op (.regs (v % 16) n (v / 256 % 128)) {}) reads [])) ∧
       (epiDest epi = 1 →
         let r := epiField epi 4 1
         let bands := e.x.task.spBase + epiField epi 24 4
         let bandWrite := if qt = 3 then [(bands, 4)] else []
         let slots := if qt = 1 then 2 else 1
         (e.sA f ≠ 0 → exec (.tdrain f) s = trap 0x04) ∧
         (e.sA f = 0 → e.x.task.hdr.nst ≤ r → exec (.tdrain f) s = trap 0x05) ∧
         (e.sA f = 0 → r < e.x.task.hdr.nst → ((st r).fmt ≠ ringFmt qt ∨ (st r).cmp = true) → exec (.tdrain f) s = trap 0x04) ∧
         (e.sA f = 0 → r < e.x.task.hdr.nst → (st r).fmt = ringFmt qt → (st r).cmp = false →
           ((st r).fill = 0 → (st r).takeTail e.x.task r slots = .short → exec (.tdrain f) s = trap 0x19) ∧
           ((st r).fill = 0 → (st r).takeTail e.x.task r slots = .wait → exec (.tdrain f) s = block u (.room r slots)) ∧
           (∀ y ts, (st r).fill = 0 → (st r).takeTail e.x.task r slots = .tiles y ts →
             exec (.tdrain f) s = go u (e.x.setStream s.clock r { y with
                 fill := if qt = 3 then (64 : Nat) else 0 })
               (op (.ring ts 0 bands) {}) reads (ts.flatMap Tile.ranges ++ bandWrite)) ∧
           ((st r).fill ≠ 0 →
             -- the second half of the slot that the drain before filled half
             let t := (st r).tileAt e.x.task r ((st r).ahead (st r).tail ((st r).slots - 1))
             exec (.tdrain f) s = go u (e.x.setStream s.clock r { st r with
                 fill := 0 })
               (op (.ring [t] (st r).fill bands) {}) reads ([t].flatMap Tile.ranges ++ bandWrite)))) ∧
       (2 ≤ epiDest epi →
         (e.sA f ≠ 0 → exec (.tdrain f) s = trap 0x04) ∧
         (e.sA f = 0 → e.x.task.hdr.cf = false → exec (.tdrain f) s = trap 0x05) ∧
         (e.sA f = 0 → e.x.task.hdr.cf = true → controlBlock e.x.units.cand.path 128 128 = none →
           exec (.tdrain f) s = trap 0x04) ∧
         ∀ k g, e.sA f = 0 → e.x.task.hdr.cf = true → controlBlock e.x.units.cand.path 128 128 = some (k, g) →
           (∀ t cause at_, u.latchPass e k true [] = .trap t cause at_ → exec (.tdrain f) s = trapOn t cause at_) ∧
           (∀ t, u.latchPass e k true [] = .wait t → exec (.tdrain f) s = block t .read) ∧
           ∀ t p, u.latchPass e k true [] = .pass t p →
             exec (.tdrain f) s = go t (t.ctx e.n e.c) (op (.cand e.x.units.cand.path) p) reads [])) ∧
     -- projections
     (let ctl := e.sB f;
       let regen := ctl.getLsbD 47
       let two := [a, a + 1]
       let four := [a, a + 1, a + 2, a + 3]
       let whole := replayRange e.b.latch.ctl.rngsrc (projBlock ctl).rows
       let q (ts : List Tile) (i : Nat) : Tile := ts.getD i ⟨0, 0, 0, 0, false⟩
       ∀ i ok sts uniforms extra op, (i, ok, sts, uniforms, extra, op) ∈ ([
           (.tvproj f, projOk ctl true && pairOk (st a) (st (a + 1)), two, !regen, [],
             fun ts p => .vproj false regen d (q ts 0) (q ts 1) ctl p),
           (.tvprojR f, projOk ctl false && pairOk (st a) (st (a + 1)), two, !regen, [],
             fun ts p => .vproj true regen d (q ts 0) (q ts 1) ctl p),
           (.tvprojPair f, projOk ctl false && pairOk (st a) (st (a + 1)) && pairOk (st (a + 2)) (st (a + 3)), four, true,
             whole,
             fun ts p => .vprojPair false d ts ctl p),
           (.tvprojPairR f, projOk ctl false && pairOk (st a) (st (a + 1)) && pairOk (st (a + 2)) (st (a + 3)), four, true,
             whole,
             fun ts p => .vprojPair true d ts ctl p)] :
           List (Instr × Bool × List Nat × Bool × List (DWord × Nat) × (List Tile → PassLatch → MatOp))) →
         (ok = false → exec i s = trap 0x04) ∧
         (ok = true → e.x.task.hdr.cf = false → exec i s = trap 0x05) ∧
         (ok = true → e.x.task.hdr.cf = true →
           (∀ t cause at_, u.latchPass e (projBlock ctl) uniforms extra = .trap t cause at_ → exec i s = trapOn t cause at_) ∧
           (∀ t, u.latchPass e (projBlock ctl) uniforms extra = .wait t → exec i s = block t .read) ∧
           ∀ t p, u.latchPass e (projBlock ctl) uniforms extra = .pass t p →
             ((t.ctx e.n e.c).claimEach t.clock id sts = none → exec i s = trap 0x19) ∧
             ∀ x ts, (t.ctx e.n e.c).claimEach t.clock id sts = some (x, ts) →
               exec i s = go t x (op ts p) (ts.flatMap Tile.ranges) []))) ∧
  (∀ (s : State) (e : Env) (f : Fields) (v : DWord), Runs s e → tget e.b.answers e.p.pos = some (.value v) →
     ∀ i ∈ queueSlots f,
       ((∀ m ∈ (s.core e.n).entriesOf e.x, m.id ≠ v.toNat) → exec i s = .next (s.advance e)) ∧
       ((∃ m ∈ (s.core e.n).entriesOf e.x, m.id = v.toNat) → exec i s = .next
         ((s.modCtx e.n e.c fun x => { x with run := .blocked (.entry v.toNat) }).release e.n e.c)))

/-- The T-class slots that act at once (R203, R210, R213, R215, R217, R219): `tread` copies rows of an accumulator that is not
busy; `tcellp` sets a legal cell pattern; `mpset` and `mpset.add` write a matrix parameter when no routine of the context is
queued or runs; `epi.set` and `rst.load` read their image as a blocking load does and take it when it is legal; the words of a
routine raise ILLEGAL_OP. -/
def Obligations.MatrixSlotsAct : Prop :=
  ∀ (s : State) (e : Env) (f : Fields), Runs s e →
    let trap (c : BitVec 8) (a : DWord) : Host.Outcome State Fault Refusal := .next (s.slotTrap e e.p.pos c a)
    let a := e.sA f
    let pat : BitVec 128 := e.sB f ++ e.sA f
    ((s.core e.n).accBusy e.x f.a.toNat = false → ∃ v : Lanes,
      (∀ k, k < 1024 → lane v k = mget 0 (e.x.accumulator f.a.toNat) (1024 * ((e.sB f).toNat % 16) + k)) ∧
      exec (.tread f) s = .next ((s.writeVec e f.d.toNat 1 (BitVec.allOnes 1024) v).advance e)) ∧
    ((∀ j, j < 64 → ¬(pat.getLsbD (2 * j) = true ∧ pat.getLsbD (2 * j + 1) = true)) → exec (.tcellp f) s = .next
      ((s.setCtx e.n e.c { e.x with units := { e.x.units with cell := pat } }).advance e)) ∧
    ((∃ j, j < 64 ∧ pat.getLsbD (2 * j) = true ∧ pat.getLsbD (2 * j + 1) = true) → exec (.tcellp f) s = trap 0x04 e.slotAddr) ∧
    ((s.core e.n).ownRoutine e.x = false →
      exec (.mpset f) s = .next ((s.setCtx e.n e.c (e.x.push 1 (.mp f.d.toNat a))).advance e) ∧
      exec (.mpsetAdd f) s =
        .next ((s.setCtx e.n e.c (e.x.push 1 (.mp f.d.toNat (mget 0 e.b.latch.regs.mp f.d.toNat + a)))).advance
        e)) ∧
    (a.toNat % 256 ≠ 0 → exec (.epiSet f) s = trap 0x08 a) ∧
    (∀ t bs, a.toNat % 256 = 0 → s.readBlocking e a 256 = .data t bs → epiOk (byteTable bs) = true →
      epiFits (byteTable bs) e.x.task.spSize = true → exec (.epiSet f) s = .next
        ((t.modCtx e.n e.c fun x => { x with units := { x.units with epi := byteTable bs } }).advance e)) ∧
    (let off := (e.sB f).toNat % 4096
      let c := (e.sB f).toNat / 4096
      (c = 0 ∨ 4096 < off + c → exec (.rstLoad f) s = trap 0x04 e.slotAddr) ∧
      ∀ t bs, c ≠ 0 → off + c ≤ 4096 → a.toNat % 4 = 0 → (s.core e.n).routine = none →
        (∀ x ∈ (s.core e.n).tasks, x.parkedRoutine = none) → s.readBlocking e a (4 * c) = .data t bs → bs.length = 4 * c →
        (t.ctx? e.n e.c).isSome = true →
        ∃ u : State, exec (.rstLoad f) s = .next (u.advance e) ∧ ∀ w, mget 0 (u.core e.n).rstore w
          = if off ≤ w ∧ w < off + c then leWord 32 ((bs.drop (4 * (w - off))).take 4)
            else mget 0 (t.core e.n).rstore w) ∧
    exec .tret s = trap 0x02 e.slotAddr ∧ exec (.tloop f) s = trap 0x02 e.slotAddr ∧ exec .tstep s = trap 0x02 e.slotAddr

/-- A routine of an engine runs its own words (R218): what the acting engine, its routine and its caller are. -/
structure Sys2Proof.EngineRuns (s : State) (v : RoutineEnv) : Prop where
  actor : s.actor = .engine v.n
  routine : (s.core v.n).routine = some v.r
  caller : (s.core v.n).findTask v.r.uid = some v.x

/-- The words of a routine (R217 to R221): `tret` ends it, its entry done; `tloop` of count 0 goes past its loop, and of another
count starts its first pass, unless four loops run, which is an ILLEGAL_OPERAND error; `tstep` goes on, or parks the routine and
its context's entries when its context has been suspended, which saves the routine state, or an action is due: the context is
suspended, or the core switches contexts; `mpset`, `mpset.add` and `tcellp` write the caller's registers, in its save area too
where it is suspended, and the routine goes on at the next word. That a word is one step of the engine, and where a loop ends,
is log 41. Where a routine goes on (R219): at a word within its innermost loop, else at the loop's first word while passes
remain, and after its last pass past it. -/
def Obligations.RoutinesRun : Prop :=
  (∀ (s : State) (v : RoutineEnv) (f : Fields), EngineRuns s v →
     let r := v.r
     let first := r.word + 1
     let stop := first + f.d.toNat
     let c := (mget 0 v.x.regs.mp f.a.toNat).toNat % 2 ^ 32
     let at_ (r : Routine) (t : State) : Host.Outcome State Fault Refusal := .next (t.modCore v.n fun k => { k with routine := some r })
     let pat : BitVec 128 := mget 0 v.x.regs.mp f.b.toNat ++ mget 0 v.x.regs.mp f.a.toNat
     exec .tret s = .next (s.modCore v.n fun k =>
       { k with routine := none, queue := k.queue.map fun m => if m.id = r.entry then { m with done := true } else m }) ∧
     (c = 0 → exec (.tloop f) s = at_ (r.goTo stop 5) s) ∧
     (c ≠ 0 → r.loops.length < 4 → exec (.tloop f) s = at_ { r with word := first, loops := ⟨first, stop, c⟩ :: r.loops } s) ∧
     (c ≠ 0 → 4 ≤ r.loops.length → exec (.tloop f) s = .next (s.routineError v.n r 0x04 none r.word)) ∧
     -- the routine and the entries of its context leave the queue, to enter it again when the context goes on
     (let parked (t : State) : State :=
         let u := (t.modCore v.n fun k =>
           { k with routine := none, queue := k.queue.filter fun m => m.uid != r.uid }).modCore v.n fun k => k.modTask r.uid fun x =>
           { x with parkedRoutine := some (r.goTo first 5), parked := (t.core v.n).queue.filter fun m => m.uid = r.uid };
         match tget (u.core v.n).suspended r.uid with
         | some y => if y.ctx.run = .ended then u else u.saveRegions v.n y.ctx [routineRegion]
         | none => u;
       ((s.core v.n).ctxs.find? (fun e => e.2.task.uid = r.uid) = none → exec .tstep s = .next (parked s)) ∧
       ∀ c x, (s.core v.n).ctxs.find? (fun e => e.2.task.uid = r.uid) = some (c, x) →
         let due : Prop := x.actionDue = true ∧ x.leg.draining = false
         let leaves : Prop := x.leg.energy = true ∨ ((s.core v.n).otherReady c = false ∧ s.taskWaits v.n c = true)
         let u := s.modCtx v.n c fun x => { x with leg := {} }
         (¬due → exec .tstep s = at_ (r.goTo first 5) s) ∧
         (s.ctx v.n c = x → due → leaves → exec .tstep s = .next ((parked s).suspend v.n c x.leg.energy)) ∧
         (s.ctx v.n c = x → due → ¬leaves → exec .tstep s = if (s.core v.n).otherReady c then .next ((parked u).release v.n c)
           else at_ (r.goTo first 5) u)) ∧
     -- a write of a matrix parameter, which goes to the save area of a suspended context too
     (let write (w : DWord) : Host.Outcome State Fault Refusal :=
         let t := s.modCore v.n fun k => k.modTask r.uid fun x =>
           { x with
             regs := { x.regs with mp := mset 0 x.regs.mp f.d.toNat w }
             dirty := x.dirty.or (RegWrite.mp f.d.toNat 0).named
             absent := x.absent.without { mp := setBit 0 f.d.toNat true } };
         at_ (r.goTo first 5) (match tget (t.core v.n).suspended r.uid with
           | some y => t.saveStore v.n y.ctx (0x330 + 8 * f.d.toNat) (wordLe 8 w)
           | none => t);
       exec (.mpset f) s = write (mget 0 v.x.regs.mp f.a.toNat) ∧
       exec (.mpsetAdd f) s = write (mget 0 v.x.regs.mp f.d.toNat + mget 0 v.x.regs.mp f.a.toNat)) ∧
     ((∀ j, j < 64 → ¬(pat.getLsbD (2 * j) = true ∧ pat.getLsbD (2 * j + 1) = true)) → exec (.tcellp f) s = at_ (r.goTo first 5)
       (s.modCore v.n fun k => k.modTask r.uid fun x => { x with units := { x.units with cell := pat } })) ∧
     (∀ i ∈ [Instr.tcomp f, .tcomp48 f, .tread f, .tcall f, .epiSet f, .rstLoad f, .tvproj f, .tvprojR f, .tvprojPair f,
         .tvprojPairR f], exec i s = .next (s.routineError v.n r 0x02 none r.word))) ∧
  (∀ (r : Routine) (w : Nat) (l : RLoop) (ls : List RLoop), r.loops.length ≤ 4 → r.loops = l :: ls →
     (w < l.stop → r.goTo w 5 = { r with word := w }) ∧
     (l.stop ≤ w → 1 < l.left → r.goTo w 5 = { r with word := l.first, loops := { l with left := l.left - 1 } :: ls }) ∧
     (l.stop ≤ w → l.left ≤ 1 → r.goTo w 5 = { r with loops := ls }.goTo w 5))

/-- The term of a pair of element values under a cell code (R203, R204): their product, their absolute difference, or the first
where it is not below the second and else +0; a NaN factor makes every term NaN. -/
def Sys2Proof.termOf (code : Nat) (x y : Machine.Num) : Machine.Num :=
  if x.isNan || y.isNan then .nan
  else if code = 1 then (x.add false y.negate).1.abs
  else if code = 2 then (if y.lt x || y.eq x then x else .zero false)
  else (x.mul y).1

/-- The engine executes the entry at the head of its queue, when nothing issued before it holds it (R191), and retires it when
it is done (R189, R201, R209, R217): `tzero` clears its accumulator, a product adds into its own, a `tcall` starts its routine
at its word; data of a marked block that an entry reads leaves the trap that is deferred (R353). Retiring takes the entry out,
frees the tiles that it claimed, takes it out of CNTAS, and adds its counts to XCNT, where each stops at 2^32 − 1; in a buffer
phase they are held. An element of an accumulator after a product of two dense tiles (R133, R156, R157, R203, R204): from the
element before it, chunk by chunk in ascending K, the sum with the exact sum of the terms of the chunk, rounded to nearest even.
The cell pattern governs the term of position k by its entry floor(k b / 8) div 2, for b bits per element; `tmma` has the
pattern of products. A chunk is NaN where a term is or infinities of both signs are, infinite where a term is, and else its
exact sum, with +0 for a zero. -/
def Obligations.EntriesExecuteAndRetire : Prop :=
  (∀ (s : State) (n c : Nat) (m : MatEntry) (ms : List MatEntry) (x : Ctx), (s.core n).queue = m :: ms →
     s.ctx? n c = some x → (s.core n).findTask m.uid = some x → (∀ e ∈ (s.core n).tasks, e.task.uid = m.uid → e = x) →
     (∀ m' ∈ ms, m'.id ≠ m.id) →
     let u := { s with input := .none }
     let owner (t : State) (g : Ctx → Ctx) : State := t.modCore n fun k => k.modTask m.uid g
     let finished (k : Core) (m : MatEntry) : Core := { k with queue := m :: ms }
     let seen (t : State) : State := t.uncorrAt n m.uid m.id (u.entryBad n x m.op m.reads)
     (m.done = false → (s.core n).routine = none → (s.core n).holds m.id m.reads m.writes = false →
       (s.core n).routineHeld m = false → s.input = .matrixEntryExecute n →
       (∀ d, m.op = .zero d → exec .matrixEntryExecute s = .next ((seen (owner u fun y =>
         { y with units := { y.units with acc := mset [] y.units.acc d [] } })).modCore n fun k => finished k { m with done := true })) ∧
       (∀ d a b cell, m.op = .mma d a b cell →
         let r := tileProduct (s.core n).spad (x.accumulator d) a b (cell.getD 0)
         let put (y : Ctx) : Ctx := { y with units := { y.units with acc := mset [] y.units.acc d r.1 } }
         exec .matrixEntryExecute s = .next ((seen (owner u put)).modCore n fun k =>
           finished k { m with done := true, xof := m.xof + r.2.1, xnv := m.xnv + r.2.2 })) ∧
       (∀ w st, m.op = .call w st → x.parkedRoutine = none → exec .matrixEntryExecute s = .next
         ((seen (owner (u.modCore n fun k => { k with routine := some { uid := m.uid, entry := m.id, word := w, status := st } })
           fun y => { y with parkedRoutine := none })).modCore n fun k => finished k { m with done := false }))) ∧
     (m.done = true → s.input = .matrixEntryRetire n →
       ∃ t, exec .matrixEntryRetire s = .next t ∧ (t.core n).queue = ms ∧
         ∃ y, t.ctx? n c = some y ∧ y.cnt.as = x.cnt.as - 1 ∧ y.regs = x.regs ∧ y.units.acc = x.units.acc ∧
           y.units.st = x.units.st.map (fun e => (e.1, e.2.release m.id)) ∧
           let of_ (x : DWord) : Nat := (x.extractLsb' 32 32).toNat
           let nv (x : DWord) : Nat := (x.extractLsb' 0 32).toNat
           -- OFCNT and NVCNT, or what is held of them
           of_ y.ctl.xcnt = (if x.task.record.prot then of_ x.ctl.xcnt else min (2 ^ 32 - 1) (of_ x.ctl.xcnt + m.xof)) ∧
           nv y.ctl.xcnt = (if x.task.record.prot then nv x.ctl.xcnt else min (2 ^ 32 - 1) (nv x.ctl.xcnt + m.xnv)) ∧
           y.buf.xof = (if x.task.record.prot then x.buf.xof + m.xof else x.buf.xof) ∧
           y.buf.xnv = (if x.task.record.prot then x.buf.xnv + m.xnv else x.buf.xnv))) ∧
  ((∀ (mem : SMap Byte) (acc : SMap Word) (a b : Tile) (pat : BitVec 128) (m n : Nat), m < 128 → n < 128 →
     let bits := if a.fmt = 0 then 4 else if a.fmt = 5 ∨ a.fmt = 6 then 16 else 8
     let chunks := (chunksOf a.fmt (a.values mem m).zipIdx).zip (chunksOf b.fmt (b.values mem n))
     let code (k : Nat) : Nat := (pat.extractLsb' (2 * (k * bits / 8 / 2)) 2).toNat
     mget 0 (tileProduct mem acc a b pat).1 (128 * m + n)
       = chunks.foldl (fun (x : Word) c => toF32 ((f32 x).add false (chunkSum ((c.1.zip c.2).map fun p =>
           termOf (code p.1.2) p.1.1 p.2))).1) (mget 0 acc (128 * m + n))) ∧
   ∀ ts : List Machine.Num,
     ((∃ t ∈ ts, t = .nan) ∨ (.inf false ∈ ts ∧ .inf true ∈ ts) → chunkSum ts = .nan) ∧
     (∀ s, (∀ t ∈ ts, t ≠ .nan ∧ t ≠ .inf !s) → .inf s ∈ ts → chunkSum ts = .inf s) ∧
     ((∀ t ∈ ts, t.isFinite = true) → (∀ t ∈ ts, t.isZero = false) →
       let sum := ts.foldl (fun x t => (x.add false t).1) (.zero false)
       chunkSum ts = if sum.isZero then .zero false else sum))

/-- Writing candidate rows, the grammar mask and PATH (R284, R285, R292, R296, R299, R301, R302): `cf.clear` resets every row
but its labels' tokens, `cf.clear.all` those too and the mask; `cf.label`, `cf.norm`, `cf.norm.d` and `cf.race` write the fields
of one row and leave the others; `cf.mask`, `cf.mask.off` and `cf.merge.p` act from the next bundle on. An operand out of its
range raises ILLEGAL_OPERAND and changes nothing. -/
def Obligations.CandidateFileIsWritten : Prop :=
  ∀ (s : State) (e : Env) (f : Fields), Runs s e →
    let c := e.x.units.cand
    let a := (e.sA f).toNat
    let b := (e.sB f).toNat
    let lo : Word := (e.sB f).extractLsb' 0 32
    let hi : Word := (e.sB f).extractLsb' 32 32
    let ctx (x : Ctx) : Host.Outcome State Fault Refusal := .next ((s.setCtx e.n e.c x).advance e)
    let illegal : Host.Outcome State Fault Refusal := .next (s.slotTrap e e.p.pos 0x04 e.slotAddr)
    let rows (i : Instr) (g : Nat → Row) : Prop := ∃ d : Cand, d.path = c.path ∧ d.mask = c.mask ∧ (∀ k, d.row k = g k) ∧
      exec i s = ctx (e.x.modCand fun _ => d)
    let row (i : Instr) (r : Nat) (x : Row) : Prop := rows i fun k => if k = r then x else c.row k
    let normal : Prop := (lo = 0xFF800000 ∧ hi = 0) ∨
      ((f32 lo).isFinite = true ∧ (f32 hi).isFinite = true ∧ (f32 hi).lt (f32 0x3F800000) = false)
    rows .cfClear (fun k => { ltok := (c.row k).ltok }) ∧
    exec .cfClearAll s = ctx ((e.x.modCand fun _ => { c with rows := [] }).push 1 (.grammar none)) ∧
    exec .cfMaskOff s = ctx (e.x.push 1 (.grammar none)) ∧
    (let l := a / 256
      let x := c.row (a % 128)
      a < 2048 → a / 128 % 2 = 0 → b < 2 ^ 32 → row (.cfLabel f) (a % 128) { x with
        ltok := x.ltok.set l lo, lt := x.lt.set l 0xFF800000, ld := x.ld.set l 0xFF800000, lu := x.lu.set l 0
        lcap := x.lcap &&& ~~~(1#8 <<< l) }) ∧
    (2048 ≤ a ∨ a / 128 % 2 = 1 ∨ 2 ^ 32 ≤ b → exec (.cfLabel f) s = illegal) ∧
    (a < 128 → normal → row (.cfNorm f) a { c.row a with mt := lo, st := hi } ∧
      row (.cfNormD f) a { c.row a with mdr := lo, sdr := hi }) ∧
    (128 ≤ a ∨ ¬normal → exec (.cfNorm f) s = illegal ∧ exec (.cfNormD f) s = illegal) ∧
    (a < 128 → b ≤ 2 → row (.cfRace f) a { c.row a with rmode := lo, key := 0x7F800000, rtok := 0xFFFFFFFF }) ∧
    (128 ≤ a ∨ 3 ≤ b → exec (.cfRace f) s = illegal) ∧
    (a % 8 = 0 → b < 2 ^ 32 → b % 8 = 0 → exec (.cfMask f) s = ctx (e.x.push 1 (.grammar (some (e.sA f, lo))))) ∧
    (a % 8 ≠ 0 ∨ 2 ^ 32 ≤ b ∨ b % 8 ≠ 0 → exec (.cfMask f) s = illegal) ∧
    (let legal : Prop := b < 2 ^ 56 ∧ b / 2 ^ 47 % 2 = 0 ∧ b / 2 ^ 39 % 2 = 0 ∧
        b / 2 ^ 48 % 128 + b / 2 ^ 32 % 128 < 128 ∧ b % 2 ^ 32 + b / 2 ^ 40 % 128 < 2 ^ 32;
      (legal → exec (.cfMergeP f) s = ctx (e.x.push 1 (.path (e.sB f)))) ∧ (¬legal → exec (.cfMergeP f) s = illegal))

/-- Values merged into rows, rows read, spilled and merged again (R288 to R291, R299, R300): `cf.merge` folds the lanes of a
block that are active and not masked into their rows in ascending token order, and counts NaNs in NVCNT; `cf.read` delivers rows
to the lanes of a vector; `cf.spill` stores images, and an image gives its row back; `cf.xmerge` combines images in a fixed
tree. -/
def Obligations.CandidateRowsMerge : Prop :=
  (∀ (s : State) (e : Env) (f : Fields), Runs s e →
    let c := e.x.units.cand
    let a := e.sA f
    let b := (e.sB f).toNat
    let trap (cause : BitVec 8) (taddr : DWord) : Host.Outcome State Fault Refusal := .next (s.slotTrap e e.p.pos cause taddr)
    (∀ k b2 t p, controlBlock (e.sB f) 16 64 = some (k, b2) → s.latchPass e k true [] = .pass t p →
      let x (j i : Nat) : Word × Nat := baseTwo (!b2) (lane (e.vecA f) (64 * j + i))
      let row (j : Nat) : Row := (List.range k.toks).foldl (fun (r : Row) i =>
        if p.isMasked j i || !e.b.latch.active.getLsbD (64 * j + i) then r
        else r.statistics (x j i).1 none (k.id i) fun _ => logUniform (p.word j i (k.r0 + j) (k.id i))) (c.row (k.r0 + j))
      ∃ d : Cand, d.path = c.path ∧ d.mask = c.mask ∧
        (∀ r, d.row r = if k.r0 ≤ r ∧ r < k.r0 + k.rows then row (r - k.r0) else c.row r) ∧
        exec (.cfMerge f) s = .next ((t.modCtx e.n e.c fun y => (y.modCand fun _ => d).countX 0
          ((List.range k.rows).map fun j => ((List.range k.toks).map fun i => (x j i).2).sum).sum).advance e)) ∧
    (controlBlock (e.sB f) 16 64 = none → exec (.cfMerge f) s = trap 0x04 e.slotAddr) ∧
    (a.toNat < 128 → ∃ v : Lanes, (∀ j i, j < 16 → i < 64 →
        lane v (64 * j + i) = if 128 ≤ a.toNat + j then 0 else (c.row (a.toNat + j)).readLane f.b.toNat i) ∧
      exec (.cfRead f) s = .next ((s.writeVec e f.d.toNat 12 (BitVec.allOnes 1024) v).advance e)) ∧
    (128 ≤ a.toNat → exec (.cfRead f) s = trap 0x04 e.slotAddr) ∧
    (b = 0 ∨ 128 < b → exec (.cfSpill f) s = trap 0x04 e.slotAddr) ∧
    (1 ≤ b → b ≤ 128 → a.toNat % 64 ≠ 0 → exec (.cfSpill f) s = trap 0x08 a) ∧
    (1 ≤ b → b ≤ 128 → a.toNat % 64 = 0 →
      (∀ g, s.spillPlaces e a b = .error g → exec (.cfSpill f) s = .next (g.s.slotTrap e e.p.pos g.cause g.taddr)) ∧
      ∀ t, s.spillPlaces e a b = .ok t →
        -- a row whose bytes another access still uses holds the bundle (R121, R191)
        ((∃ r < b, t.rowBusy e (a + BitVec.ofNat 64 (1024 * r)) = true) →
          exec (.cfSpill f) s = .next (s.modCtx e.n e.c fun x => { x with stalled := true })) ∧
        ((∀ r < b, t.rowBusy e (a + BitVec.ofNat 64 (1024 * r)) = false) → exec (.cfSpill f) s = .next
          (((List.range b).foldl (fun u r => u.spillRow e (a + BitVec.ofNat 64 (1024 * r)) (c.row r)) t).advance e))) ∧
    (∀ n m t tab u bss, b = n + 256 * m → 1 ≤ n → n ≤ 128 → 1 ≤ m → m ≤ 64 → a.toNat % 8 = 0 →
      s.readRanges e [(a, 8 * m)] = .data t [tab] →
      let images := (List.range m).map fun i => BitVec.ofNat 64 (fieldAt tab (8 * i) 8)
      (∀ v ∈ images, v.toNat % 64 = 0) → t.readRanges e (images.map fun v => (v, 1024 * n)) = .data u bss →
      ∃ d : Cand, (∀ r, d.row r = if r < n then combineTree 6 (bss.map fun bs => rowOfImage ((bs.drop (1024 * r)).take 1024))
          else (u.ctx e.n e.c).units.cand.row r) ∧
        exec (.cfXmerge f) s = .next ((u.modCtx e.n e.c fun x => x.modCand fun _ => d).advance e))) ∧
  -- an image
  (∀ x : Row, x.ent.length ≤ 64 → x.ltok.length = 8 → x.lt.length = 8 → x.ld.length = 8 → x.lu.length = 8 →
    x.image.length = 1024 ∧ rowOfImage x.image = x) ∧
  -- the tree: images merged in groups of 2^j, and then the groups
  ∀ (j m : Nat) (rs : List Row), rs ≠ [] →
    combineTree (j + m) rs = combineTree m ((rs.toChunks (2 ^ j)).map (combineTree j))

/-- `cf.topp` and `cf.topp.set` (R303 to R305): k = 0 reports the row's race token; else the kept entries are a prefix of ENT,
of at most k entries, ended by the first whose cumulative weight reaches p; among them the race is run anew; a cut that needs
more entries than 64 raises HEAP_SPILL. `cf.topp.set` places a token. Each writes at distance 12 whether a token was found, and
raises SAMPLE_EMPTY, having committed, when none was and FMODE says so. -/
def Obligations.SamplingIsByRace : Prop :=
  ∀ (s : State) (e : Env) (f : Fields), Runs s e →
    let a := (e.sA f).toNat
    let r := a % 128
    let k := a / 256
    let p : Word := (e.sB f).setWidth 32
    let x := e.x.units.cand.row r
    let trap (cause : BitVec 8) (taddr : DWord) : Host.Outcome State Fault Refusal := .next (s.slotTrap e e.p.pos cause taddr)
    let found (i : Instr) (t : State) (b : Bool) (reason : Nat) : Prop :=
      let u := t.modCtx e.n e.c fun y => y.putP f.d 12 b
      exec i s = .next (if b = false ∧ e.b.latch.ctl.sempty = true then
        u.slotTrap e e.resumeAfter 0x15 (BitVec.ofNat 64 (r + 256 * reason)) else u.advance e)
    let why (y : Row) : Nat := if y.mt = 0xFF800000 then 1 else 2
    let legal : Prop := a / 128 % 2 = 0 ∧ a < 65536 ∧ (e.sB f).toNat < 2 ^ 32 ∧ (f32 p).isFinite = true ∧ fLt 0 p = true
    let n := if k = 255 then x.ent.length else min k x.ent.length
    let cum (i : Nat) : Word := ((x.keptWeights n).take i).foldl fAdd 0
    let reached (i : Nat) : Prop := fLt (cum i) p = false ∧ isNan (cum i) = false
    (¬legal → exec (.cfTopp f) s = trap 0x04 e.slotAddr) ∧
    (legal → k = 0 → found (.cfTopp f) s (x.rtok != 0xFFFFFFFF) (why x)) ∧
    (legal → 64 < k → k ≠ 255 → x.ent.length = 64 → exec (.cfTopp f) s = trap 0x14 (BitVec.ofNat 64 (r + 256 * k))) ∧
    (legal → k ≠ 0 → ¬(64 < k ∧ k ≠ 255 ∧ x.ent.length = 64) →
      (fLt p 0x3F800000 = true → n = 64 → 64 < k → (∀ i, 1 ≤ i → i ≤ n → ¬reached i) →
        exec (.cfTopp f) s = trap 0x14 (BitVec.ofNat 64 (r + 256 * k + 65536))) ∧
      ∀ m, m ≤ n → (fLt p 0x3F800000 = false → m = n) →
        (fLt p 0x3F800000 = true → (∀ i, 1 ≤ i → i < m → ¬reached i) ∧
          ((1 ≤ m ∧ reached m) ∨ (m = n ∧ (∀ i, 1 ≤ i → i ≤ n → ¬reached i) ∧ ¬(n = 64 ∧ 64 < k)))) →
        ∀ t l, s.latchKept e r ((x.ent.take m).map (·.2)) = .pass t l →
          let y := x.sample m l r
          found (.cfTopp f) (t.modCtx e.n e.c fun z => z.modCand fun c => c.setRow r y) (y.rtok != 0xFFFFFFFF) (why y)) ∧
    (a < 128 → (e.sB f).toNat < 2 ^ 32 → found (.cfToppSet f)
      (s.modCtx e.n e.c fun z => z.modCand fun c => c.setRow r { x with rtok := p, key := if p = 0xFFFFFFFF then 0x7F800000 else 0 })
      (p != 0xFFFFFFFF) 3) ∧
    (128 ≤ a ∨ 2 ^ 32 ≤ (e.sB f).toNat → exec (.cfToppSet f) s = trap 0x04 e.slotAddr)

/-- The slice controller has heard the core of a request (R331). -/
def Sys2Proof.heard (s : State) (e : Env) : State := { s with slcT := max s.slcT (s.core e.n).t }

/-- The slice controller has heard a request, which is an irrevocable act (R280, R331), and performed it, leaving `t`. -/
def Sys2Proof.sliceSent (e : Env) (t : State) : State := (heard t e).irrevocable e.n e.c

/-- The slice controller has performed a request that leaves `t`: it goes on as far as it can, its answer is kept with the
bundle, which goes on, and the core takes the controller's time (R230, R331). -/
def Sys2Proof.slicePerformed (e : Env) (t : State) (v : DWord) : State :=
  let u := (sliceSent e t).serveSlices
  ((u.reply e (.value v)).raiseT e.n (max u.slcT u.mem.rt)).advance e

/-- The slice controller holds a request, in a state `t`, until it can answer it. -/
def Sys2Proof.sliceHeld (e : Env) (t : State) (h : Nat) (wait : Bool) : State :=
  ((sliceSent e t).reply e (.slice h wait)).serveSlices.advance e

/-- A slice request is refused with a reason (R231). -/
def Sys2Proof.sliceRefused (s : State) (e : Env) (reason : Nat) : State :=
  s.refuse e (if reason < 16 then 0x04 else 0x05) (some (BitVec.ofNat 64 reason))

/-- The issuing task is a coarse task of an opening of chain `h` that has been closed since (R244). -/
def Sys2Proof.staleTask (s : State) (e : Env) (h : Nat) : Prop :=
  ∃ w, s.coarseStep e = some w ∧ w.chain = h ∧ ∀ c, tget s.chains h = some c → w.opened ≠ c.opened

/-- A slice may be claimed (R224, R235). -/
def Sys2Proof.mayClaim (c : Chain) (x : Slice) : Bool :=
  let live := x.state = .provisional || x.state = .settled || x.state = .faulted
  let again := x.state = .settled && x.again
  x.claim.isNone && ((c.token && ((x.state = .provisional && x.due) || again)) ||
    (!c.token && c.phase = .fine && ((live && x.due && x.gen != x.lastClaim) || again)))

/-- A bit of a number. -/
def Sys2Proof.bitOf (b : Bool) (k : Nat) : Nat := if b then 2 ^ k else 0

/-- The requests that name a slice: their fields, the rule that they require of the chain, and whether only its owner may make
them (R233). -/
def Sys2Proof.onSliceRow : Instr → Option (Fields × Option Bool × Bool)
  | .slcStart f => some (f, some false, false)
  | .slcJump f => some (f, some false, false)
  | .slcStat f => some (f, none, false)
  | .slcRetire f => some (f, none, true)
  | .slcRecycle f => some (f, none, true)
  | .slcFault f => some (f, none, false)
  | .slcFaultClr f => some (f, none, true)
  | .slcPage f => some (f, some true, true)
  | _ => none

/-- The requests that name a chain that must be open (R233). -/
def Sys2Proof.onChainRow : Instr → Option (Fields × Option Bool × Bool)
  | .slcClaimC f => some (f, some false, false)
  | .slcAccept f => some (f, some true, true)
  | .slcWait f => some (f, none, true)
  | .slcClose f => some (f, none, true)
  | _ => none

/-- A request that names no chain or slice that it may act on is refused (R231, R233, R244): 0x01 for a handle of no open chain,
and before every other reason from a coarse task of an opening that has been closed; 0x04 for a reference beyond its chain, 0x05
under the wrong rule, 0x06 from a task that does not own the chain. Which reason stands where several apply is log 23. -/
def Obligations.SliceRequestsAreChecked : Prop :=
  ∀ (i : Instr) (s : State) (e : Env) (f : Fields) (rule : Option Bool) (owner : Bool), Asks s e →
    let a := (e.sA f).toNat
    let refused (r : Nat) : Host.Outcome State Fault Refusal := .next (sliceRefused s e r)
    let chain (h : Nat) : Prop := ∀ c, tget s.chains h = some c →
      ((∃ b, rule = some b ∧ c.token ≠ b) → exec i s = refused 5) ∧
      ((∀ b, rule = some b → c.token = b) → owner = true → c.owner ≠ e.x.task.uid → exec i s = refused 6)
    (onChainRow i = some (f, rule, owner) → (256 ≤ a ∨ staleTask s e a → exec i s = refused 1) ∧
      (a < 256 → tget s.chains a = none → exec i s = refused 1) ∧ (a < 256 → ¬staleTask s e a → chain a)) ∧
    (onSliceRow i = some (f, rule, owner) → (staleTask s e (a / 65536 % 256) → exec i s = refused 1) ∧
      (¬staleTask s e (a / 65536 % 256) → 2 ^ 24 ≤ a → exec i s = refused 4) ∧
      (a < 2 ^ 24 → tget s.chains (a / 65536) = none → exec i s = refused 1) ∧
      (a < 2 ^ 24 → ¬staleTask s e (a / 65536) → chain (a / 65536) ∧
        ∀ c, tget s.chains (a / 65536) = some c → (∀ b, rule = some b → c.token = b) →
          (owner = true → c.owner = e.x.task.uid) → c.n ≤ a % 65536 → exec i s = refused 4))

/-- What the controller does on a request about a slice, allowed by R233 (R224, R229, R236, R239, R241 to R244): each changes
the slice that it names and nothing else of the chain, or is refused with the reason of its rule; the words of `slc.stat` and
`slc.fault` are spelled out. The order of reasons where several apply is log 23. -/
def Obligations.SliceRequestsArePerformed : Prop :=
  ∀ (s : State) (e : Env) (f : Fields) (h m : Nat) (c : Chain), Asks s e → (e.sA f).toNat = 65536 * h + m → h < 256 → m < c.n →
    c.n ≤ 65535 → tget s.chains h = some c → ¬staleTask s e h →
    let x := c.slice m
    let owner : Prop := c.owner = e.x.task.uid
    let refused (i : Instr) (r : Nat) : Prop := exec i s = .next (sliceRefused s e r)
    let put (d : Chain) : State := { heard s e with chains := tset s.chains h d }
    let answers (i : Instr) (v : DWord) : Prop := exec i s = .next (slicePerformed e (heard s e) v)
    -- the slice becomes y, and the request is answered with v
    let becomes (i : Instr) (y : Slice) (v : DWord) : Prop := ∃ d : Chain, d.slices = mset {} c.slices m y ∧
      { d with slices := c.slices } = c ∧ exec i s = .next (slicePerformed e (put d) v)
    let live : Prop := x.state = .provisional ∨ x.state = .settled ∨ x.state = .faulted
    let atRest : Prop := c.token = true ∨ c.phase = .hold ∨ c.phase = .complete
    -- reading
    (x.pages.length ≤ 4 → x.gen < 65536 →
      let state := if x.state = .provisional then 1 else if x.state = .settled then 2 else 3
      let word : DWord := BitVec.ofNat 64 (bitOf (c.phase = .complete) 63 + if live then bitOf x.frec.isSome 62
        + bitOf (x.frec.any (·.delivered)) 61 + bitOf x.claim.isSome 60 + bitOf (mayClaim c x) 59
        + 2 ^ 56 * state + 2 ^ 48 * x.pages.length + 2 ^ 32 * x.gen + x.jump.toNat else 0)
      answers (.slcStat f) word) ∧
    (let word : DWord := match x.frec with
      | none => 0
      | some r => if f.b.toNat = 0 then BitVec.ofNat 64 (2 ^ 63 + bitOf r.delivered 62 + bitOf r.coarse 61
            + 2 ^ 32 * r.gen + 2 ^ 16 * r.rslot.toNat + r.cause.toNat)
          else if f.b.toNat = 1 then r.taddr else r.tbun;
      (∀ r, x.frec = some r → r.gen < 65536) → answers (.slcFault f) word ∧
        (owner → becomes (.slcFaultClr f) { x with
          frec := none, again := x.again || (decide (x.state = .settled) && x.frec.isSome) } word)) ∧
    -- starts and jumps
    (c.token = false → ¬live → refused (.slcJump f) 4) ∧
    (c.token = false → x.state = .settled → refused (.slcJump f) 7) ∧
    (c.token = false → live → x.state ≠ .settled → ∀ v : Word,
      v = (if (f32 ((e.sB f).setWidth 32)).isNan then 0x7F800000 else (e.sB f).setWidth 32 &&& 0x7FFFFFFF) →
      becomes (.slcJump f) { x with part := some (match x.part with | some p => if v.toNat < p.toNat then p else v | none => v) } 0) ∧
    (∀ k n, c.token = false → c.phase = .walk k (some n) → s.coarseStep e = some ⟨h, n, c.opened, c.walks⟩ → m = n + 1 →
      let jump := x.part.getD 0x7F800000
      let settled := (c.slice n).counted && decide (jump.toNat ≤ (c.tol &&& 0x7FFFFFFF).toNat)
      let y := { x with
        state := if settled then .settled else .provisional, jump := jump, part := none
        gen := if x.gen = 65535 then 1 else x.gen + 1, due := true, frec := none }
      exec (.slcStart f) s = .next (slicePerformed e (put { (c.setSlice m y).advanceCairn with phase := .walk m none }) 0)) ∧
    (c.token = false → (∀ k n, c.phase = .walk k (some n) →
        s.coarseStep e = some ⟨h, n, c.opened, c.walks⟩ → m ≠ n + 1) → refused (.slcStart f) 9) ∧
    -- retiring and recycling
    (owner → ¬atRest → refused (.slcRetire f) 8 ∧ refused (.slcRecycle f) 8) ∧
    (owner → atRest → (x.state = .settled ∧ (c.slice (m + 1)).counted = true →
        becomes (.slcRetire f) { x with state := .retired, frec := none } 0) ∧
      (¬(x.state = .settled ∧ (c.slice (m + 1)).counted = true) → refused (.slcRetire f) 7)) ∧
    (owner → atRest →
      let free : Prop := x.state = .retired ∧ x.passed = false ∧ m + c.w < c.n ∧ ∀ i, i < m → i + c.w < c.n →
        (c.slice i).passed = true
      (free → exec (.slcRecycle f) s = .next (slicePerformed e (put
        ((c.setSlice m { x with passed := true }).setSlice (m + c.w) { state := .provisional, gen := 1, due := true })) 0)) ∧
      (¬free → refused (.slcRecycle f) 7)) ∧
    -- pages
    (c.token = true → owner →
      let g := (e.sB f).toNat
      let open_ : Prop := x.state = .provisional ∨ x.state = .faulted
      let free : Prop := g < c.pgmax ∧ ∀ y ∈ c.slices, g ∉ y.2.pages
      (¬open_ → refused (.slcPage f) 7) ∧ (open_ → ¬free → refused (.slcPage f) 0x0A) ∧
      (open_ → free → 4 ≤ x.pages.length → refused (.slcPage f) 0x11) ∧
      (open_ → free → x.pages.length < 4 → becomes (.slcPage f) { x with pages := x.pages ++ [g] } 0))

/-- Requests about a chain (R224, R225, R232, R234, R235, R238, R240, R241, R244). `slc.open` opens a chain of a legal
descriptor; `slc.stat.c` reads one, 0 where it is not open; `slc.claim.c` answers a coarse task with its slice; `slc.accept`
settles the positions that its verdicts accept and discards from a reject or stop on; `slc.close` frees the chain, the pages of
a TOKEN chain from its cairn on going back to the pool, and leaves every task running; the requests of a coarse task of an
earlier opening are refused; `slc.claim` and `slc.wait` are held until the chain answers them, with the lowest claimable slice,
the cairn, or all ones. The order of reasons is log 23, and which held claim is answered first log 12. -/
def Obligations.ChainRequestsArePerformed : Prop :=
  (∀ (s : State) (e : Env) (f : Fields), Asks s e →
    let a := (e.sA f).toNat
    let refused (i : Instr) (r : Nat) : Prop := exec i s = .next (sliceRefused s e r)
    -- opening
    (a % 64 ≠ 0 → exec (.slcOpen f) s = .next (s.refuse e 0x08 (some (e.sA f)))) ∧
    (∀ t cause at_, a % 64 = 0 → (heard s e).readBlocking e (e.sA f) 64 = .trap t cause at_ →
      exec (.slcOpen f) s = .next ({ t with slcT := s.slcT }.refuse e cause (some at_))) ∧
    (∀ t bs, a % 64 = 0 → (heard s e).readBlocking e (e.sA f) 64 = .data t bs →
      let d := chainDesc bs
      (d.ok = false → refused (.slcOpen f) 3) ∧
      (d.ok = true → (tget t.chains d.chain).isSome = true → refused (.slcOpen f) 2) ∧
      (d.ok = true → tget t.chains d.chain = none → t.freeSlices < d.w → refused (.slcOpen f) 0x10) ∧
      (∀ g, d.ok = true → tget t.chains d.chain = none → d.w ≤ t.freeSlices → t.poolWords e d = .error g →
        exec (.slcOpen f) s = .next ({ g.s with slcT := s.slcT }.refuse e g.cause (some g.taddr))) ∧
      ∀ u pool, d.ok = true → tget t.chains d.chain = none → d.w ≤ t.freeSlices → t.poolWords e d = .ok (u, pool) →
        ∃ c : Chain, c.token = decide (d.rule = 1) ∧ c.n = d.n ∧ c.w = d.w ∧ c.owner = e.x.task.uid ∧ c.pool = pool ∧
          c.opened = u.clock ∧ (d.rule = 0 → c.phase = .walk 0 none ∧ c.cairn = 1) ∧ (d.rule = 1 →
            c.phase = .fine ∧ c.cairn = 0) ∧
          (∀ m, c.slice m = if m < d.w then
            { state := if m = 0 ∧ d.rule = 0 then .settled else .provisional, gen := 1, due := true } else {}) ∧
          exec (.slcOpen f) s = .next (slicePerformed e { u with chains := tset u.chains d.chain c } (BitVec.ofNat 64 d.chain))) ∧
    -- reading, and the slice of a coarse task
    (256 ≤ a ∨ staleTask s e a → refused (.slcStatC f) 1 ∧ refused (.slcClaim f) 1) ∧
    (a < 256 → ¬staleTask s e a → tget s.chains a = none → exec (.slcStatC f) s = .next (slicePerformed e (heard s e) 0)) ∧
    (a < 256 → ¬staleTask s e a → exec (.slcClaim f) s = .next (sliceHeld e ((heard s e).endClaim e.x.task.uid) a false)) ∧
    ∀ c, a < 256 → tget s.chains a = some c →
      let live (y : Slice) : Bool := y.state = .provisional || y.state = .settled || y.state = .faulted
      let phase := match c.phase with | .walk _ _ => 0 | .hold => 1 | .fine => 2 | .complete => 3
      let n := (c.slices.filter fun y => live y.2).length
      (¬staleTask s e a → n ≤ 1024 → exec (.slcStatC f) s = .next (slicePerformed e (heard s e) (BitVec.ofNat 64
        (bitOf (c.phase = .complete) 63 + 2 ^ 62 + 2 ^ 60 * phase + 2 ^ 32 * n + 2 ^ 16 * (c.walks % 65536) + c.cairn % 65536)))) ∧
      (c.token = false → (∀ w, s.coarseStep e = some w → w.chain = a →
          (w.opened = c.opened →
            exec (.slcClaimC f) s = .next (slicePerformed e (heard s e) (BitVec.ofNat 64 (65536 * a + w.slice)))) ∧
          (w.opened ≠ c.opened → refused (.slcClaimC f) 1)) ∧
        ((∀ w, s.coarseStep e = some w → w.chain ≠ a) → refused (.slcClaimC f) 9)) ∧
      (c.owner = e.x.task.uid → ¬staleTask s e a →
        -- closing
        (c.token = false → c.phase ≠ .hold → c.phase ≠ .complete → refused (.slcClose f) 8) ∧
        (c.token = true ∨ c.phase = .hold ∨ c.phase = .complete → ∃ t : State,
          exec (.slcClose f) s = .next (slicePerformed e t 0) ∧ (c.token = false → t.cores = s.cores ∧ t.mem = s.mem) ∧
          (∀ k, tget t.chains k = if k = a then none else tget s.chains k) ∧
          (∀ k, tget t.chainLog k = if k = a then some c.opened else tget s.chainLog k) ∧
          (c.token = true → ∃ pages : List Nat, pages.Pairwise (· ≤ ·) ∧
            pages.Perm ((c.slices.filter fun y => decide (c.cairn ≤ y.1)).flatMap fun y => y.2.pages) ∧
            let u := pages.foldl (fun u g => u.poolOr (c.pool.getD (g / 64) 0) (1#64 <<< (g % 64))) (heard s e)
            t.mem = u.mem ∧ t.cores = u.cores)) ∧
        -- waiting
        (∀ m, c.undelivered = some m → exec (.slcWait f) s = .next ((sliceSent e
          { heard s e with chains := tset s.chains a (c.setSlice m (c.slice m).delivered) }).refuse e 0x18
            (some (BitVec.ofNat 64 (65536 * a + m))))) ∧
        (c.undelivered = none → exec (.slcWait f) s = .next (sliceHeld e (if c.phase = .hold ∧ c.news = false
          then { heard s e with chains := tset s.chains a { c with phase := .fine } } else heard s e) a true)) ∧
        -- verdicts
        (c.token = true → c.phase = .complete → exec (.slcAccept f) s = .next (slicePerformed e (heard s e)
          (BitVec.ofNat 64 (2 ^ 63 + c.cairn % 65536)))) ∧
        (c.token = true → c.phase ≠ .complete → c.cairn ≤ c.n → ∀ k, k ≤ 32 → c.cairn + k ≤ c.n →
          let v (i : Nat) : Nat := (e.sB f).toNat / 4 ^ i % 4
          (∀ i, i < k → (v i = 1 ∨ (v i = 3 ∧ i + 1 = k)) ∧ (c.slice (c.cairn + i)).live = true) →
          let stop : Prop := 1 ≤ k ∧ v (k - 1) = 3
          let reject : Prop := k < 32 ∧ c.cairn + k < c.n ∧ v k = 2
          (stop ∨ reject ∨ k = 32 ∨ c.cairn + k = c.n ∨ v k = 0 ∨ (c.slice (c.cairn + k)).live = false) →
          ∃ d : Chain, d.cairn = c.cairn + k ∧ { d with cairn := c.cairn, slices := c.slices } = c ∧
            (∀ m, d.slice m = if c.cairn ≤ m ∧ m < c.cairn + k then { c.slice m with state := .settled, pages := [] }
              else c.slice m) ∧
            (stop ∨ reject → let q := (heard s e).discard a d (c.cairn + k)
              exec (.slcAccept f) s = .next (slicePerformed e
                (q.1.setChain a { q.2 with news := true, phase := .complete }) (BitVec.ofNat 64 (2 ^ 63 + (c.cairn + k) % 65536)))) ∧
            (¬(stop ∨ reject) → exec (.slcAccept f) s = .next (slicePerformed e
              ((heard s e).setChain a { d with news := true, phase := if c.cairn + k = c.n then .complete else c.phase })
              (BitVec.ofNat 64 ((if c.cairn + k = c.n then 2 ^ 63 else 0) + (c.cairn + k) % 65536))))))) ∧
  -- what a held request is answered with
  (∀ (s : State) (r : Held),
    -- the chain has been opened and closed since the task's grid was placed
    let before : Prop := ∃ t, tget s.chainLog r.chain = some t ∧ s.bornOf r.task ≤ t
    (tget s.chains r.chain = none → r.wait = false → before → s.heldAnswer r = some (s, BitVec.allOnes 64)) ∧
    (tget s.chains r.chain = none → r.wait = false → ¬before → s.heldAnswer r = none) ∧
    ∀ c, tget s.chains r.chain = some c →
      (r.wait = true → (c.news = true ∨ c.phase = .complete) →
        s.heldAnswer r = some (s.setChain r.chain { c with news := false }, c.cairnWord)) ∧
      (r.wait = true → c.news = false → c.phase ≠ .complete → s.heldAnswer r = none) ∧
      (r.wait = false → c.phase = .complete ∨ before → s.heldAnswer r = some (s, BitVec.allOnes 64)) ∧
      (r.wait = false → c.phase ≠ .complete → ¬before → (∀ k y, tget c.slices k = some y → ¬mayClaim c y) →
        s.heldAnswer r = none) ∧
      ∀ m x, r.wait = false → c.phase ≠ .complete → ¬before → tget c.slices m = some x → mayClaim c x →
        (∀ k y, tget c.slices k = some y → k < m → ¬mayClaim c y) →
        s.heldAnswer r = some (s.setChain r.chain (c.setSlice m { x with
          claim := some r.task.uid, due := false, again := false,
            lastClaim := x.gen }), BitVec.ofNat 64 (65536 * r.chain + m))) ∧
  -- a discard, and the end of a chain
  (∀ (s : State) (h q m : Nat) (c : Chain), q ≤ m →
    (s.discard h c q).2.slice m = if (c.slice m).live then {} else { c.slice m with pages := [] }) ∧
  (∀ (s : State) (h q m : Nat) (c : Chain), m < q → (s.discard h c q).2.slice m = c.slice m) ∧
  ∀ (s : State) (pa : Nat) (bits : DWord), pa % 8 = 0 → pa + 8 ≤ Config.windowBase →
    (s.mem.line (lineOf pa)).own = none → ∀ b, s.ckpt.page pa = none ∨ (¬undoArea s b ∧ s.mem.missing b = false) →
      (s.poolOr pa bits).byte b = if pa ≤ b ∧ b < pa + 8 then
      s.byte b ||| bits.extractLsb' (8 * (b - pa)) 8 else s.byte b

/-- What a request slot whose bundle has issued does with its answer `v`: its context afterwards, where it writes to it, and
what its bundle then has to do when it ends (R14, R82, R93, R230, R255, R256, R344). -/
def Sys2Proof.answeredRow (e : Env) (v : DWord) : Instr → Option (Option Ctx × List EndAct)
  | .tlaunch _ | .bar _ | .heapPush _ | .ckptSeal _ | .ckptDiff _ | .erSet _ | .slcStart _ | .slcJump _ | .slcRetire _
  | .slcRecycle _ | .slcPage _ | .slcClose _ => some (none, [])
  | .heapPeek f | .heapPeekDl f | .ckptBegin f | .erGet f | .erGetS f | .slcOpen f | .slcClaim f | .slcClaimC f | .slcAccept f
  | .slcWait f | .slcStat f | .slcStatC f | .slcFault f | .slcFaultClr f => some (some (e.x.putS e.b.latch f.d 1 v), [])
  | .heapPop f =>
    let y := e.x.putS e.b.latch f.d 1 v
    let cost : BitVec 32 := if v = BitVec.allOnes 64 then 0 else BitVec.ofNat 32 (v.toNat % 65536)
    some (some { y with ctl := { y.ctl with tbudget := y.ctl.tbudget - cost } }, [])
  | .budget f =>
    let y := e.x.putS e.b.latch f.d 1 v
    some (some { y with ctl := { y.ctl with tbudget := BitVec.ofNat 32 v.toNat } }, [])
  | .yieldEr => some (none, [.yieldEr])
  | .erIdle f => some (none, [.erIdle ((e.sA f).toNat % 2 ^ 32)])
  | _ => none

/-- Every request slot completes with its answer when its bundle has issued, traps where it was refused, and waits for an answer
that is still to come (R14, R82, R93, R230). -/
def Obligations.RequestsUseTheirAnswers : Prop :=
  ∀ (i : Instr) (s : State) (e : Env), Runs s e → (∃ r, answeredRow e 0 i = some r) →
    (∀ v y as, tget e.b.answers e.p.pos = some (.value v) → answeredRow e v i = some (y, as) →
      exec i s = .next ((match y, as with
        | some y, _ => s.setCtx e.n e.c y
        | none, [] => s
        | none, as => s.modBundle e.n e.c fun b => { b with acts := b.acts ++ as }).advance e)) ∧
    (∀ cause taddr, tget e.b.answers e.p.pos = some (.refused cause taddr) →
      exec i s = .next (s.slotTrap e e.p.pos cause (taddr.getD e.slotAddr))) ∧
    (tget e.b.answers e.p.pos = some .waiting →
      exec i s = .next ((s.modCtx e.n e.c fun x => { x with run := .blocked .answer }).release e.n e.c))

/-- Requests of the dispatcher (R13 to R15, R82, R83, R87, R90, R91): each, when sent, changes what the dispatcher holds at once
and is answered, but that a barrier of level 1 or more answers when its generation is released; the heap's entry of least
deadline, then id, then order of insertion, is its head. -/
def Obligations.DispatcherRequests : Prop :=
  ∀ (s : State) (e : Env) (f : Fields), Asks s e →
    let a := e.sA f
    let b := e.sB f
    let answer (t : State) (v : DWord) : Host.Outcome State Fault Refusal := .next ((t.answerWith e v).advance e)
    let refused (cause : BitVec 8) : Host.Outcome State Fault Refusal := .next (s.refuse e cause none)
    let key (x : HeapEntry) : DWord := BitVec.ofNat 64 (65536 * x.id.toNat + x.cost.toNat)
    let before (x y : HeapEntry) : Prop :=
      x.deadline.toNat < y.deadline.toNat ∨ (x.deadline = y.deadline ∧ x.id.toNat < y.id.toNat)
    let x : HeapEntry := ⟨BitVec.ofNat 64 (min a.toNat (2 ^ 64 - 2)), b.extractLsb' 16 32, b.extractLsb' 0 16⟩
    -- tail launch
    (a.toNat % 128 ≠ 0 → exec (.tlaunch f) s = .next (s.refuse e 0x08 (some a))) ∧
    (a.toNat % 128 = 0 → ∀ g, tget s.grids e.x.task.grid = some g →
      (g.tail ≠ none → exec (.tlaunch f) s = refused 0x05) ∧
      (g.tail = none → exec (.tlaunch f) s =
        answer { s with grids := tset s.grids e.x.task.grid { g with tail := some a } } 0)) ∧
    -- barriers
    (e.x.task.hdr.nbar ≤ f.a.toNat ∨ e.x.task.hdr.level < f.d.toNat → exec (.bar f) s = refused 0x05) ∧
    (f.a.toNat < e.x.task.hdr.nbar → f.d.toNat ≤ e.x.task.hdr.level →
      (f.d.toNat = 0 → exec (.bar f) s = answer s 0) ∧
      (f.d.toNat ≠ 0 → exec (.bar f) s = .next (((((s.hear e.n).irrevocable e.n e.c).arrive e.x.task.grid f.d.toNat
        (domainOf f.d.toNat e.n) f.a.toNat e.x.task.uid).reply e .waiting).advance e))) ∧
    -- the heap
    (4096 ≤ s.heap.length → exec (.heapPush f) s = refused 0x05) ∧
    (s.heap.length < 4096 → ∃ l r, s.heap = l ++ r ∧ (∀ y ∈ l, ¬before x y) ∧ (∀ y, r.head? = some y → before x y) ∧
      exec (.heapPush f) s = answer { s with heap := l ++ x :: r } 0) ∧
    (s.heap = [] → exec (.heapPop f) s = answer s (BitVec.allOnes 64) ∧ exec (.heapPeek f) s = answer s (BitVec.allOnes 64) ∧
      exec (.heapPeekDl f) s = answer s (BitVec.allOnes 64)) ∧
    (∀ y ys, s.heap = y :: ys →
      (e.b.latch.ctl.tbudget.toNat < y.cost.toNat → exec (.heapPop f) s = answer s (BitVec.allOnes 64)) ∧
      (y.cost.toNat ≤ e.b.latch.ctl.tbudget.toNat → exec (.heapPop f) s =
        .next (((({ s with heap := ys } : State).answerWith e (key y)).handOff e.n).advance e)) ∧
      exec (.heapPeek f) s = answer s (key y) ∧ exec (.heapPeekDl f) s = answer s y.deadline) ∧
    -- the token budget
    exec (.budget f) s = answer s (BitVec.ofInt 64 (max 0 (min ((e.b.latch.ctl.tbudget.toNat : Int) + a.toInt) 0xFFFFFFFF)))

/-- Requests of the checkpoint unit and of the edge unit (R252 to R259, R344). A task of the checkpoint job alone may use the
former: `ckpt.begin` opens the step after the last that is durable, and waits for a copy that is not complete; `ckpt.seal` and
`ckpt.diff` take the snapshot of the open step into the image of its parity, after the core's stores and the recall of the
shard's lines. `er.set` writes an entry that its task may write and that makes no cycle; `er.get` reads one, and the status of
the member; `yield.er` and `er.idle` are answered at once. That a `ckpt.begin` waits before it is checked is log 32; when an
edge word's fields are checked, and that the edge unit answers at once, log 33. -/
def Obligations.CheckpointAndEdgeRequests : Prop :=
  ∀ (s : State) (e : Env) (f : Fields), Asks s e →
    let a := e.sA f
    let v := e.sB f
    let job := e.x.task.record.jobtag
    let allowed : Prop := job ≠ 0 ∧ job = s.ckpt.cfg.ckjob
    let refused (cause : BitVec 8) : Host.Outcome State Fault Refusal := .next (s.refuse e cause none)
    let k := s.core e.n
    let i := a.toNat % 64
    let g := i / 32
    let role := e.x.task.hdr.role
    let edge (t : State) (v : DWord) : Host.Outcome State Fault Refusal := .next ((t.edgeAnswer e v).advance e)
    let mine (w : DWord) : Prop := edgeValid w = false ∨ edgeIncident w role = true
    let legal : Prop := edgeValid v = false ∨
      (v.toNat / 2 ^ 16 % 2 ^ 47 = 0 ∧ v.toNat / 2 ^ 9 % 8 = 0 ∧ edgeA v ≠ 0 ∧ edgeB v ≠ 0 ∧ edgeA v ≠ edgeB v)
    -- steps
    (¬allowed → exec (.ckptBegin f) s = refused 0x06 ∧ exec (.ckptSeal f) s = refused 0x06 ∧
      exec (.ckptDiff f) s = refused 0x06) ∧
    (allowed →
      (s.ckpt.copy ≠ none → exec (.ckptBegin f) s = .next (((s.irrevocable e.n e.c).reply e (.ckpt a)).advance e)) ∧
      (s.ckpt.copy = none → s.ckpt.opened = none → a = s.ckpt.last + 1 → exec (.ckptBegin f) s =
        .next ((({ s with ckpt := { s.ckpt with opened := some a } } : State).answerWith e s.ckpt.last).advance e)) ∧
      (s.ckpt.copy = none → s.ckpt.opened ≠ none ∨ a ≠ s.ckpt.last + 1 → exec (.ckptBegin f) s = refused 0x04) ∧
      (s.ckpt.opened ≠ some a → exec (.ckptSeal f) s = refused 0x04 ∧ exec (.ckptDiff f) s = refused 0x04) ∧
      (s.ckpt.opened = some a →
        -- the core's stores have performed, and the lines of the shard that a stash owns come home
        let p := s.placeAll e.n
        let t := (p.mem.lines.filter fun l => l.2.own.isSome && (p.ckpt.page (64 * l.1)).isSome).foldl (fun u l => u.recall l.1) p
        let even : Bool := decide (a.toNat % 2 = 0)
        let snap (every : Bool) : Ckpt := { t.ckpt with
          opened := none
          copy := some { step := a, image := a.toNat % 2, core := e.n, uid := e.x.task.uid, issued := t.gtime.toNat
                         left := if every then { all := true } else if even then t.ckpt.ds0 else t.ckpt.ds1 }
          ds0 := if even then {} else t.ckpt.ds0, undo0 := if even then { step := a, active := true } else t.ckpt.undo0
          ds1 := if even then t.ckpt.ds1 else {}, undo1 := if even then t.ckpt.undo1 else { step := a, active := true } }
        let taken (c : Ckpt) : Host.Outcome State Fault Refusal := .next (((({ t with ckpt := c } : State).modCtx e.n e.c fun x =>
          { x with cnt := { x.cnt with rm := x.cnt.rm + 1 } }).answerWith e 0).advance e)
        exec (.ckptSeal f) s = taken (snap true) ∧ exec (.ckptDiff f) s = taken (snap false))) ∧
    -- edges
    (¬legal → exec (.erSet f) s = refused 0x04) ∧
    (legal → k.gangHeld g = false →
      exec (.erSet f) s = edge (s.setCore e.n { k with edges := mset 0 k.edges i v }) 0) ∧
    (legal → k.gangHeld g = true →
      (e.x.task.gslot ≠ some g ∨ ¬mine v ∨ ¬mine (mget 0 k.edges i) → exec (.erSet f) s = refused 0x05) ∧
      (e.x.task.gslot = some g → mine v → mine (mget 0 k.edges i) →
        let new : Core := { k with edges := mset 0 k.edges i v }
        let away : Prop := edgeValid v = true ∧ edgePoints v ≠ role
        (away → new.slotCyclic g = true → exec (.erSet f) s = refused 0x17) ∧
        (¬(away ∧ new.slotCyclic g = true) →
          exec (.erSet f) s = edge (s.setCore e.n (new.settleEdges g (k.deadRoles e.x.task.mates))) 0))) ∧
    exec (.erGet f) s = edge s (mget 0 k.edges i) ∧
    (e.x.task.gslot = none → exec (.erGetS f) s = edge s 0) ∧
    (∀ j, e.x.task.gslot = some j → exec (.erGetS f) s = edge s (BitVec.ofNat 64
      (1 + ((k.deadRoles e.x.task.mates).map (2 ^ ·)).sum + 16 * role + 64 * j + 2 ^ 32 * e.x.fires.toNat))) ∧
    exec .yieldEr s = edge s 0 ∧ exec (.erIdle f) s = edge s 0

/-- `shape.ld` and `bswap` make their reads and checks before their bundle issues, as requests do (R82, R86, R89): in order,
MISALIGN, the traps of the read, RESOURCE for an active loop or a descriptor that is not legal, the lowest failure of the
source, and PROTECT for a destination in a window or a foreign tile; a copy waits where an asynchronous operation has its
destination. The answer is the record, or the copy. `phase` counts a phase, takes its COMM bit, and applies the slow-down
notices of the job (R85, R351); `shape.ld` loads the four loop counters and p1 to p7 (R16, R89); `bswap`, in a protected kernel
when its context's landings have arrived, and after earlier accesses to the bytes of peers that it copies (R121), counts the
phase, which PHASEK follows (R264), takes the descriptor and copies LEN bytes, counted in CNTAS until the copy is complete
(R86). A notice raises CAP to its point, what an earlier notice of the job gave the core being replaced (log 45). -/
def Obligations.PhasesAndShapes : Prop :=
  (∀ (s : State) (e : Env) (f : Fields), Asks s e →
     let a := e.sA f
     let refused (cause : BitVec 8) (taddr : Option DWord) : Host.Outcome State Fault Refusal := .next (s.refuse e cause taddr)
     let waits (t : State) : Host.Outcome State Fault Refusal :=
       .next ((t.modCtx e.n e.c fun x => { x with run := .blocked .read }).release e.n e.c)
     -- shape records
     (a.toNat % 8 ≠ 0 → exec (.shapeLd f) s = refused 0x08 (some a)) ∧
     (∀ t cause taddr, a.toNat % 8 = 0 → s.readBlocking e a 40 = .trap t cause taddr →
       exec (.shapeLd f) s = .next (t.refuse e cause (some taddr))) ∧
     (∀ t, a.toNat % 8 = 0 → s.readBlocking e a 40 = .wait t → exec (.shapeLd f) s = waits t) ∧
     (∀ t bs, a.toNat % 8 = 0 → s.readBlocking e a 40 = .data t bs →
       ((∃ l ∈ e.x.loops.state, l.2.active = true) → exec (.shapeLd f) s = refused 0x05 none) ∧
       ((∀ l ∈ e.x.loops.state, l.2.active = false) → exec (.shapeLd f) s = .next ((((t.hear e.n).irrevocable e.n e.c).reply e
         (.words ((List.range 5).map fun i => BitVec.ofNat 64 (fieldAt bs (8 * i) 8)))).advance e))) ∧
     -- buffer swaps
     (a.toNat % 32 ≠ 0 → exec (.bswap f) s = refused 0x08 (some a)) ∧
     (∀ t cause taddr, a.toNat % 32 = 0 → s.readBlocking e a 32 = .trap t cause taddr →
       exec (.bswap f) s = .next (t.refuse e cause (some taddr))) ∧
     (∀ t, a.toNat % 32 = 0 → s.readBlocking e a 32 = .wait t → exec (.bswap f) s = waits t) ∧
     ∀ t bs, a.toNat % 32 = 0 → s.readBlocking e a 32 = .data t bs →
       let d : InputDesc := ⟨BitVec.ofNat 64 (fieldAt bs 0 8), fieldAt bs 8 4, fieldAt bs 12 4⟩
       let legal : Prop := d.dst % 256 = 0 ∧ d.len % 256 = 0 ∧ d.dst + d.len ≤ e.x.task.hdr.scratch ∧ fieldAt bs 16 16 = 0
       let dst := e.x.task.spBase + d.dst
       (¬legal → exec (.bswap f) s = refused 0x05 none) ∧
       (legal → (∀ g, t.copyRuns e.n e.px d.src d.len = .error g →
           exec (.bswap f) s = .next (g.s.refuse e g.cause (some g.taddr))) ∧
         ∀ u ps, t.copyRuns e.n e.px d.src d.len = .ok (u, ps) →
           (∀ g, (u.core e.n).foreignRange e.x [(dst, d.len)] = some g → exec (.bswap f) s = refused 0x0A (some g)) ∧
           ((u.core e.n).foreignRange e.x [(dst, d.len)] = none →
             exec (.bswap f) s = if (u.core e.n).rangesBusy [] [(dst, d.len)] then
               .next (s.modCtx e.n e.c fun x => { x with stalled := true })
             else .next ((u.reply e (.copy d.src dst d.len ps)).advance e)))) ∧
  ((∀ (s : State) (e : Env) (f : Fields), Runs s e →
     let a := e.sA f
     exec (.phase f) s = .next (((s.setCtx e.n e.c
       ({ e.x with phases := e.x.phases + 1, comm := a.getLsbD 0 }.putS e.b.latch f.d 1 (BitVec.ofNat 64 (e.x.phases + 1)))).applyNotices
         e.n).advance e) ∧
     -- shape records
     (∀ ws : List DWord, tget e.b.answers e.p.pos = some (.words ws) →
       ∃ y : Ctx, exec (.shapeLd f) s = .next ((s.setCtx e.n e.c y).advance e) ∧ (∀ i, i < 4 →
         y.loops.counter i = ws.getD i 0) ∧
         y.pend = e.x.pend ++ (List.range 7).map (fun i =>
           { due := e.x.count + 1, dest := .p (i + 1) ((ws.getD 4 0).getLsbD (i + 1)) }) ∧
         { y with loops := { y.loops with lc := e.x.loops.lc }, pend := e.x.pend } = e.x) ∧
     -- buffer swaps
     (∀ src dst len ps, tget e.b.answers e.p.pos = some (.copy src dst len ps) →
       ((e.x.task.record.prot = false ∨ e.x.landed = true) → exec (.bswap f) s = .next
         (if s.copyBusy e.x.task.uid ps then s.modCtx e.n e.c fun x => { x with stalled := true }
          else (s.swapPhase e f src dst len ps).advance e)) ∧
       (e.x.task.record.prot = true → e.x.landed = false → exec (.bswap f) s =
         .next ((s.modCtx e.n e.c fun x => { x with run := .blocked .landings }).release e.n e.c))) ∧
     ∀ cause taddr, tget e.b.answers e.p.pos = some (.refused cause taddr) → ∀ i ∈ [Instr.shapeLd f, .bswap f],
       exec i s = .next (s.slotTrap e e.p.pos cause (taddr.getD e.slotAddr))) ∧
   -- what a swap of an unprotected task leaves
   (∀ (s : State) (e : Env) (f : Fields) (src : DWord) (dst len : Nat) (ps : List (Option Nat × Nat × Nat)),
     e.x.task.record.prot = false →
     s.swapPhase e f src dst len ps = ((s.startCopy e.n e.c src dst len ps).modCtx e.n e.c fun x =>
       { x with buf := { x.buf with
           k := x.buf.k + 1, desc := some (e.sA f), irrevocable := false, cancelled := false } }.putS e.b.latch f.d 1
         (BitVec.ofNat 64 (x.buf.k + 1))).saveStores e.n e.x [(48, natLe 8 (e.x.buf.k + 1))] ∧
     s.startCopy e.n e.c src dst 0 ps = s) ∧
   -- a copy of local memory
   (∀ (s : State) (n c : Nat) (src : DWord) (dst len pa : Nat) (x : Ctx), s.ctx? n c = some x → 0 < len →
     (s.core n).outq.all (·.placed) = true →
     (∀ b, pa ≤ b → b < pa + len → (s.mem.line (lineOf b)).own = none ∧ tget (s.core n).l1 (lineOf b) = none) →
     let u := s.startCopy n c src dst len [(none, pa, len)]
     u.ctx? n c = some { x with cnt := { x.cnt with as := x.cnt.as + 1 } } ∧
     (∀ b, mget 0 (u.core n).spad b = if dst ≤ b ∧ b < dst + len then s.byte (pa + (b - dst)) else mget 0 (s.core n).spad b) ∧
     (∃ w : Async, (u.core n).async = (s.core n).async ++ [w] ∧ w.copy = true ∧ w.writes = [(dst, len)]) ∧
     ∀ b, u.byte b = s.byte b) ∧
   -- a notice
   ∀ (s : State) (n : Nat) (job : BitVec 32) (x : Notice), tget s.board.notices job.toNat = some x → n ∉ x.applied →
     (s.core n).runsJob job = true →
       let cap := opptCap (s.core n).oppt
       -- an earlier notice of the job raised CAP from `old` to `new`
       let before := match tget x.saved n, tget x.given n with
         | some old, some new => if cap = new.toNat then old.toNat else cap
         | _, _ => cap
       let u := s.applyNotice n job
       opptCap (u.core n).oppt = max before (min 7 x.point.toNat) ∧
         ∃ y, tget u.board.notices job.toNat = some y ∧ y.point = x.point ∧ y.until_ = x.until_ ∧ n ∈ y.applied)

/-- Stream registers and pipe tokens (R185, R187, R188, R199): `stset` loads a legal descriptor, visible at distance 8, when no
operation holds a tile of the stream, and blocks until then; `stget` gives counts and pointers, and blocks while a write of the
stream by an earlier bundle is pending, which takes effect (log 59); `radv` makes tiles resident at the tail, and `radv.h` frees
them at the head, or STREAM is raised; `padv` pushes a word to a pipe, and `pwait` gives the one that it popped. That `stset`
also waits for a `tcall`, and that a FILL other than 0 is STREAM for a count of 0 tiles as well, is log 39. -/
def Obligations.StreamRegisters : Prop :=
  ∀ (s : State) (e : Env) (f : Fields), Runs s e →
    let a := e.sA f
    let n := a.toNat
    let st := f.d.toNat
    let x := e.x.stream s.clock st
    let tiles := x.size.toNat / 16384
    let trap (cause : BitVec 8) (taddr : DWord) : Host.Outcome State Fault Refusal := .next (s.slotTrap e e.p.pos cause taddr)
    let set (y : Stream) : Host.Outcome State Fault Refusal := .next ((s.setCtx e.n e.c (e.x.setStream s.clock st y)).advance e)
    let block (t : State) (why : Wait) : Host.Outcome State Fault Refusal :=
      .next ((t.modCtx e.n e.c fun x => { x with run := .blocked why }).release e.n e.c)
    let ahead (off : BitVec 32) : BitVec 32 := BitVec.ofNat 32 ((off.toNat + 16384 * n) % x.size.toNat)
    (n % 32 ≠ 0 → exec (.stset f) s = trap 0x08 a) ∧
    (n % 32 = 0 → (s.core e.n).streamBusy e.x st = true → exec (.stset f) s = block s (.stream st)) ∧
    (∀ t, n % 32 = 0 → (s.core e.n).streamBusy e.x st = false → s.readBlocking e a 32 = .wait t →
      exec (.stset f) s = block t .read) ∧
    (∀ t cause taddr, n % 32 = 0 → (s.core e.n).streamBusy e.x st = false → s.readBlocking e a 32 = .trap t cause taddr →
      exec (.stset f) s = .next (t.slotTrap e e.p.pos cause taddr)) ∧
    (∀ t bs, n % 32 = 0 → (s.core e.n).streamBusy e.x st = false → s.readBlocking e a 32 = .data t bs →
      let w (i : Nat) : BitVec 32 := BitVec.ofNat 32 (fieldAt bs (4 * i) 4)
      let size := (w 1).toNat
      let head := (w 2).toNat
      let tail := (w 3).toNat
      let y : Stream := { base := w 0, size := w 1, head := w 2, tail := w 3, fmtw := w 4, sbase := w 5, sstride := w 6, sdelta := w 7
                          cnt := (tail + size - head) % size / 16384 }
      let ring : Prop := (w 0).toNat % 256 = 0 ∧ 16384 ≤ size ∧ size ≤ 4194304 ∧ size % 16384 = 0 ∧
        head % 16384 = 0 ∧ head < size ∧ tail % 16384 = 0 ∧ tail < size
      let fmt := (w 4).toNat % 16
      let format : Prop := (w 4).getLsbD 11 = false ∧ (w 4).toNat / 32 % 8 = 0 ∧ fmt ≤ 9 ∧ (w 5).toNat % 256 = 0 ∧
        (fmt ∈ [0, 1, 2, 8, 9] ∨ (w 5 = 0 ∧ w 6 = 0 ∧ w 7 = 0))
      (¬(ring ∧ format) → exec (.stset f) s = trap 0x04 e.slotAddr) ∧
      (ring → format → y.fits e.x.task.spSize = false → exec (.stset f) s = trap 0x05 e.slotAddr) ∧
      (ring → format → y.fits e.x.task.spSize = true → exec (.stset f) s =
        .next ((t.modCtx e.n e.c fun z => z.push 8 (.st st y)).advance e))) ∧
    (let r := f.a.toNat
      let y := mget {} e.x.units.st r
      -- the writes of the stream by earlier bundles that are pending
      let now (w : PWrite) : Bool := match w.dest with | .st i _ => i = r && w.due < e.x.count + 8 | _ => false;
      (e.x.pend.any now = false → exec (.stget f) s = .next ((s.setCtx e.n e.c (e.x.putS e.b.latch f.d 1 (BitVec.ofNat 64
        (y.head.toNat / 16384 + 2 ^ 8 * (y.tail.toNat / 16384) + 2 ^ 16 * y.claims.length + 2 ^ 25 * y.cnt)))).advance e)) ∧
      (e.x.pend.any now = true → ∃ z : Ctx, exec (.stget f) s = block (s.setCtx e.n e.c z) (.stset r) ∧
        (∀ w v, (e.x.pend.filter now).getLast? = some w → w.dest = .st r v → mget {} z.units.st r = v) ∧
        (∀ i, i ≠ r → mget {} z.units.st i = mget {} e.x.units.st i) ∧ z.pend = e.x.pend.filter (fun w => !now w) ∧
        { z with
          pend := e.x.pend, units := { z.units with st := e.x.units.st }, dirty := e.x.dirty } = e.x)) ∧
    (n ≤ 256 → x.fill = 0 → x.cnt + n ≤ tiles → x.size ≠ 0 →
      exec (.radv f) s = set { x with tail := ahead x.tail, cnt := x.cnt + n }) ∧
    (256 < n ∨ x.fill ≠ 0 ∨ tiles < x.cnt + n → exec (.radv f) s = trap 0x19 e.slotAddr) ∧
    (n ≤ 256 → x.fill = 0 → x.claims = [] → n ≤ x.cnt → x.size ≠ 0 →
      exec (.radvH f) s = set { x with head := ahead x.head, cnt := x.cnt - n }) ∧
    (n ≤ 256 → x.fill = 0 → (∃ c ∈ x.claims.head?, c.2 = false) → x.claims.length + n ≤ x.cnt → x.size ≠ 0 →
      x.head.toNat < x.size.toNat → exec (.radvH f) s = set { x with claims := x.claims ++ List.replicate n (0, true) }) ∧
    (256 < n ∨ x.fill ≠ 0 ∨ x.cnt < x.claims.length + n → exec (.radvH f) s = trap 0x19 e.slotAddr) ∧
    (∃ v : Lanes, (∀ k, lane v k = if k = 0 then a.setWidth 32 else 0) ∧
      exec (.padv f) s = .next ((s.pushPipe e.n e.c st v).advance e)) ∧
    exec (.pwait f) s = .next ((s.setCtx e.n e.c (e.x.putS e.b.latch f.d 1
      ((lane (mget [] e.b.pops (popKey e.p.pos 0 0)) 0).setWidth 64))).advance e)

/-- The stream, the access and the direction of a tile load, a tile store, a gather or a scatter: true for a load. -/
def Sys2Proof.tileRow (e : Env) : Instr → Option (Fields × Bool × (Stream → TileAccess))
  | .tld f => some (f, true, fun x => x.rowAccess (e.sA f) (e.sB f))
  | .tst f => some (f, false, fun x => x.rowAccess (e.sA f) (e.sB f))
  | .gld f => some (f, true, fun x => x.laneAccess e.b.latch.active (e.vecA f) (e.sB f))
  | .gst f => some (f, false, fun x => x.laneAccess e.b.latch.active (e.vecA f) (e.sB f))
  | _ => none

/-- The bytes that a row takes in the scratchpad: a packed one 128 for its 96 in memory (R146). -/
def Sys2Proof.rowWidth (r : RowRef) : Nat := if r.packed then 128 else r.len

/-- Rows of the scratchpad do not overlap. -/
def Sys2Proof.apart (rows : List RowRef) : Prop := rows.Pairwise fun a b => a.spad + rowWidth a ≤ b.spad ∨
  b.spad + rowWidth b ≤ a.spad

/-- Tile loads, stores, gathers and scatters (R189 to R196): the first misaligned address raises MISALIGN, the lowest address
that fails XLATE or PROTECT, a ring short of tiles STREAM, a footprint in a window or foreign tile PROTECT; otherwise the tiles
are taken or claimed and the copy is made, at once in the core's order. A load waits for room in its ring and for operations
that have its destination; a store blocks until the operation that writes its source has retired, and what it reads of a marked
block leaves the trap that is deferred (R353). A tile has its rows and, in a scaled format, its scale rows. Each is copied
between its places, a packed FP6 row of 96 bytes as one element to a byte (R146); a store takes the bytes of the scratchpad as
they stand, and writes the rows and no other byte but the undo area's (R346). -/
def Obligations.TilesMove : Prop :=
  (∀ (i : Instr) (s : State) (e : Env) (f : Fields) (load : Bool) (g : Stream → TileAccess), Runs s e →
    tileRow e i = some (f, load, g) →
    let st := f.d.toNat
    let x := e.x.stream s.clock st
    let w := g x
    let trap (cause : BitVec 8) (taddr : DWord) : Host.Outcome State Fault Refusal := .next (s.slotTrap e e.p.pos cause taddr)
    let at_ (k : Nat) : BitVec 32 := if load then x.ahead x.tail k else x.ahead x.head (x.claims.length + k)
    let ts := (List.range w.n).map fun k => x.tileAt e.x.task st (at_ k)
    let rows := w.rows ts
    let ranges := ts.flatMap Tile.ranges
    let runsOf := s.rowRuns e.n e.px (if load then .load else .store) (rows.map fun r => (r.va, r.len))
    (∀ a, w.misaligned = some a → exec i s = trap 0x08 a) ∧
    (∀ q, w.misaligned = none → runsOf = .error q → exec i s = .next (q.s.slotTrap e e.p.pos q.cause q.taddr)) ∧
    ∀ t runs, w.misaligned = none → runsOf = .ok (t, runs) →
      (load = true → x.slots < x.cnt + w.n → x.claims = [] → exec i s = trap 0x19 e.slotAddr) ∧
      (load = true → x.slots < x.cnt + w.n → x.claims ≠ [] → exec i s = .next
        ((t.modCtx e.n e.c fun x => { x with run := .blocked (.room st w.n) }).release e.n e.c)) ∧
      (load = true → x.cnt + w.n ≤ x.slots → (t.core e.n).foreignRange e.x ranges = none →
        (t.core e.n).rangesBusy [] ranges = true → exec i s = .next (s.modCtx e.n e.c fun x => { x with stalled := true })) ∧
      (load = true → x.cnt + w.n ≤ x.slots →
        (∀ a, (t.core e.n).foreignRange e.x ranges = some a → exec i s = trap 0x0A a) ∧
        ((t.core e.n).foreignRange e.x ranges = none → (t.core e.n).rangesBusy [] ranges = false → exec i s = .next
          (((t.modCtx e.n e.c fun z => z.setStream t.clock st { x with tail := x.ahead x.tail w.n, cnt := x.cnt + w.n }).startLoad
            e.n e.c st rows runs ranges (w.zeros ts)).advance e))) ∧
      (load = false → x.cnt < x.claims.length + w.n → exec i s = trap 0x19 e.slotAddr) ∧
      (load = false → x.claims.length + w.n ≤ x.cnt →
        (∀ a, (t.core e.n).foreignRange e.x ranges = some a → exec i s = trap 0x0A a) ∧
        let u : State := { t with fresh := t.fresh + 1 }
        (∀ r, (t.core e.n).foreignRange e.x ranges = none →
          ranges.find? (fun r => (t.core e.n).asyncWritesAt r.1 r.2) = some r →
          exec i s = .next ((u.modCtx e.n e.c fun x => { x with run := .blocked (.written r.1 r.2) }).release e.n e.c)) ∧
        ((t.core e.n).foreignRange e.x ranges = none → (∀ r ∈ ranges, (t.core e.n).asyncWritesAt r.1 r.2 = false) →
          exec i s = .next
          ((((u.modCtx e.n e.c fun z => z.setStream t.clock st
            { x with claims := x.claims ++ List.replicate w.n (t.fresh, false) }).startStore e.n e.c t.fresh
              (u.rowWrites e.n rows runs) ranges).uncorrAt e.n e.x.task.uid t.fresh (u.storeBad e.n rows)).advance e)))) ∧
  -- the rows of a tile
  (∀ (x : Stream) (a k : DWord) (t : Tile) (j : Nat), j < 128 →
    ((x.rowAccess a k).rows [t])[j]? = some ⟨t.base + 128 * j, a + BitVec.ofNat 64 j * k, if t.fmt = 1 ∨
      t.fmt = 2 then 96 else 128,
      decide (t.fmt = 1 ∨ t.fmt = 2)⟩ ∧
    (let len := (if t.fmt = 0 then 32 else 4) * if t.cmp then 2 else 1;
      ((x.rowAccess a k).rows [t])[128 + j]? = if t.fmt ∈ [0, 1, 2, 8, 9] then
        some ⟨t.scale + len * j, a + 256 * x.sdelta.signExtend 64 + BitVec.ofNat 64 j * x.sstride.setWidth 64, len,
          false⟩ else none)) ∧
  -- the copy of rows in memory
  (∀ (s : State) (n c st : Nat) (rows : List RowRef) (pas : List Nat) (ranges : List (Nat × Nat)), rows.length = pas.length →
    (∀ r ∈ rows, r.packed = true → r.len = 96) → apart rows →
    (s.core n).outq.all (·.placed) = true → (∀ l, (s.mem.line l).own = none ∧ tget (s.core n).l1 l = none) →
    let u := s.startLoad n c st rows ((rows.zip pas).map fun p => [(p.2, p.1.len)]) ranges []
    (∀ (k : Nat) (r : RowRef) (pa : Nat), rows[k]? = some r → pas[k]? = some pa →
      let now (b : Nat) : Byte := mget 0 (u.core n).spad (r.spad + b)
      (r.packed = false → ∀ b, b < r.len → now b = s.byte (pa + b)) ∧
      (r.packed = true → ∀ b < 128, ∀ i < 8, (now b).getLsbD i =
        (decide (i < 6) && (s.byte (pa + (6 * b + i) / 8)).getLsbD ((6 * b + i) % 8)))) ∧
    (∀ b : Nat, (∀ r ∈ rows, b < r.spad ∨ r.spad + rowWidth r ≤ b) → mget 0 (u.core n).spad b = mget 0 (s.core n).spad b) ∧
    ∀ b, u.byte b = s.byte b) ∧
  -- what a store takes from the scratchpad for a row
  (∀ (s : State) (n pa : Nat) (r : RowRef), (r.packed = true → r.len = 96) → ∃ bs : List Byte, bs.length = r.len ∧
    s.rowWrites n [r] [[(pa, r.len)]] = [(pa, bs)] ∧
    (r.packed = false → ∀ b, b < r.len → bs.getD b 0 = mget 0 (s.core n).spad (r.spad + b)) ∧
    (r.packed = true → ∀ b < 96, ∀ i < 8, (bs.getD b 0).getLsbD i =
      (mget 0 (s.core n).spad (r.spad + (8 * b + i) / 6)).getLsbD ((8 * b + i) % 6))) ∧
  (∀ (s : State) (n : Nat) (rows rows' : List RowRef) (runs runs' : List (List (Nat × Nat))), rows.length = runs.length →
    s.rowWrites n (rows ++ rows') (runs ++ runs') = s.rowWrites n rows runs ++ s.rowWrites n rows' runs') ∧
  -- the writes of rows in order
  ∀ (s : State) (n : Nat) (ws : List (Nat × List Byte)),
    (∀ l, (s.mem.line l).own = none) → (∀ w ∈ ws, w.1 + w.2.length ≤ Config.windowBase) →
    ∀ b, ¬undoArea s b → s.mem.missing b = false →
      (s.asyncWrites n ws).byte b = mget 0 (ws.foldl (fun m w => writeBytes m w.1 w.2) s.mem.bytes) b

/-- Stash windows (R333 to R336): `stash.map` makes the checks of R334 in order and maps a window under the lowest free number;
`stash.unmap` and `stash.flush` recall its lines, each of which then stands at its home as its owner left it, and free the
window or keep it; a window that is not mapped raises ILLEGAL_OPERAND. -/
def Obligations.StashWindows : Prop :=
  (∀ (s : State) (e : Env) (f : Fields), Runs s e →
    let a := (e.sA f).toNat
    let b := (e.sB f).toNat
    let spg := b % 64
    let npg := b / 65536 % 256
    let k := s.core e.n
    let meet (a n b m : Nat) : Prop := a < b + m ∧ b < a + n
    let trap (cause : BitVec 8) (taddr : DWord) : Host.Outcome State Fault Refusal := .next (s.slotTrap e e.p.pos cause taddr)
    let legal : Prop := b < 2 ^ 24 ∧ b / 64 % 1024 = 0 ∧ 1 ≤ npg ∧ npg ≤ 64 ∧ spg + npg ≤ 64
    let room : Prop := 65536 * (spg + npg) ≤ e.x.task.spSize ∧ e.x.windows.length < 4 ∧
      (∀ y ∈ k.tasks, y.task.spBase = e.x.task.spBase → ∀ w ∈ y.windows, ¬meet spg npg w.2.spg w.2.npg) ∧
      ∀ y ∈ k.tasks, ∀ w ∈ y.windows, ¬meet a (65536 * npg) w.2.gbase.toNat (65536 * w.2.npg)
    (¬legal → exec (.stashMap f) s = trap 0x04 e.slotAddr) ∧
    (legal → a % 65536 ≠ 0 → exec (.stashMap f) s = trap 0x08 (e.sA f)) ∧
    (legal → a % 65536 = 0 → ¬room → exec (.stashMap f) s = trap 0x05 e.slotAddr) ∧
    (∀ g, legal → a % 65536 = 0 → room → s.windowPages e.n e.x.task.queue e.b.latch.ctl.priv a npg = .error g →
      exec (.stashMap f) s = .next (g.s.slotTrap e e.p.pos g.cause g.taddr)) ∧
    (∀ t ps, legal → a % 65536 = 0 → room → s.windowPages e.n e.x.task.queue e.b.latch.ctl.priv a npg = .ok (t, ps) →
      ∃ j, j < 4 ∧ tget e.x.windows j = none ∧ (∀ i, i < j → (tget e.x.windows i).isSome = true) ∧
        exec (.stashMap f) s = .next ((t.modCtx e.n e.c fun x =>
          { x with windows := tset x.windows j { gbase := e.sA f, spg := spg, npg := npg, pages := ps } }.putS e.b.latch f.d 1
            (BitVec.ofNat 64 j)).advance e)) ∧
    (tget e.x.windows a = none →
      exec (.stashUnmap f) s = trap 0x04 e.slotAddr ∧ exec (.stashFlush f) s = trap 0x04 e.slotAddr) ∧
    ∀ w, tget e.x.windows a = some w →
      exec (.stashFlush f) s = .next ((s.recallWindow w).advance e) ∧
      exec (.stashUnmap f) s =
        .next (((s.recallWindow w).modCtx e.n e.c fun x => { x with windows := tdel x.windows a }).advance e)) ∧
  ∀ (s : State) (l m j i : Nat) (x : Ctx) (w : Window), (s.mem.line l).own = some m →
    (s.core m).stashOf l = some (x, j, w, i) →
    let u := s.recall l
    (u.mem.line l).own = none ∧
    ∀ b, lineOf b = l ∨ s.ckpt.page (64 * l) = none ∨ (¬undoArea s b ∧ s.mem.missing b = false) →
      u.byte b = if lineOf b = l then mget 0 (s.core m).spad (x.task.spBase + 65536 * w.spg + 64 * i + b % 64) else s.byte b

/-- A state whose input has been used up. -/
def Sys2Proof.used (s : State) : State := { s with input := .none }

/-- The events that name bytes of memory. -/
def Sys2Proof.namesBytes : Instr → Bool
  | .remoteAccessArrival | .hostRmaWrite | .hostRmaRead => true
  | _ => false

/-- The events that need no data. -/
def Sys2Proof.needsNone : Instr → Bool
  | .dispatchHead | .ckptCopyComplete | .ckptCopyFail | .unlistedOpcode => true
  | _ => false

/-- A byte of a range lies beyond the package's memory, or in a block that a reset has removed from the memory map (R319, R354).
-/
def Sys2Proof.nowhere (s : State) (a len : Nat) : Prop := Config.memBytes < a + len ∨ ∃ i < len, s.mem.missing (a + i) = true

/-- Every event of the package goes on to a next state, but an access from outside to bytes that do not exist, which faults
(R318, R319, R354, log 1); an event that needs data and has none changes nothing. -/
def Obligations.EventsGoOn : Prop :=
  (∀ (i : Instr) (s : State), isEvent i = true → namesBytes i = false → ∃ t, exec i s = .next t) ∧
  (∀ (i : Instr) (s : State), isEvent i = true → needsNone i = false → s.input = .none → exec i s = .next s) ∧
  ∀ s : State,
    (∀ node a bs, s.input = .hostRmaWrite node a bs →
      (exec .hostRmaWrite s = .fault .noSuchAddress ↔ nowhere s a bs.length)) ∧
    (∀ a len, s.input = .hostRmaRead a len → (exec .hostRmaRead s = .fault .noSuchAddress ↔ nowhere s a len)) ∧
    (∀ node a len, s.input = .remoteAccessArrival node (.load a len) →
      (exec .remoteAccessArrival s = .fault .noSuchAddress ↔ nowhere s a len)) ∧
    (∀ node ps, s.input = .remoteAccessArrival node (.store ps) →
      (exec .remoteAccessArrival s = .fault .noSuchAddress ↔ ∃ p ∈ ps, nowhere s p.1 p.2.length)) ∧
    ∀ node op md a b cmp, s.input = .remoteAccessArrival node (.atomic op md a b cmp) →
      (exec .remoteAccessArrival s = .fault .noSuchAddress ↔ nowhere s a (Amo.bytes ⟨op, md, b, cmp⟩))

/-- The launch queues (R67 to R72): a queue without accepted work is enabled, resized and disabled, its counts becoming 0;
settings in range are taken; a record that the monitor finds at the expected SEQ is accepted, on chip while there is room; a
late record is discarded with STATUS 1, and a held one enters the ring when there is room, or is discarded with STATUS 6; a
completion entry is written at its place and counted. Nothing else of memory changes but the undo area (R346). -/
def Obligations.QueueEvents : Prop :=
  (∀ (s : State) (q : Nat), q < 64 → s.canonical →
    let u := used s
    let x := s.queue q
    let quiet : Prop := x.items = [] ∧ x.waiting = none
    let fresh : Queue := { x with items := [], timer := none, waiting := none, expected := 0, consumed := 0, cdone := 0 }
    let monitored (i : Instr) (y : Queue) : Prop := ∃ r, r.queue q = y ∧ (∀ p, p ≠ q → r.queue p = s.queue p) ∧
      exec i s = .next (State.monitor 256 r q)
    (s.input = .queueEnable q → quiet → monitored .queueEnable { fresh with enable := true }) ∧
    (s.input = .queueDisable q → quiet →
      exec .queueDisable s = .next (u.setQueue q { x with enable := false, items := [], timer := none, waiting := none })) ∧
    (∀ n, s.input = .queueSetQsize q n → n ∈ [16, 32, 64, 128, 256] → quiet →
      monitored .queueSetQsize { fresh with qsize := n }) ∧
    (∀ c, s.input = .queueSettings q c → 10000 ≤ c.timeoutNs → c.timeoutNs ≤ 10000000 → c.troot % 2097152 = 0 →
      c.troot < Config.memBytes → exec .queueSettings s = .next (u.setQueue q { x with cfg := c })) ∧
    (∀ t, s.input = .recordTimeout q → x.timer = some t → t + x.cfg.timeoutNs ≤ s.gtime.toNat →
      exec .recordTimeout s = .next (State.monitor 256
        ((u.setQueue q { x with expected := x.expected + 1, timer := none }).complete q { seq := x.expected, status := 1 }) q)) ∧
    (∀ t, s.input = .recordTimeout q → x.timer = some t → s.gtime.toNat < t + x.cfg.timeoutNs →
      exec .recordTimeout s = .next u) ∧
    ∀ before seq behind, s.input = .onChipRingRefill q → x.items = before ++ .inWindow seq :: behind →
      (∀ r, .inWindow r ∉ before) → x.onChip < 16 →
      let bs := s.slotBytes q seq
      let good : Prop := fieldAt bs 120 4 = seq.toNat ∧ crcOk bs = true
      (good → ∃ t, exec .onChipRingRefill s = .next t ∧
        t.queue q = { x with items := before ++ .onChip bs :: behind, consumed := seq }) ∧
      (¬good → exec .onChipRingRefill s =
        .next ((u.setQueue q { x with items := before ++ behind }).complete q { seq := seq, status := 6 }))) ∧
  -- the line monitor
  (∀ (s : State) (q fuel : Nat), q < 64 → s.canonical → (s.queue q).enable = true →
    let x := s.queue q
    let bs := s.slotBytes q x.expected
    let here : Prop := fieldAt bs 120 4 = x.expected.toNat
    let accepted (y : Queue) : Prop := ∃ r, r.queue q = { y with expected := x.expected + 1, timer := none } ∧
      State.monitor (fuel + 1) s q = State.monitor fuel r q
    (here → crcOk bs = true → x.onChip < 16 → x.hasHeld = false →
      accepted { x with items := x.items ++ [.onChip bs], consumed := x.expected }) ∧
    (here → crcOk bs = true → 16 ≤ x.onChip ∨ x.hasHeld = true →
      accepted { x with items := x.items ++ [.inWindow x.expected] }) ∧
    (here → crcOk bs = false → x.timer = none →
      State.monitor (fuel + 1) s q = s.setQueue q { x with timer := some s.gtime.toNat }) ∧
    (¬here → State.monitor (fuel + 1) s q = s.setQueue q { x with timer := none })) ∧
  -- a completion entry
  ∀ (s : State) (q : Nat) (c : Completion), q < 64 → s.canonical → (∀ l, (s.mem.line l).own = none) →
    let t := s.complete q c
    let n := (s.queue q).cdone
    let at_ := Config.windowBase + 65536 * q
    let entry := at_ + 0x8000 + 32 * (n.toNat % 256)
    let bs := wordLe 4 c.seq ++ natLe 2 q ++ natLe 2 c.status ++ wordLe 8 s.gtime ++ natLe 4 c.done ++ natLe 4 c.ended ++ natLe 8 0
    t.queue q = { s.queue q with cdone := n + 1 } ∧
    (∀ b, ¬undoArea s b → s.mem.missing b = false → t.byte b = if entry ≤ b ∧ b < entry + 32 then bs.getD (b - entry) 0
      else if at_ + 0xA004 ≤ b ∧ b < at_ + 0xA008 then (wordLe 4 (n + 1)).getD (b - (at_ + 0xA004)) 0 else s.byte b) ∧
    (s.ckpt.copy = none → t.sent = s.sent ++ (s.queue q).cfg.notify.toList.map fun a => .notify a bs)

/-- A queue has nothing for the dispatcher to do. -/
def Sys2Proof.idleQueue (x : Queue) : Prop := x.waiting = none ∧ (x.running ≠ none ∨ x.takeHead = none)

/-- The dispatcher can serve a queue: place some of its waiting grid, or take its head (R74, R75). -/
def Sys2Proof.mayServe (s : State) (q : Nat) : Prop :=
  let x := s.queue q
  match x.waiting with
  | some gid => s.tryPlace gid ≠ .none
  | none => x.running = none ∧ x.takeHead ≠ none

/-- The dispatcher (R74 to R80, R82, R83, R224, R255, R256): it takes the entry at the head of a queue that runs nothing,
refuses a bad record with STATUS 2 and performs a push; a waiting grid is tried again in its turn of the round of queues; a grid
is placed on the first core that can hold it, its task on the lowest free context with its index and PARAM in s1 and s2, the
core's instruction cache emptied (R323) and its time not before the dispatcher's (R331); a context whose task is over is freed,
and the dispatcher hears its core; a barrier is released when all members that have not ended have arrived, at level 5 with the
arrivals of the other chips (log 44); and what has been answered goes on. -/
def Obligations.DispatcherEvents : Prop :=
  (∀ (s : State) (q : Nat) (bs : List Byte) (rest : List QItem), q < 64 → s.served < 64 →
    (∀ p, p < 64 → p ≠ q → idleQueue (s.queue p)) →
    let u := used s
    let x := s.queue q
    let r := parseRecord bs
    let seq : BitVec 32 := BitVec.ofNat 32 (fieldAt bs 120 4)
    let w := u.setQueue q { x with items := rest }
    x.waiting = none → x.running = none → x.tail = none → x.items = .onChip bs :: rest →
    (recordOk bs = false → exec .dispatchHead s = .next { w.complete q { seq := seq, status := 2 } with served := q }) ∧
    (recordOk bs = true → r.kind = 1 →
      (4096 ≤ s.heap.length → exec .dispatchHead s = .next { w.complete q { seq := seq, status := 8 } with served := q }) ∧
      (s.heap.length < 4096 → r.notify = false → exec .dispatchHead s =
        .next { w with heap := heapInsert (heapEntry r.deadline r.key) s.heap, served := q })) ∧
    (∀ t hs, recordOk bs = true → r.kind ≠ 1 → w.checkHead q { bytes := bs, seq := seq } = (t, .grid r hs) →
      (t.takeGrid q { bytes := bs, seq := seq } r hs).2 = true →
      exec .dispatchHead s = .next { (t.takeGrid q { bytes := bs, seq := seq } r hs).1 with served := q })) ∧
  (∀ (s : State) (q gid : Nat), s.input = .placementRetry q → (s.queue q).waiting = some gid → q < 64 → s.served < 64 →
    let u := used s
    -- no queue that comes before it in the round after the one served last can be served
    let turn : Prop := ∀ p, p < 64 → (p + 63 - s.served) % 64 < (q + 63 - s.served) % 64 → ¬mayServe u p
    (u.tryPlace gid = .none ∨ ¬turn → exec .placementRetry s = .next u) ∧
    (turn → (∀ t, u.tryPlace gid = .some t → exec .placementRetry s = .next { t with served := q }) ∧
      (u.tryPlace gid = .cycle → exec .placementRetry s = .next { u.refuseCycle q gid with served := q }))) ∧
  -- a task is placed
  (∀ (s : State) (gid n : Nat) (g : Grid) (h : Header) (cores : List Nat), tget s.grids gid = some g → g.hdrs = [h] →
    (searchOrder cores g.from_).find? (fun m => (s.core m).canPlace gid g) = some n → (∀ l, (s.mem.line l).own = none) →
    ∃ t c x, s.placeTask cores gid = some t ∧ ((s.core n).freeSlots g.taken).head? = some c ∧ t.ctx? n c = some x ∧
      x.task.hdr = h ∧ x.task.index = g.placed ∧ x.task.record = g.record ∧ x.run = .ready ∧ x.pc = .at h.code ∧
      x.regs.s = mset 0 (mset 0 [] 1 (BitVec.ofNat 64 g.placed)) 2 g.record.param ∧ x.regs.v = [] ∧ x.pend = [] ∧
      x.ctl.status = 0 ∧ x.ctl.fmode = 0 ∧ x.ctl.equota = g.record.equota ∧
      tget t.grids gid = some { g with
        placed := g.placed + 1, live := g.live + 1, from_ := n + 1, born := if g.placed = 0 then s.clock else g.born } ∧
      (t.core n).icache = [] ∧ s.dispT ≤ (t.core n).t) ∧
  -- a context is freed
  (∀ (s : State) (n c : Nat) (x : Ctx) (g : Grid), s.input = .contextFree n c → s.ctx? n c = some x →
    let u := used s
    let done : Prop := x.run = .ended ∧ x.cnt.st = 0 ∧ x.cnt.rm = 0 ∧ x.cnt.as = 0
    (¬done → (∀ o ∈ (s.core n).suspended, o.2.slot ≠ c) → exec .contextFree s = .next u) ∧
    (done → tget s.grids x.task.grid = some g → g.live ≠ 1 → 1 ≤ g.live → exec .contextFree s = .next
      { u.setCore n ((s.core n).dropCtx c x) with
        dispT := max s.dispT (s.core n).t
        grids := tset s.grids x.task.grid { g with
          live := g.live - 1, done := g.done + (if x.trapped then 0 else 1),
            ended := g.ended + (if x.trapped then 1 else 0) } })) ∧
  -- barriers
  (∀ (s : State) (gid level dom n : Nat) (b : Barrier), s.input = .barrierRelease gid level dom n →
    s.barriers.find? (fun b => b.is gid level dom n) = some b →
    let u := used s
    let all : Prop := b.arrived ≠ [] ∧ ∀ m ∈ s.members b.grid b.level b.dom, m ∈ b.arrived
    (¬all → exec .barrierRelease s = .next u) ∧ (all → level ≠ 5 → exec .barrierRelease s = .next (u.releaseBarrier b)) ∧
    (all → level = 5 → b.sent = true → b.peers = 0 → exec .barrierRelease s = .next u) ∧
    (all → level = 5 → b.sent = true → 0 < b.peers → exec .barrierRelease s = .next (u.releaseBarrier b)) ∧
    (∀ g, all → level = 5 → b.sent = false → b.peers = 0 → tget s.grids b.grid = some g →
      ∃ t, exec .barrierRelease s = .next t ∧ t.sent = s.sent ++ [.arrival g.record.jobtag b.n] ∧ t.cores = s.cores)) ∧
  (∀ (s : State) (node job : Nat) (gid n : Nat) (g : Grid), s.input = .barD5Exchange node job n →
    ((mget {} s.fabric.nodes node).failed = true → exec .barD5Exchange s = .next (used s)) ∧
    ((mget {} s.fabric.nodes node).failed = false →
    s.grids.find? (fun g => g.2.record.jobtag = BitVec.ofNat 32 job && BitVec.ofNat 32 job != 0) = some (gid, g) →
    exec .barD5Exchange s = .next { used s with
      barriers := if s.barriers.any (fun b => b.is gid 5 0 n) then
          s.barriers.map fun b => if b.is gid 5 0 n then { b with peers := b.peers + 1 } else b
        else s.barriers ++ [{ grid := gid, level := 5, dom := 0, n := n, peers := 1 }] })) ∧
  -- answers, walks and idle passes
  (∀ (s : State) (n c : Nat) (x : Ctx), s.ctx? n c = some x →
    (s.input = .dispatchAnswer n c → x.run = .blocked .answer → x.bundle.all Bundle.answered = true →
      exec .dispatchAnswer s = .next ((used s).setCtx n c { x with run := .ready })) ∧
    (s.input = .dispatchAnswer n c → x.run ≠ .blocked .answer ∨ x.bundle.all Bundle.answered = false →
      exec .dispatchAnswer s = .next (used s)) ∧
    ∀ p g, s.input = .edgeIdlePass n c → x.run = .edges (p + 1) → x.task.gslot = some g →
      (s.core n).edgeReady g x.task.hdr.role = true → exec .edgeIdlePass s = .next ((used s).modCore n fun k =>
        (k.modTask x.task.uid fun y => { y with run := .edges p, fires := y.fires + 1 }).fire x)) ∧
  (∀ (s : State) (h m : Nat) (c : Chain), s.input = .walkStart h → tget s.chains h = some c → c.phase = .walk m none →
    exec .walkStart s = .next (used s).serveSlices) ∧
  (∀ (s : State) (h m fuel : Nat) (c : Chain), tget s.chains h = some c → c.phase = .walk m none →
    (c.nextStep m = none → State.walkOn (fuel + 1) s h = s.setChain h { c with phase := .hold, news := true }) ∧
    ∀ n t bs, c.nextStep m = some n →
      (s.setChain h { c with phase := .walk n (some n) }).readRecord c.ownerQueue c.crec 128 = (t, some bs) →
      (t.queue c.cq).enable = true → State.walkOn (fuel + 1) s h = t.setQueue c.cq { t.queue c.cq with
        items := (t.queue c.cq).items ++ [.walk bs ⟨h, n, c.opened, c.walks⟩] }) ∧
  ∀ (k : Core) (x : Ctx) (g i : Nat), x.task.gslot = some g → k.deadRoles x.task.mates = [] →
    let w := mget 0 k.edges i
    mget 0 (k.fire x).edges i = if i / 32 = g ∧ edgeIncident w x.task.hdr.role = true ∧ edgePoints w = x.task.hdr.role
      then w ^^^ 0x100 else w

/-- Contexts on their core (R79, R94, R110, R264 to R267, R270, R273 to R279): the contexts whose conditions have cleared become
ready together, and an idle core takes up the first that may issue after the one that ran last; requests at the leg limit and at
the energy quota stand until they are taken, by another ready context, by a suspension, or by nothing; a suspension saves what
the save area takes and frees the context, and a resumption takes up what the save area holds with every declared register
absent, no task that came first waiting for the context; absent registers come from the save area when a bundle needs them, and
an opcode that no table lists raises its trap; deferred traps and user events come before a bundle; a cancelled phase goes back
to its snapshot, one that has done an irrevocable act does not (R280). Which bundle a trap before an unread bundle names is log
24; what stands in the kept copy, log 15; which deferred trap comes first, log 49; how a leg limit is met, log 50. -/
def Obligations.ContextEvents : Prop :=
  (∀ (s : State) (n c : Nat) (x : Ctx), s.ctx? n c = some x →
    let u := used s
    let k := s.core n
    let set (y : Ctx) : Host.Outcome State Fault Refusal := .next (u.setCtx n c y)
    -- ready
    (let woken := u.setCore n { k with
        ctxs := k.ctxs.map fun e => if u.mayWake n e.1 e.2 then (e.1, { e.2 with run := .ready }) else e };
      s.input = .contextReady n c →
        (u.mayWake n c x = true ∨ x.run = .ready → exec .contextReady s = .next (woken.startNext n)) ∧
        (u.mayWake n c x = false → x.run ≠ .ready → exec .contextReady s = .next u)) ∧
    (k.running ≠ none → s.startNext n = s.setCore n k) ∧
    (∀ d, k.running = none → k.nextReady = some d → s.startNext n = s.setCore n { k with running := some d }) ∧
    (∀ d, k.last < 8 → (k.nextReady = some d ↔ d < 8 ∧ (tget k.ctxs d).any k.mayIssue = true ∧
      ∀ d', d' < 8 → (d' + 7 - k.last) % 8 < (d + 7 - k.last) % 8 → (tget k.ctxs d').any k.mayIssue = false)) ∧
    -- requests
    (s.input = .legLimitReached n → k.running = some c →
      let limit := x.ctl.leglim.toNat % 2 ^ 32
      (limit ≠ 0 → x.leg.request = none → limit ≤ x.leg.count →
        exec .legLimitReached s = set { x with leg := { x.leg with request := some x.leg.count } }) ∧
      (limit = 0 ∨ x.leg.request ≠ none ∨ x.leg.count < limit → exec .legLimitReached s = .next u)) ∧
    (s.input = .energyQuotaExhausted n c → x.ctl.equota ≠ 0 → x.ctl.equota.toNat ≤ x.ctl.eused.toNat → x.leg.energy = false →
      x.run ≠ .ended → exec .energyQuotaExhausted s =
        set { x with leg := { x.leg with request := some (x.leg.request.getD x.leg.count), energy := true } }) ∧
    -- actions
    (s.input = .graceExpiry n → k.running = some c → x.bundle = none → x.buf.cancel = false → x.graceOver = true →
      let t := u.setCtx n c x
      let r := t.setCtx n c { x with leg := {} }
      (x.oldestTrap ≠ none → exec .graceExpiry s = .next u) ∧ (x.oldestTrap = none →
        (x.leg.energy = true → exec .graceExpiry s = .next (t.suspend n c true)) ∧
        (x.leg.energy = false → (r.core n).otherReady c = true →
          exec .graceExpiry s = .next (r.setCore n { r.core n with running := none, last := c })) ∧
        (x.leg.energy = false → (r.core n).otherReady c = false → r.taskWaits n c = true →
          exec .graceExpiry s = .next (r.suspend n c false)) ∧
        (x.leg.energy = false → (r.core n).otherReady c = false → r.taskWaits n c = false → exec .graceExpiry s = .next r))) ∧
    (∀ quota, k.running = some c →
      let passes : RunState := match x.run with | .edges p => .edges p | .blocked .cancel => .blocked .cancel | _ => .ready
      let t := s.suspend n c quota
      SameCores (s.setCore n { k with
        running := none, last := c, ctxs := tdel k.ctxs c
        suspended := tset k.suspended x.task.uid
          { ctx := { x with run := passes, leg := {} }, slot := c, quota := quota, since := s.clock } }) t ∧
      (x.ctl.savebase.toNat % 2 ^ 22 = 0 → (∀ b, b < 2 ^ 22 →
        s.ckpt.page (x.saveAt b) = none ∧ s.mem.missing (x.saveAt b) = false) → x.pend.length < 2 ^ 32 →
        let holds (off : Nat) (bs : List Byte) : Prop := ∀ i b, bs[i]? = some b → t.byte (x.saveAt (off + i)) = b
        let live := ((s.placeAll n).peek (x.saveAt 41) 1).getD 0 0
        holds 41 [live ||| 2] ∧ holds 48 (natLe 8 x.buf.k) ∧
        holds 44 (natLe 4 (x.pend.length + (x.frame.elim 0 fun f => f.pend.length) + x.eframe.elim 0 fun f => f.pend.length)) ∧
        (∀ i, i < x.task.hdr.ns → i < 32 → x.dirty.s.getLsbD i = true → x.absent.s.getLsbD i = false →
          holds (0x200 + 8 * i) (wordLe 8 (mget 0 x.regs.s i))) ∧
        (∀ i, i < 4 → holds (0x310 + 8 * i) (wordLe 8 (x.loops.counter i)) ∧
          holds (0x370 + 8 * i) (wordLe 8 (mget 0 x.regs.es i))) ∧
        holds 0x410 (wordLe 8 x.ctl.taddr) ∧ holds 0x418 (wordLe 8 x.ctl.tbun) ∧
        ∀ i, i < x.task.hdr.nv → i < 16 → x.dirty.v.getLsbD i = true → x.absent.v.getLsbD i = false →
          ∀ j, j < 1024 → holds (0x2000 + 4096 * i + 4 * j) (wordLe 4 (mget 0 (mget [] x.regs.v i) j)))) ∧
    -- what comes before a bundle of the running context, in the order of R267
    (k.running ≠ some c → (s.input = .deferredTrap n c → exec .deferredTrap s = .next u) ∧
      (s.input = .userEventDelivery n c → exec .userEventDelivery s = .next u) ∧
      (s.input = .registerMissMicrotrap n c → exec .registerMissMicrotrap s = .next u)) ∧
    (∀ b, s.input = .registerMissMicrotrap n c → k.running = some c → x.buf.cancel = false → x.boundaryStep = none →
      x.bundle = some b → exec .registerMissMicrotrap s =
        .next (if x.lacks.none then u else u.modCtx n c fun y => u.loadRegs y x.lacks)) ∧
    (∀ t a, s.input = .registerMissMicrotrap n c → k.running = some c → x.buf.cancel = false → x.boundaryStep = none →
      x.bundle = none → u.begin n c = .miss t a →
      let y := t.ctx n c
      ∃ z : Ctx, exec .registerMissMicrotrap s = .next (t.modCtx n c fun _ => z) ∧
        z.absent = y.absent.without (y.absent.and a) ∧
        (∀ i, mget 0 z.regs.s i = if i ≠ 0 ∧ i < 32 ∧ (y.absent.and a).s.getLsbD i = true then
          leWord 64 (t.peek (y.saveAt (0x200 + 8 * i)) 8) else mget 0 y.regs.s i) ∧
        (∀ i, mget 0 z.regs.mp i = if i < 8 ∧ (y.absent.and a).mp.getLsbD i = true then
          leWord 64 (t.peek (y.saveAt (0x330 + 8 * i)) 8) else mget 0 y.regs.mp i) ∧
        (∀ i j, j < 1024 → lane (mget [] z.regs.v i) j = if i < 16 ∧ (y.absent.and a).v.getLsbD i = true then
          leWord 32 (t.peek (y.saveAt (0x2000 + 4096 * i + 4 * j)) 4) else lane (mget [] y.regs.v i) j) ∧
        { z with absent := y.absent, regs := y.regs } = y) ∧
    (∀ t i, s.actor = .core n → k.running = some c → x.bundle = none → x.buf.cancel = false → x.boundaryStep = none →
      u.begin n c = .trap t i → i.cause = 0x01 ∨ i.cause = 0x02 →
      exec .unlistedOpcode s = .next (t.trap n c i)) ∧
    (∀ a src, s.input = .userEventDelivery n c → k.running = some c → x.buf.cancel = false → x.oldestTrap = none →
      x.graceOver = false → x.bundle = none → x.pc = .at a → x.ctl.status.toNat / 16 % 8 = 2 → src < 3 →
      x.cnt.fired.getLsbD src = true → (∀ i, i < src → x.cnt.fired.getLsbD i = false) →
      exec .userEventDelivery s = .next ((u.setCtx n c x).deliver n c (src + 1) a)) ∧
    (∀ d, s.input = .deferredTrap n c → k.running = some c → x.bundle = none → x.buf.cancel = false → x.oldestTrap = some d →
      let y := u.setCtx n c (x.dropTrap d)
      let trapped (t : State) (resume : Nat) (a : DWord) : Host.Outcome State Fault Refusal := .next (t.trap n c
        { slot := 0, resume := resume, noissue := true, tbun := a, cause := d.cause, taddr := d.taddr, word := d.word })
      (d.cause ≠ 0x13 ∨ x.cancels = false →
        (∀ a, x.pc = .at a → exec .deferredTrap s = trapped y 0 a) ∧
        (∀ a t b, x.pc = .after a → y.resolvePc n c = .ok (t, b) → exec .deferredTrap s = trapped t 0 b) ∧
        ∀ a g, x.pc = .after a → y.resolvePc n c = .error g → exec .deferredTrap s = trapped y 8 a) ∧
      (d.cause = 0x13 → x.cancels = true → exec .deferredTrap s = .next ((u.setCtx n c
        { x with run := .blocked .cancel, buf := { x.buf with cancel := true } }).release n c))) ∧
    (x.oldestTrap = none → s.input = .deferredTrap n c → exec .deferredTrap s = .next u) ∧
    -- phases and random bits
    (s.input = .phaseCancel n c → x.buf.cancel = true → x.buf.irrevocable = true →
      exec .phaseCancel s = .next (u.setCtx n c { x with buf := { x.buf with cancel := false } })) ∧
    (∀ p, s.input = .phaseCancel n c → x.buf.cancel = true → x.buf.irrevocable = false → x.cnt.as = 0 → x.buf.snap = some p →
      ∃ t y, exec .phaseCancel s = .next t ∧ SameCores (s.setCtx n c y) t ∧ y.run = .ready ∧ y.task = x.task ∧ y.regs = p.regs ∧
        y.ctl = { p.ctl with fflags := x.ctl.fflags, eused := x.ctl.eused } ∧ y.loops = p.loops ∧ y.pc = p.pc ∧
          y.count = p.count ∧
        y.units.epi = p.epi ∧ y.units.xa = p.xa ∧ y.parkedRoutine = p.routine ∧ y.parked = p.parked ∧
        y.cnt = { x.cnt with as := p.parked.length } ∧ y.bundle = none ∧ y.frame = none ∧ y.eframe = none ∧ y.deferred = [] ∧
        y.buf.held = [] ∧ y.buf.cancel = false ∧ y.buf.k = x.buf.k ∧ y.buf.desc = x.buf.desc) ∧
    (s.input = .rngQueueFill n c → exec .rngQueueFill s = set { x with rqAhead := x.rqAhead + 1 })) ∧
  -- resumptions and grants
  (∀ (s : State) (n uid : Nat) (e : Suspended), tget (s.core n).suspended uid = some e →
    let u := used s
    let k := s.core n
    (s.input = .taskResumption n uid → e.quota = true ∨ (tget k.ctxs e.slot).isSome = true ∨ e.ctx.landed = false →
      exec .taskResumption s = .next u) ∧
    (∀ q, s.input = .quotaGrant n uid q → e.quota = true → exec .quotaGrant s = .next (u.setCore n { k with
      suspended := tset k.suspended uid { e with quota := false, grant := some q } })) ∧
    (s.input = .taskResumption n uid → u.mayResume n e = true → (∀ o ∈ k.outq, o.placed = true) →
      let w (off : Nat) : DWord := leWord 64 (u.peek (e.ctx.saveAt off) 8)
      let h := e.ctx.task.hdr
      ∃ t y, exec .taskResumption s = .next t ∧ tget (t.core n).ctxs e.slot = some y ∧ tget (t.core n).suspended uid = none ∧
        y.run = e.ctx.run ∧ y.task = e.ctx.task ∧ y.pend = e.ctx.pend ∧ y.count = e.ctx.count ∧ y.pc = e.ctx.pc ∧
        y.absent = ⟨BitVec.ofNat 32 (2 ^ h.ns - 1), BitVec.ofNat 16 (2 ^ h.nv - 1), BitVec.ofNat 8 (2 ^ h.nm - 1),
          BitVec.ofNat 8 (2 ^ h.nmp - 1), BitVec.ofNat 16 (2 ^ h.nst - 1)⟩ ∧ y.dirty = {} ∧ y.leg = {} ∧
        (∀ i, i < 4 → y.loops.counter i = w (0x310 + 8 * i) ∧ mget 0 y.regs.es i = w (0x370 + 8 * i)) ∧
        y.ctl.status = (w 0x400).setWidth 7 ∧ y.ctl.tbun = w 0x418 ∧ y.ctl.fmode = (w 0x460).setWidth 11 ∧
        (e.grant = none → y.ctl.eused = e.ctx.ctl.eused ∧ y.ctl.equota = w 0x448) ∧
        ∀ q, e.grant = some q → y.ctl.eused = e.ctx.ctl.eused - w 0x448 ∧ y.ctl.equota = q)) ∧
  -- operating points
  (∀ (s : State) (n : Nat), s.input = .opselSettleEnd n →
    let o := (s.core n).oppt
    let cap := opptCap o
    (o.getLsbD 6 = false → exec .opselSettleEnd s = .next (used s)) ∧
    (o.getLsbD 6 = true → ∃ p : BitVec 10, opptCap p = cap ∧ opptCur p = opptTgt o ∧
      -- CAP has changed meanwhile, and the domain moves on
      p.getLsbD 6 = decide (opptTgt o < cap) ∧ opptTgt p = max cap (opptTgt o) ∧
      exec .opselSettleEnd s = .next ((used s).setCore n { s.core n with oppt := p })))

/-- The memory system and the engines by themselves (R86, R109, R110, R112, R115, R121, R192 to R197, R322, R325, R327, R330,
R335, R339, R353): stores and atomics take their places and leave CNTST; data lands; a stash line is filled, once no operation
uses its granule (R191); a line is evicted, its lease kept by its slice; time ticks; accesses from other nodes perform line by
line at their homes and are answered, those of a failed node not, and accesses of the host in one event (log 27); answers leave
CNTRM, with the last part of a store; tile operations and copies retire, each leaving CNTAS; an invalidation waits for the
operations of its queue, held stores and copies to come among them (log 6). Which accesses take their place first is log 28. -/
def Obligations.MemoryEvents : Prop :=
  (∀ (s : State) (n : Nat),
    let u := used s
    let k := s.core n
    (∀ a as, k.outq = a :: as → a.placed = true →
      let gone := (u.modCore n fun k => { k with outq := k.outq.filter fun b => b.id != a.id }).leaveCounter n a.uid 0
      (a.amo = none → s.input = .storePerform n → exec .storePerform s = .next gone) ∧
      (a.amo ≠ none → s.input = .storePerform n → exec .storePerform s = .next u) ∧
      (a.amo ≠ none → s.input = .atomicPerform n → exec .atomicPerform s = .next gone) ∧
      (a.amo = none → s.input = .atomicPerform n → exec .atomicPerform s = .next u)) ∧
    (s.input = .homeAccess n → (∃ a ∈ k.outq, a.placed = false) → exec .homeAccess s = .next (u.placeNext n)) ∧
    (s.input = .homeAccess n → (∀ a ∈ k.outq, a.placed = true) → exec .homeAccess s = .next u) ∧
    (s.input = .logicalTimeTick n → (k.ticks < k.ccyc.toNat / 128 →
        exec .logicalTimeTick s = .next (u.setCore n { k with t := k.t + 1, ticks := k.ticks + 1 })) ∧
      (k.ccyc.toNat / 128 ≤ k.ticks → exec .logicalTimeTick s = .next u)) ∧
    -- the engines
    (∀ id bad o, s.input = .tileLoadComplete n id bad → k.asyncOp id = some o → o.load = true →
      exec .tileLoadComplete s = .next ((u.badRows n o (o.bad ++ bad)).retireAsync n o) ∧
      (o.bad ++ bad = [] → exec .tileLoadComplete s = .next (u.retireAsync n o))) ∧
    (∀ id o, s.input = .tileStorePerform n id → k.asyncOp id = some o → o.load = false → o.copy = false →
      exec .tileStorePerform s = .next ((u.modCore n fun k => k.modTask o.uid fun x => x.release id).retireAsync n o)) ∧
    (∀ id o, s.input = .bswapCopyComplete n id → k.asyncOp id = some o → o.copy = true →
      (s.copyOpen id = true → exec .bswapCopyComplete s = .next u) ∧
      (s.copyOpen id = false → exec .bswapCopyComplete s = .next ((u.badRows n o o.bad).retireAsync n o))) ∧
    -- an operation retires: it is gone, and its task alone is charged and has one operation less
    (∀ o c x, s.ctx? n c = some x → x.task.uid = o.uid → (∀ e ∈ k.ctxs, e.2.task.uid = o.uid → e = (c, x)) →
      (∀ e ∈ k.suspended, e.2.ctx.task.uid ≠ o.uid) →
      let t := s.retireAsync n o
      (t.core n).async = k.async.filter (fun p => p.id != o.id) ∧
      (∃ e : DWord, t.ctx? n c = some { x with
        cnt := x.cnt.leave 2, ctl := { x.ctl with eused := x.ctl.eused + e } }) ∧
      ∀ d, d ≠ c → t.ctx? n d = s.ctx? n d)) ∧
  -- data of a load
  (∀ (s : State) (n c a : Nat) (x : Ctx) (l : Landing) (data : List Byte) (st : DataStatus), s.ctx? n c = some x →
    s.input = .loadDataArrival n c a data st →
    (∀ r ∈ s.fabric.remotes, ¬(r.2.core = n ∧ r.2.ctx = c ∧ r.2.addr.toNat = a ∧ r.2.counts = false)) →
    (s.localWait n x a = some l → tget (s.core n).suspended x.task.uid = none → exec .loadDataArrival s = .next
      ((used s).modCore n fun k => k.modTask x.task.uid fun y =>
        y.modLanding l.id fun m d => ({ m with status := m.status.after st false }, d))) ∧
    ((∀ y ∈ (s.core n).tasksAt c, s.localWait n y a = none) → exec .loadDataArrival s = .next (used s))) ∧
  (∀ (s : State) (n c a id : Nat) (r : Remote) (data : List Byte) (st : DataStatus), s.input = .loadDataArrival n c a data st →
    s.fabric.remotes.find? (fun r => r.2.core = n && r.2.ctx = c && r.2.addr.toNat = a && !r.2.counts) = some (id, r) →
    (st = .good → data.length ≠ r.len → exec .loadDataArrival s = .next (used s)) ∧
    (st ≠ .good ∨ data.length = r.len → exec .loadDataArrival s = .next ((used s).remoteData id r data st))) ∧
  (∀ a : Arrival, Arrival.after .waiting .good false = .arrived ∧ Arrival.after .waiting .good true = .waiting ∧
    a.after .failed false = .failed ∧ Arrival.after .waiting .uncorrectable false = .uncorrectable) ∧
  -- stash lines and evictions
  (∀ (s : State) (n c off j : Nat) (x y : Ctx) (w : Window), s.input = .stashFill n c off → s.ctx? n c = some x →
    (s.core n).windowAt x.task.spBase off = some (y, j, w) →
    let i := (off - 65536 * w.spg) / 64
    let busy := (s.core n).windowBusy y.task.uid j (64 * i) 64
    ((tget w.lines i).isSome = true ∨ busy = true → exec .stashFill s = .next (used s)) ∧
    (tget w.lines i = none → busy = false → exec .stashFill s = .next ((used s).stashFillLine n y.task.uid j i))) ∧
  (∀ (s : State) (l : Nat) (h : HomeLine), s.input = .l2Eviction l → tget s.mem.lines l = some h →
    (h.own ≠ none → exec .l2Eviction s = .next (used s)) ∧
    (h.own = none → ∃ m : Memory, m.lines = tdel s.mem.lines l ∧
      m.memt = mset 0 s.mem.memt (homeSlice (64 * l)) (max (mget 0 s.mem.memt (homeSlice (64 * l))) h.r) ∧
      { m with lines := s.mem.lines, memt := s.mem.memt } = s.mem ∧ exec .l2Eviction s = .next { used s with mem := m })) ∧
  -- the fabric interface
  (∀ (s : State) (a len : Nat) (bs : List Byte), (∀ l, (s.mem.line l).own = none) → s.ckpt.copy = none →
    let wrote (t : State) (m : Message) : Prop := t.sent = s.sent ++ [m] ∧ t.cores = s.cores ∧
      ∀ b, ¬undoArea s b → s.mem.missing b = false →
        t.byte b = if a ≤ b ∧ b < a + bs.length then bs.getD (b - a) 0 else s.byte b
    let read (t : State) : Prop := t.cores = s.cores ∧ (∀ b, t.byte b = s.byte b) ∧
      (s.mem.isBad a len = false → t.sent = s.sent ++ [.data ((List.range len).map fun i => s.byte (a + i)) false]) ∧
      (s.mem.isBad a len = true → 0 < len → ∃ d, t.sent = s.sent ++ [.data d true])
    let heard (node : Nat) : Prop := (mget {} s.fabric.nodes node).failed = false
    (a + bs.length ≤ Config.windowBase → ¬nowhere s a bs.length →
      (s.input = .hostRmaWrite none a bs → ∃ t, exec .hostRmaWrite s = .next t ∧ wrote t .ack) ∧
      ∀ node, (s.input = .remoteAccessArrival node (.store [(a, bs)]) →
          (¬heard node → exec .remoteAccessArrival s = .next (used s)) ∧
          (heard node → a % 64 + bs.length ≤ 64 → ∃ t, exec .remoteAccessArrival s = .next t ∧ wrote t .ack)) ∧
        (s.input = .hostRmaWrite (some node) a bs → (¬heard node → exec .hostRmaWrite s = .next (used s)) ∧
          (heard node → exec .hostRmaWrite s =
            exec .remoteAccessArrival { s with input := .remoteAccessArrival node (.store [(a, bs)]) }))) ∧
    (¬nowhere s a len → (s.input = .hostRmaRead a len → ∃ t, exec .hostRmaRead s = .next t ∧ read t) ∧
      ∀ node, s.input = .remoteAccessArrival node (.load a len) → heard node → a % 64 + len ≤ 64 →
        ∃ t, exec .remoteAccessArrival s = .next t ∧ read t) ∧
    ∀ node op md b cmp, s.input = .remoteAccessArrival node (.atomic op md a b cmp) →
      heard node → a + 8 ≤ Config.windowBase →
      let m : Amo := ⟨op, md, b, cmp⟩
      ¬nowhere s a m.bytes →
      let old : DWord := leWord 64 ((List.range m.bytes).map fun i => s.byte (a + i))
      let bad := s.mem.isBad a m.bytes
      a % 64 + m.bytes ≤ 64 → bs = (wordLe 8 (m.new old)).take m.bytes → ∃ t, exec .remoteAccessArrival s = .next t ∧
        wrote t (.data (if bad then [] else wordLe 8 (m.result old)) bad)) ∧
  -- an access of a peer takes its first line as each later one: one line is one step
  (∀ (s : State) (node : Nat) (acc : RemoteAccess), s.input = .remoteAccessArrival node acc → s.mem.hasAll acc = true →
    (∀ op md a b cmp, acc ≠ .atomic op md a b cmp) → (mget {} s.fabric.nodes node).failed = false →
    exec .remoteAccessArrival s = exec .remoteAccessArrival { s with
      input := .remoteAccessLine s.fresh, fresh := s.fresh + 1
      fabric := { s.fabric with arriving := tset s.fabric.arriving s.fresh (arrivingOf acc) } }) ∧
  (∀ (s : State) (id : Nat) (x : Arriving), s.input = .remoteAccessLine id → tget s.fabric.arriving id = some x →
    (∀ l, (s.mem.line l).own = none) → s.ckpt.copy = none →
    (∀ l ps ws, x.reads = [] → x.data = none → x.writes = (l, ps) :: ws →
      (∀ p ∈ ps, lineOf p.1 = l ∧ p.1 % 64 + p.2.length ≤ 64 ∧ p.1 + p.2.length ≤ Config.windowBase) →
      ∃ t, exec .remoteAccessArrival s = .next t ∧ t.cores = s.cores ∧
        (∀ b, ¬undoArea s b → s.mem.missing b = false →
          t.byte b = mget 0 (ps.foldl (fun m p => writeBytes m p.1 p.2) s.mem.bytes) b) ∧
        tget t.fabric.arriving id = (if ws = [] then none else some { x with writes := ws }) ∧
        t.sent = s.sent ++ if ws = [] then [.ack] else []) ∧
    ∀ a n rs d, x.reads = (a, n) :: rs → x.writes = [] → x.data = some d → a % 64 + n ≤ 64 →
      let bad := x.bad || s.mem.isBad a n
      let got := d ++ if bad then [] else (List.range n).map fun i => s.byte (a + i)
      ∃ t, exec .remoteAccessArrival s = .next t ∧ t.cores = s.cores ∧ (∀ b, t.byte b = s.byte b) ∧
        tget t.fabric.arriving id = (if rs = [] then none else some { x with reads := rs, data := some got, bad := bad }) ∧
        t.sent = s.sent ++ if rs = [] then [.data got bad] else []) ∧
  (∀ (s : State) (id : Nat) (v : DWord) (r : Remote), s.input = .remoteCompletion id v → tget s.fabric.remotes id = some r →
    let t := { used s with fabric := { s.fabric with remotes := tdel s.fabric.remotes id } }
    -- a part of the store is still under way
    let more : Prop := r.group ≠ 0 ∧ ∃ q ∈ t.fabric.remotes, q.2.group = r.group
    (r.counts = false → exec .remoteCompletion s = .next (used s)) ∧
    (r.counts = true → r.landing = none → (¬more → exec .remoteCompletion s = .next (t.leaveCounter r.core r.uid 1)) ∧
      (more → exec .remoteCompletion s = .next t)) ∧
    ∀ l, r.counts = true → r.landing = some l → r.group = 0 → tget (s.core r.core).suspended r.uid = none →
      exec .remoteCompletion s = .next ((t.modCore r.core fun k => k.modTask r.uid fun x =>
        x.modLanding l fun m d => ({ m with status := m.status.after .good false },
          d.patch m 0 (wordLe 8 v))).leaveCounter r.core
          r.uid 1)) ∧
  -- invalidations
  ∀ (s : State) (q base len : Nat), q < 64 →
    (s.input = .tlbInvalidate q base len →
      exec .tlbInvalidate s = .next { used s with mem := { s.mem with invals := s.mem.invals ++ [(q, base, len)] } }) ∧
    (s.input = .tlbInvalidateComplete q base len → (q, base, len) ∈ s.mem.invals →
      (s.queueQuiet q = true ↔ (∀ k ∈ s.cores, ∀ x ∈ k.2.tasks, x.task.queue = q → x.cnt.st = 0 ∧ x.cnt.rm = 0 ∧ x.cnt.as = 0 ∧
          x.buf.held = [] ∧ ∀ b, x.bundle = some b → ∀ a ∈ b.answers, ∀ src dst len ps, a.2 ≠ .copy src dst len ps) ∧
        ∀ r ∈ s.fabric.remotes, ∃ x, (s.core r.2.core).findTask r.2.uid = some x ∧ x.task.queue ≠ q) ∧
      (s.queueQuiet q = false → exec .tlbInvalidateComplete s = .next (used s)) ∧
      (s.queueQuiet q = true → exec .tlbInvalidateComplete s = .next { used s with mem := { s.mem with
        tlbs := s.mem.tlbs.filterMap fun t =>
          let es := t.2.filter fun e => !(e.queue = q && decide (e.base < base + len) && decide (base < e.base + 2 ^ e.bits))
          if es = [] then none else some (t.1, es)
        invals := s.mem.invals.erase (q, base, len) } }))

/-- The management interface, the checkpoint unit and recovery (R110, R118, R340 to R344, R348, R349): settings in range are
taken; a node that has not answered within FTIMEOUT is FAILED and all operations to it fail; a copy of the shard sends each of
its pages, and is acknowledged or fails; a recovery stops the queues of its job and ends its tasks, and once their counters are
0 it rolls back, lets a spare take the node number and the image, assigns the new reserve and returns the node to UP, each stage
reported (log 36 says how a reserve assigned in step 5 leaves LAST, and how a second failure loses the job, and that settings
which change BUDDY or RESV assign a reserve); and rollback gives back the pages of the image, or the undo generations, newest
first. -/
def Obligations.ManagementEvents : Prop :=
  -- the fabric timeout
  (∀ (s : State) (node : Nat), s.input = .fabricTimeout node →
    let u := used s
    let lost := s.fabric.remotes.filter fun r => r.2.node = node
    let late : Prop := ∃ r ∈ lost, r.2.issued + s.fabric.ftimeout ≤ s.gtime.toNat
    (¬late → exec .fabricTimeout s = .next u) ∧
    (late → exec .fabricTimeout s = .next (lost.foldl (fun t r => t.failRemote r.1 r.2) { u with fabric := { s.fabric with
      nodes := mset {} s.fabric.nodes node { mget {} s.fabric.nodes node with failed := true } } }))) ∧
  (∀ (s : State) (id c : Nat) (r : Remote) (x : Ctx), s.ctx? r.core c = some x → x.task.uid = r.uid → r.group = 0 →
    tget (s.core r.core).suspended r.uid = none →
    let t := s.failRemote id r
    t.fabric = { s.fabric with remotes := tdel s.fabric.remotes id } ∧ t.mem = s.mem ∧
    (r.counts = true → r.landing = none → t.ctx? r.core c = some { x with
      cnt := ({ x.cnt with loss := some (x.cnt.loss.getD r.addr) }).leave 1 }) ∧
    ∀ l, r.counts = false → r.landing = some l →
      t.ctx? r.core c = some (x.modLanding l fun m d => ({ m with status := .failed }, d))) ∧
  (∀ (s : State) (ns : Nat), s.input = .ftimeoutSet ns →
    (100000 ≤ ns → ns ≤ 1000000000 →
      exec .ftimeoutSet s = .next { used s with fabric := { s.fabric with ftimeout := ns } }) ∧
    (ns < 100000 ∨ 1000000000 < ns → exec .ftimeoutSet s = .next (used s))) ∧
  -- the checkpoint unit
  (∀ (s : State) (c : CkptCfg), s.input = .checkpointSettings c →
    let ok : Prop := (∀ a ∈ [c.ckbase, c.cklen, c.resv, c.undobase, c.undolen], 65536 ∣ a) ∧ c.buddy < 2048 ∧
      ¬nowhere s c.ckbase c.cklen ∧ ¬nowhere s c.undobase c.undolen
    let same : Prop := c.buddy = s.ckpt.cfg.buddy ∧ c.resv = s.ckpt.cfg.resv
    (ok → same → exec .checkpointSettings s = .next { used s with ckpt := { s.ckpt with cfg := c } }) ∧
    (ok → ¬same → exec .checkpointSettings s = .next { used s with ckpt := { s.ckpt with
      cfg := c, last := 0, opened := none, ds0 := { all := true }, ds1 := { all := true } } }) ∧
    (¬ok → exec .checkpointSettings s = .next (used s))) ∧
  (∀ (s : State) (buddy resv : Nat), s.input = .reserveAssign buddy resv → buddy < 2048 → 65536 ∣ resv →
    exec .reserveAssign s = .next { used s with ckpt := { s.ckpt with
      cfg := { s.ckpt.cfg with buddy := buddy, resv := resv }
      last := 0, opened := none, ds0 := { all := true }, ds1 := { all := true } } }) ∧
  (∀ (s : State) (c : CkptCopy), s.ckpt.copy = some c →
    let u := used s
    let k := s.ckpt
    let pages := k.cfg.cklen / 65536
    let inTime : Prop := s.nodeUp k.cfg.buddy = true ∧ s.gtime.toNat < c.issued + s.fabric.ftimeout
    let image := k.cfg.resv + k.cfg.cklen * c.image
    (∀ page, s.input = .ckptPageCopied page →
      (page < pages → c.left.has page = true → exec .ckptPageCopied s = .next { u with
        ckpt := { k with copy := some { c with left := c.left.put page false } }
        sent := s.sent ++ [.ckptPage (image + 65536 * page) (s.pageData page)] }) ∧
      (pages ≤ page ∨ c.left.has page = false → exec .ckptPageCopied s = .next u)) ∧
    (let t := ({ u with ckpt := { k with copy := none, last := c.step } } : State).leaveCounter c.core c.uid 1;
      (∀ p, p < pages → c.left.has p = false) → (∀ e ∈ c.left.except, pages ≤ e.1) ∨ c.left.all = true → inTime →
        exec .ckptCopyComplete s = .next t.serveBegins) ∧
    (¬inTime → exec .ckptCopyComplete s = .next u) ∧
    (let every : PageSet := { all := true }
      let t := (({ u with ckpt := { k with
        copy := none
        ds0 := if c.image = 0 then every else k.ds0
        ds1 := if c.image = 0 then k.ds1 else every } } : State).modCore c.core fun q => q.modTask c.uid fun x => { x with
          cnt := { x.cnt with loss := some (x.cnt.loss.getD (BitVec.ofNat 64 image)) } }).leaveCounter c.core c.uid 1;
      ¬inTime → exec .ckptCopyFail s = .next t.serveBegins) ∧
    (inTime → exec .ckptCopyFail s = .next u)) ∧
  (∀ s : State, s.heldBegins = [] → s.serveBegins = s) ∧
  -- recovery
  (∀ (s : State) (node : Nat) (p : Recovery), s.input = .nodeRecovery node p →
    let u := used s
    let k := s.ckpt
    let x := mget {} s.fabric.nodes node
    let job := p.jobtag.toNat
    let done (s : State) : Prop := ∀ q ∈ s.cores, ∀ y ∈ q.2.tasks, y.task.record.jobtag = p.jobtag →
      y.cnt.st = 0 ∧ y.cnt.rm = 0 ∧ y.cnt.as = 0
    let starts : Prop := tget s.fabric.recovering job = none
    let goesOn : Prop := tget s.fabric.recovering job = some (node, false)
    (x.failed = false → p.spare = false → exec .nodeRecovery s = .next u) ∧
    (x.failed = true ∨ p.spare = true →
      (starts → ∃ t, exec .nodeRecovery s = .next t ∧
        let v := (u.stopQueues p.jobtag).endJob p.jobtag
        (¬done v → t = { v with
          sent := v.sent ++ [.recovery 1]
          fabric := { v.fabric with recovering := tset v.fabric.recovering job (node, false) } }) ∧
        (done v → t.cores = v.cores ∧ tget t.fabric.recovering job = none)) ∧
      (∀ first, first ≠ node → tget s.fabric.recovering job = some (first, false) → exec .nodeRecovery s = .next { u with
        sent := s.sent ++ [.jobLost p.jobtag]
        fabric := { s.fabric with recovering := tset s.fabric.recovering job (first, true) } }) ∧
      (∀ first, tget s.fabric.recovering job = some (first, true) → exec .nodeRecovery s = .next u) ∧
      (goesOn → ¬done s → exec .nodeRecovery s = .next u) ∧
      (goesOn → done s → ∃ t, exec .nodeRecovery s = .next t ∧
        let image := p.point % 2
        let reserve := p.newReserve.isSome && k.cfg.buddy == node && !p.spare
        let every : PageSet := { all := true }
        let stages : List Message := [.recovery 3, .recovery 4, .recovery 5, .recovery 6]
        t.cores = s.cores ∧ t.fabric = { s.fabric with
          own := if p.spare then node else s.fabric.own
          nodes := mset {} s.fabric.nodes node { x with failed := false }
          recovering := tdel s.fabric.recovering job } ∧
        t.ckpt.opened = none ∧ t.ckpt.copy = none ∧
        (reserve = false → t.ckpt.last = BitVec.ofNat 64 p.point ∧ t.ckpt.ds0 = (if image = 0 then {} else every) ∧
          t.ckpt.ds1 = (if image = 0 then every else {})) ∧
        (reserve = true → t.ckpt.last = 0 ∧ t.ckpt.cfg.buddy = node ∧ t.ckpt.ds0 = every ∧ t.ckpt.ds1 = every) ∧
        (p.spare = true ∨ s.nodeUp k.cfg.buddy = true ∨ k.undo0.incomplete = false ∧ k.undo1.incomplete = false →
          t.sent = s.sent ++ .recovery 2 :: stages) ∧
        (p.spare = false → s.nodeUp k.cfg.buddy = false → k.undo0.incomplete = true ∨ k.undo1.incomplete = true →
          t.sent = s.sent ++ .recovery 2 :: .shardLost :: stages ∧ t.mem = s.mem)))) ∧
  -- the queues of the job and its tasks, where it has one of each
  (∀ (s : State) (j : BitVec 32) (q : Nat), q ∈ s.jobQueues j ↔
    (∃ g ∈ s.grids, g.2.record.jobtag = j ∧ g.2.queue = q) ∨ ∃ e ∈ s.queues, e.1 = q ∧
      ((∃ tail ∈ e.2.tail, (parseRecord tail.1).jobtag = j) ∨ ∃ i ∈ e.2.items, match i with
        | .onChip bs | .walk bs _ => (parseRecord bs).jobtag = j
        | .inWindow seq => (parseRecord (s.slotBytes q seq)).jobtag = j)) ∧
  (∀ (s : State) (j : BitVec 32) (q : Nat), s.canonical → s.jobQueues j = [q] → (∀ g ∈ s.grids, g.2.record.jobtag ≠ j) →
    (s.queue q).waiting = none → (∀ i ∈ (s.queue q).items, ∃ bs, i = .onChip bs) →
    let t := s.stopQueues j
    t.queue q = { s.queue q with enable := false, tail := none, items := [], timer := none } ∧ t.grids = s.grids ∧
      t.cores = s.cores) ∧
  (∀ (s : State) (j : BitVec 32) (n c : Nat) (k : Core) (x : Ctx), s.cores = [(n, k)] → k.ctxs = [(c, x)] → k.suspended = [] →
    x.task.record.jobtag = j → x.run ≠ .ended → s.endJob j = s.endTask n c true) ∧
  -- rollback, and a spare's copy of the whole image
  (∀ (s : State) (r node : Nat) (p : Recovery) (pages : SMap (List (Nat × Byte))), s.canonical →
    (∀ i, mwf 0 (mget [] pages i) = true ∧ ∀ e ∈ mget [] pages i, e.1 < 65536) →
    let k := s.ckpt
    let even := r % 2 = 0
    let page (b : Nat) : Nat := (b - k.cfg.ckbase) / 65536
    let given (some_ : Nat → Bool) (b : Nat) : Prop :=
      k.cfg.ckbase ≤ b ∧ page b < k.cfg.cklen / 65536 ∧ some_ (page b) = true
    let image (b : Nat) : Byte := mget 0 (mget [] pages (page b)) ((b - k.cfg.ckbase) % 65536)
    (s.nodeUp k.cfg.buddy = true → ∀ b, s.mem.missing b = false →
      (given (if even then k.ds0 else k.ds1).has b → (s.rollback r pages).byte b = image b) ∧
      (¬given (if even then k.ds0 else k.ds1).has b → (s.rollback r pages).byte b = s.byte b)) ∧
    (s.nodeUp k.cfg.buddy = false → k.undo0.incomplete = false → k.undo1.incomplete = false →
      let next := if even then k.undo1 else k.undo0
      let this := if even then k.undo0 else k.undo1
      let of (u : UndoGen) (step : Nat) := if u.active = true ∧ u.step = BitVec.ofNat 64 step then u.pages else []
      (s.rollback r pages).mem = ((s.putPages (of next (r + 1))).putPages (of this r)).mem) ∧
    (p.pages = pages → ∀ b, s.mem.missing b = false → (given (fun _ => true) b → (s.becomeSpare node p).byte b = image b) ∧
      (¬given (fun _ => true) b → (s.becomeSpare node p).byte b = s.byte b))) ∧
  ∀ (s : State) (page : Nat) (data : SMap Byte), mwf 0 data = true → (∀ e ∈ data, e.1 < 65536) →
    let a := s.ckpt.cfg.ckbase + 65536 * page
    ∀ b, s.mem.missing b = false →
      (s.putPage page data).byte b = if a ≤ b ∧ b < a + 65536 then mget 0 data (b - a) else s.byte b

/-- Power, slow-down notices, repair, lasting faults, reset, firmware and attestation (R44, R129, R350 to R356): PLIMIT stays in
its range; PWRMASK is cleared while every class keeps an engine; CAP changes, and the domain moves to it where CUR is faster and
nothing settles; a notice of a node that is not FAILED replaces an earlier one, is applied after 500 µs at the latest and
lapses, and CAP is then as it was where nothing has changed it since (log 45); a repair quiesces one channel per stack; a second
failure is recorded by unit; a reset removes what has failed and boots the images that pass (log 25 says what it leaves, log 54
the node number); an image that is refused leaves the package in its recovery loader; and a report has its fields in order (log
9 says how the part and serial numbers are spelled). -/
def Obligations.ReliabilityEvents : Prop :=
  (∀ (k : Core) (cap : Nat), cap < 8 → ∃ o : BitVec 10, k.setCap cap = { k with oppt := o } ∧
    let follows : Prop := opptSettle k.oppt = false ∧ opptCur k.oppt < cap
    opptCap o = cap ∧ opptCur o = opptCur k.oppt ∧
    (follows → opptSettle o = true ∧ opptTgt o = cap) ∧
    (¬follows → opptSettle o = opptSettle k.oppt ∧ opptTgt o = opptTgt k.oppt)) ∧
  (∀ s : State,
    let u := used s
    (∀ w, s.input = .plimitSet w →
      (1500 ≤ w → w ≤ 3400 → exec .plimitSet s = .next { u with board := { s.board with plimit := w } }) ∧
      (w < 1500 ∨ 3400 < w → exec .plimitSet s = .next u)) ∧
    (∀ n clear, s.input = .powerOverBound n clear → n < 144 →
      let m := (s.core n).pwrmask &&& ~~~clear
      (slotmapOk ((s.core n).slotmap &&& m) = true →
        exec .powerOverBound s = .next (u.setCore n { s.core n with pwrmask := m })) ∧
      (slotmapOk ((s.core n).slotmap &&& m) = false → exec .powerOverBound s = .next u)) ∧
    (∀ n cap, s.input = .capLower n cap → n < 144 →
      (opptCap (s.core n).oppt < cap.toNat → exec .capLower s = .next (u.setCore n ((s.core n).setCap cap.toNat))) ∧
      (cap.toNat ≤ opptCap (s.core n).oppt → exec .capLower s = .next u)) ∧
    (∀ n cap restore, s.input = .capRaise n cap restore → n < 144 →
      (cap.toNat ≤ opptCap (s.core n).oppt → exec .capRaise s = .next (u.setCore n { (s.core n).setCap cap.toNat with
        pwrmask := (s.core n).pwrmask ||| restore })) ∧
      (opptCap (s.core n).oppt < cap.toNat → exec .capRaise s = .next u)) ∧
    -- notices
    (∀ node job point until_, s.input = .slowdownNotice node job point until_ →
      let old := tget s.board.notices job.toNat
      let x : Notice := { point := point, until_ := until_, arrived := s.gtime.toNat
                          saved := (old.map (·.saved)).getD [], given := (old.map (·.given)).getD [] }
      let failed := (mget {} s.fabric.nodes node).failed
      (failed = true → exec .slowdownNotice s = .next u) ∧
      (failed = false → point ≠ 0 → exec .slowdownNotice s =
        .next { u with board := { s.board with notices := tset s.board.notices job.toNat x } }) ∧
      (failed = false → point = 0 → exec .slowdownNotice s = .next (u.liftNotice job.toNat))) ∧
    (∀ job x, tget s.board.notices job.toNat = some x →
      (s.input = .slowdownTimer job → x.arrived + 500000 ≤ s.gtime.toNat → exec .slowdownTimer s =
        .next ((List.range 144).foldl (fun t n => t.applyNotice n job) u)) ∧
      (s.input = .slowdownTimer job → s.gtime.toNat < x.arrived + 500000 → exec .slowdownTimer s = .next u) ∧
      (s.input = .slowdownLapse job → x.until_ ≠ 0 → x.until_.toNat ≤ s.gtime.toNat →
        exec .slowdownLapse s = .next (u.liftNotice job.toNat)) ∧
      (s.input = .slowdownLapse job → x.until_ = 0 ∨ s.gtime.toNat < x.until_.toNat → exec .slowdownLapse s = .next u)) ∧
    (∀ die point until_, s.input = .thermalThreshold die point until_ → ∃ t, exec .thermalThreshold s = .next t ∧
      (∀ n, n < 144 → t.core n = (s.core n).setCap (max 5 (opptCap (s.core n).oppt)) ∨ point = 0) ∧
      (s.jobs = [] → ∀ job, (tget t.board.notices job).map (·.saved) = (tget s.board.notices job).map fun y =>
        y.saved.map fun (n, c) => (n, BitVec.ofNat 3 (max 5 c.toNat))) ∧
      t.sent = s.sent ++ s.jobs.map fun j => .slowdown j point until_) ∧
    -- repair and lasting faults
    (∀ stack channel row, s.input = .hbmSoftRepair stack channel row → stack < 8 →
      let done := ((s.board.repairs ++ s.board.fused).filter fun r => r.1 = stack && r.2.1 = channel).length
      (tget s.board.quiesced stack ≠ none → exec .hbmSoftRepair s = .next u) ∧
      (tget s.board.quiesced stack = none → done < Config.spareRows stack channel →
        exec .hbmSoftRepair s = .next { u with board := { s.board with
          quiesced := tset s.board.quiesced stack channel, repairs := s.board.repairs ++ [(stack, channel, row)] } }) ∧
      (tget s.board.quiesced stack = none → Config.spareRows stack channel ≤ done →
        exec .hbmSoftRepair s = .next { u with sent := s.sent ++ [.pageWorn (Config.rowPage stack channel row)] })) ∧
    (∀ stack channel, s.input = .softRepairEnd stack channel → tget s.board.quiesced stack = some channel →
      exec .softRepairEnd s = .next { u with board := { s.board with quiesced := tdel s.board.quiesced stack } }) ∧
    (∀ port, s.input = .flitCheckFailure port true → port < 16 → ∃ t, exec .flitCheckFailure s = .next t ∧ t.cores = s.cores ∧
      ∀ i, t.fabric.portsDown.getLsbD i = (s.fabric.portsDown.getLsbD i || i == port) ∧
        t.board.faultPorts.getLsbD i = (s.board.faultPorts.getLsbD i || i == port)) ∧
    (∀ port, s.input = .flitCheckFailure port false → exec .flitCheckFailure s = .next u) ∧
    (∀ core block source, s.input = .blockCheckFailure core block source true →
      let b := s.board
      let recorded (t : State) : Prop := t.board = match source with
        | .engines n dead => { b with faultEngines := mset 0 b.faultEngines n (mget 0 b.faultEngines n ||| dead) }
        | .port n => { b with faultPorts := setBit b.faultPorts n true }
        | .block m => { b with faultBlocks := tset b.faultBlocks m () }
      (core = none → 256 * block + 256 ≤ Config.memBytes → ∃ t, exec .blockCheckFailure s = .next t ∧ recorded t ∧
        t.mem = { s.mem with bad := tset s.mem.bad block () } ∧ t.cores = s.cores) ∧
      (∀ n, core = some n → ∃ t, exec .blockCheckFailure s = .next t ∧ recorded t ∧ t.mem = s.mem ∧
        t.core n = { s.core n with spadBad := tset (s.core n).spadBad block () })) ∧
    (∀ core block source, s.input = .blockCheckFailure core block source false → exec .blockCheckFailure s = .next u) ∧
    -- reset
    (∀ (dead : SMap (BitVec 9)) (node : Nat), s.input = .packageReset dead node →
      (2048 ≤ node → exec .packageReset s = .next u) ∧
      (node < 2048 → ∃ t, exec .packageReset s = .next t ∧
        t.grids = [] ∧ t.queues = [] ∧ t.barriers = [] ∧ t.heap = [] ∧ (∀ a, t.byte a = 0) ∧ t.mem.bad = [] ∧
        -- what has failed is removed
        (∀ n bits, s.board.faultEngines = [] → dead = [(n, bits)] → n < 144 → bits ≠ 0 →
          let live := 0x1FF &&& ~~~bits
          t.core n = { ({} : Core) with slotmap := live, removed := !slotmapOk live }) ∧
        (s.board.faultEngines = [] → dead = [] → ∀ n, t.core n = {}) ∧
        t.fabric.portsDown = s.board.faultPorts ∧ t.mem.gone = s.board.faultBlocks ∧
        -- what stays
        t.fabric.own = node ∧ t.fabric.nodes = s.fabric.nodes ∧ t.gtime = s.gtime ∧
        t.board.fused = s.board.fused ++ s.board.repairs ∧ t.board.repairs = [] ∧
        (dead = [] → t.board.faultPorts = s.board.faultPorts ∧ t.board.faultBlocks = s.board.faultBlocks ∧
          t.board.faultEngines = s.board.faultEngines) ∧
        -- the images boot
        t.board.minVersion = s.board.minVersion ∧
        (let ok (img : Firmware) : Prop :=
          Config.rootVerify (sha3 img.bytes) img.signature = true ∧ s.board.minVersion ≤ img.version
        ((∀ img ∈ s.board.images, ok img) → t.board.images = s.board.images ∧ t.board.running = s.board.images ∧
          t.board.recovery = false) ∧
        ((∃ img ∈ s.board.images, ¬ok img) → t.board.running = [] ∧ t.board.recovery = true ∧
          ∀ img, img ∈ t.board.images ↔ img ∈ s.board.images ∧ ok img)))) ∧
    -- firmware and attestation
    (∀ img, s.input = .firmwareInstall img →
      let b := s.board
      let ok : Prop := Config.rootVerify (sha3 img.bytes) img.signature = true ∧ b.minVersion ≤ img.version
      (¬ok → exec .firmwareInstall s = .next { u with board := { b with running := [], recovery := true } }) ∧
      (ok → b.recovery = false → b.images.length < 8 → b.running.length < 8 → exec .firmwareInstall s = .next { u with
        board := { b with
          images := b.images ++ [img], running := b.running ++ [img], minVersion := max b.minVersion img.version } })) ∧
    (∀ nonce, s.input = .attestationRequest nonce → nonce.length = 64 →
      ∃ bs, exec .attestationRequest s = .next { u with sent := s.sent ++ [.report bs] } ∧ bs.length = 5299 ∧
        bs.take 16 = (List.range 16).map (Config.identityByte "TWS-PK9-0768") ∧
        (s.board.running.length ≤ 8 → (bs.drop 80).take 512 = s.board.running.flatMap (fun img => sha3 img.bytes)
          ++ List.replicate (64 * (8 - s.board.running.length)) 0) ∧
        (bs.drop 16).take 64 = nonce ∧ (bs.drop 592).take 8 = natLe 8 s.board.minVersion ∧
          (bs.drop 600).take 8 = wordLe 8 s.gtime ∧
        (bs.drop 608).take 64 = sha3 s.routineBytes ∧
        bs.drop 672 = ((Config.identitySign (sha3 (bs.take 672))) ++ List.replicate 4627 0).take 4627)) ∧
  -- a notice that is lifted
  (∀ (s : State) (job : Nat),
    (tget s.board.notices job = none → s.liftNotice job = s) ∧
    (∀ x, tget s.board.notices job = some x → x.saved = [] →
      s.liftNotice job = { s with board := { s.board with notices := tdel s.board.notices job } }) ∧
    ∀ (x : Notice) (n : Nat) (old new : BitVec 3), s.board.notices = [(job, x)] → x.saved = [(n, old)] → x.given = [(n, new)] →
      ∃ t, s.liftNotice job = t ∧ t.board = { s.board with notices := [] } ∧
        (opptCap (s.core n).oppt = new.toNat → old ≠ new → t.core n = (s.core n).setCap old.toNat) ∧
        (opptCap (s.core n).oppt ≠ new.toNat ∨ old = new → t.core n = s.core n)) ∧
  -- and one that is applied to a core
  ∀ (s : State) (job : BitVec 32) (n : Nat) (x : Notice), s.board.notices = [(job.toNat, x)] → x.saved = [] → x.applied = [] →
    let cap := max (opptCap (s.core n).oppt) (min 7 x.point.toNat)
    ((s.core n).runsJob job = true → (s.applyNotice n job).core n = (s.core n).setCap cap) ∧
    ((s.core n).runsJob job = false → s.applyNotice n job = s)

/-- What a reset leaves (R21, R71, R128, R129, R341, R350; registers and memory for which the spec gives no value hold the
model's choice, logs 2 and 3). -/
def Obligations.ResetLeaves : Prop :=
  let s := State.reset
  s.canonical ∧ (∀ a, s.byte a = 0) ∧ s.board.plimit = 3400 ∧ s.fabric.ftimeout = 10000000 ∧ s.gtime = 0 ∧
  s.grids = [] ∧ s.barriers = [] ∧ s.heap = [] ∧ s.mem.tlbs = [] ∧ s.sent = [] ∧ s.fabric.remotes = [] ∧
    s.ckpt.cfg.ckjob = 0 ∧ s.ckpt.opened = none ∧
  (∀ q, (s.queue q).enable = false ∧ (s.queue q).items = [] ∧ (s.queue q).cdone = 0) ∧
  ∀ n, (s.core n).running = none ∧ (s.core n).ctxs = [] ∧ (s.core n).l1 = [] ∧ (s.core n).icache = [] ∧
    (s.core n).suspended = [] ∧ (s.core n).slotmap = 0x1FF ∧
    (s.core n).pwrmask = 0x1FF ∧ (s.core n).oppt = 0

/-- Every step of the machine keeps physical memory and the table of queues in their canonical form (R319, log 2): addresses and
numbers strictly rising, and nothing listed that is equal to what is not listed. -/
def Obligations.StepsKeepTablesCanonical : Prop :=
  ∀ s t : State, s.canonical → step s = .next t → t.canonical

/-- The engine executes entry `m` at the head of its queue, of context state `x` (R201): nothing holds it, and no routine runs.
-/
structure Sys2Proof.EntryRuns (s : State) (n : Nat) (m : MatEntry) (ms : List MatEntry) (x : Ctx) : Prop where
  input : s.input = .matrixEntryExecute n
  queue : (s.core n).queue = m :: ms
  caller : (s.core n).findTask m.uid = some x
  only : ∀ m' ∈ ms, m'.id ≠ m.id
  waits : m.done = false
  idle : (s.core n).routine = none
  free : (s.core n).holds m.id m.reads m.writes = false
  turn : (s.core n).routineHeld m = false

/-- The entry of context state `x` executes, leaving `t`, and is done, its counts added (R209); data of a marked block that it
reads leaves the deferred trap (R353). -/
def Sys2Proof.executes (s : State) (n : Nat) (m : MatEntry) (ms : List MatEntry) (x : Ctx) (t : State) : Prop :=
  ∃ o v, exec .matrixEntryExecute s = .next ((t.uncorrAt n m.uid m.id (s.entryBad n x m.op m.reads)).modCore n fun k =>
    { k with queue := { m with done := true, xof := m.xof + o, xnv := m.xnv + v } :: ms })

/-- The entry's context changed, the event taken. -/
def Sys2Proof.owned (s : State) (n : Nat) (m : MatEntry) (g : Ctx → Ctx) : State :=
  { s with input := .none }.modCore n fun k => k.modTask m.uid g

/-- An accumulator written. -/
def Sys2Proof.withAcc (d : Nat) (r : SMap Word) (y : Ctx) : Ctx := { y with units := { y.units with acc := mset [] y.units.acc d r } }

/-- A bit of the memory image of metadata registers (R159, R206). -/
def Sys2Proof.metaBit (info : List Lanes) (k : Nat) : Bool := (lane (info.getD (k / 32768) []) (k % 32768 / 32)).getLsbD (k % 32)

/-- The value y of element (i, j) of an accumulator under epilogue block `b` (R210, R211), `bias` the words of the bias row. -/
def Sys2Proof.epilogue (b : SMap Byte) (bias : Nat → Word) (acc : SMap Word) (i j : Nat) : Word :=
  let half (o : Nat) : Machine.Num := bf16 (BitVec.ofNat 16 (leNat (readBytes b o 2)))
  let flag (k : Nat) : Bool := (mget 0 b 3).getLsbD k
  let w : Word := mget 0 acc (128 * i + j)
  let w := if flag 1 then toF32 (((f32 w).mul (half (16 + 2 * (i / 64)))).1.mul (half (20 + 2 * (j / 64)))).1 else w
  let w := if flag 0 then toF32 ((f32 w).add false (f32 (bias j))).1 else w
  let v := f32 w
  let cap := f32 (BitVec.ofNat 32 (leNat (readBytes b 8 4)))
  let act := (mget 0 b 0).toNat
  let y : Word :=
    if act = 0 then w
    else if act = 1 then if v.isNan || (Machine.Num.zero false).lt v then w else 0
    else if act = 2 then BitVec.ofNat 32 (geluOf v).1
    else if act = 3 then toF32 (v.mul (fmtF32.value (sigOf fmtF32 v).1)).1
    else toF32 (cap.mul (fmtF32.value (tanhOf fmtF32 (v.div cap)).1)).1
  toF32 (f32 y)

/-- Products of compressed tiles (R158, R205, R206): each element adds, chunk by chunk in ascending K over the eight chunks, the
exact sum of the products of the positions that kept elements name, of which the last that names a position counts. Compression
(R207): of each group the positions of the largest magnitudes are kept, a NaN above every number and ties to the lower position;
the output tile takes their codes in ascending position with the scale bytes of both tiles, and the metadata registers, visible
at distance 1, take their indices; metadata bits beyond them are free (log 14). A drain (R210 to R212, R301): each element goes
through the epilogue and the output format; the rows go to the registers' images, visible at distance 1, or to ring slots from
byte FILL of each ring row on, with B4's scales and bands, or into the rows of the candidate file as `cf.merge` folds them;
CLEAR zeroes the accumulator after the read. That a BF16 row spans two slots is log 39. Accumulation into rows (R214): row by
row in order, each word of a row takes its rounded sum with the accumulator's element, an infinity of the clamping form the
largest finite number of its sign; a row of the scratchpad is written at once, and one of memory in one indivisible step; the
accumulator stays. Projections (R287, R288, R298, R299): the products of the tiles go to the accumulators, and the pass over
their base-2 values, a NaN taken as −∞, folds each token that is not masked into its row: a statistics pass normalisers, labels
and ENT, a race pass the least key; a regeneration pass leaves the gradient in the accumulator and the rows as they were. -/
def Obligations.EntriesCompute : Prop :=
  (∀ (s : State) (n : Nat) (m : MatEntry) (ms : List MatEntry) (x : Ctx) (fine : Bool) (d : Nat) (a b c : Tile) (info : List Lanes),
     EntryRuns s n m ms x → m.op = .spmma fine d a b c info → formatGroup a.fmt = formatGroup b.fmt → c.fmt = b.fmt →
     let mem := (s.core n).spad
     let e := rowElements a.fmt
     let w := if fine then 3 else 2
     let group := if fine then 8 else 4
     let index (i j : Nat) : Nat := ((List.range w).map fun q => if metaBit info (256 * w * i + w * j + q) then 2 ^ q else 0).sum
     let dense (i p : Nat) : Option Machine.Num :=
       ((List.range e).filter fun j => decide (group * (j / (group / 2)) + index i j = p)).getLast?.map fun j =>
         (a.values mem i).getD j .nan
     let other (j p : Nat) : Machine.Num := (b.values mem j ++ c.values mem j).getD p .nan
     ∃ r : SMap Word, executes s n m ms x (owned s n m (withAcc d r)) ∧ ∀ i j, i < 128 → j < 128 →
       mget 0 r (128 * i + j) = (List.range 8).foldl (fun (y : Word) q =>
         let ts := (List.range (e / 4)).filterMap fun k =>
           (dense i (e / 4 * q + k)).map fun v => (v.mul (other j (e / 4 * q + k))).1
         toF32 ((f32 y).add false (chunkSum ts)).1) (mget 0 (x.accumulator d) (128 * i + j))) ∧
  (∀ (s : State) (n : Nat) (m : MatEntry) (ms : List MatEntry) (x : Ctx) (fine : Bool) (d : Nat) (a b out : Tile),
     EntryRuns s n m ms x → m.op = .comp fine d a b out → b.fmt = a.fmt → a.cmp = false → b.cmp = false →
     let mem := (s.core n).spad
     let e := rowElements a.fmt
     let w := if fine then 3 else 2
     let group := if fine then 8 else 4
     let code (r p : Nat) : Nat := (ringCodes a.fmt (a.rowBytes mem r) ++ ringCodes a.fmt (b.rowBytes mem r)).getD p 0
     let size (r p : Nat) : Machine.Num := ((a.values mem r ++ b.values mem r).getD p .nan).abs
     let above (r p q : Nat) : Prop := (size r q).isNan = false ∧ ((size r p).isNan = true ∨ (size r q).lt (size r p) = true)
     ∃ (kept : Nat → List Nat) (regs : List Lanes),
       (∀ r, r < 128 → (kept r).Pairwise (· < ·) ∧ (∀ p ∈ kept r, p < 2 * e) ∧
         (∀ i, i < 2 * e / group → ((kept r).filter fun p => decide (p / group = i)).length = group / 2) ∧
         ∀ p q, p ∈ kept r → q < 2 * e → q ∉ kept r → p / group = q / group → ¬above r q p ∧ (above r p q ∨ p < q)) ∧
       regs.length = w ∧
       (∀ r j b, r < 128 → j < e → b < w → metaBit regs (256 * w * r + w * j + b) = ((kept r).getD j 0 % group).testBit b) ∧
       let scales (r : Nat) : List Byte := if scaledFmt a.fmt then a.scaleRow mem r ++ b.scaleRow mem r else []
       executes s n m ms x (({ s with input := .none }.writeSpad n ((List.range 128).flatMap fun r =>
           [(out.base + 128 * r, ringBytes a.fmt ((kept r).map (code r))),
             (out.scale + scaleBytes out.fmt out.cmp * r, scales r)])).modCore n fun k => k.modTask m.uid fun y =>
         regs.zipIdx.foldl (fun (y : Ctx) (v : Lanes × Nat) => y.push 1 (.v (d + v.2) (BitVec.allOnes 1024) v.1)) y)) ∧
  (∀ (s : State) (n : Nat) (m : MatEntry) (ms : List MatEntry) (x : Ctx) (d : Nat) (b : SMap Byte) (e4nan : Bool) (bias : Nat)
     (dest : DrainDest) (pass : PassLatch), EntryRuns s n m ms x → m.op = .drain d b e4nan bias dest pass →
     let mem := (s.core n).spad
     let qt := (mget 0 b 1).toNat
     let y := epilogue b (fun j => leWord 32 (readBytes mem (bias + 4 * j) 4)) (x.accumulator d)
     let band (k : Nat) : BitVec 16 :=
       let q := BitVec.ofNat 16 (leNat (readBytes b (28 + 2 * k) 2))
       if q = 0 then BitVec.ofNat 16 (quantB4Band ((List.range 64).flatMap fun i => (List.range 128).map fun j =>
         f32 (y (64 * k + i) j))) else q
     let block (i k : Nat) : Nat × List (Nat × BitVec 5) :=
       quantB4Block (fun _ => Machine.rne) (bf16 (band (i / 64))) ((List.range 8).map fun j => f32 (y i (8 * k + j)))
     let code (i j : Nat) : Nat :=
       if qt = 0 then (y i j).toNat
       else if qt = 1 then (fmtBf16.round ⟨.rne, e4nan, 0, 0⟩ (f32 (y i j))).1
       else if qt = 2 then (fmtE4M3.round ⟨.rne, e4nan, 0, 0⟩ (f32 (y i j))).1
       else ((block i (j / 8)).2.getD (j % 8) (0, 0)).1
     let value (i j : Nat) : Word :=
       if qt = 0 then y i j
       else if qt = 1 then toF32 (fmtBf16.value (code i j))
       else if qt = 2 then toF32 (fmtE4M3.value (code i j))
       else toF32 (((fmtE2M1.value (code i j)).mul (fmtE3M5.value (block i (j / 8)).1)).1.mul (bf16 (band (i / 64)))).1
     let bytes (i : Nat) : List Byte := drainBytes qt ((List.range 128).map (code i))
     let cleared : State := if (mget 0 b 3).getLsbD 2 then owned s n m (withAcc d []) else { s with input := .none }
     qt ≤ 3 →
     (∀ f k first, dest = .regs f k first →
       let rows := if qt = 0 then 8 else if qt = 1 then 16 else 32
       first + k * rows ≤ 128 → qt ≠ 3 →
         executes s n m ms x (owned cleared n m fun z => (List.range k).foldl (fun (z : Ctx) i => z.push 1 (.v (f + i)
           (BitVec.allOnes 1024) (lanesOf ((List.range rows).flatMap fun r => bytes (first + rows * i + r))))) z)) ∧
     (∀ ts fill out, dest = .ring ts fill out → qt ≠ 0 →
       let rows := (List.range 128).flatMap fun r => ts.zipIdx.map fun t =>
         (t.1.base + 128 * r + fill, ((bytes r).drop (128 * t.2)).take 128)
       let scales := (List.range 128).flatMap fun r => ts.map fun t =>
         (t.scale + scaleBytes t.fmt t.cmp * r + fill / 4, (List.range 16).map fun k => BitVec.ofNat 8 (block r k).1)
       let bands := [(out, natLe 2 (band 0).toNat ++ natLe 2 (band 1).toNat)]
       executes s n m ms x (cleared.writeSpad n (rows ++ if qt = 3 then scales ++ bands else []))) ∧
     ∀ path k b2, dest = .cand path → controlBlock path 128 128 = some (k, b2) →
       let c := x.units.cand
       let row (j : Nat) : Row := (List.range k.toks).foldl (fun (r : Row) t =>
         if pass.isMasked j t then r else r.statistics (baseTwo (!b2) (value j t)).1 none (k.id t) fun _ =>
           logUniform (pass.word j t (k.r0 + j) (k.id t))) (c.row (k.r0 + j))
       ∃ g : Cand, g.path = c.path ∧ g.mask = c.mask ∧
         (∀ r, g.row r = if k.r0 ≤ r ∧ r < k.r0 + k.rows then row (r - k.r0) else c.row r) ∧
         executes s n m ms x (owned cleared n m fun z => z.modCand fun _ => g)) ∧
  (∀ (s : State) (n : Nat) (m : MatEntry) (ms : List MatEntry) (x : Ctx) (clamp : Bool) (d : Nat) (rows : List RowPlace),
     EntryRuns s n m ms x → m.op = .dacc clamp d rows →
     let row (i : Nat) (old : List Byte) : List Byte := (List.range 128).flatMap fun j =>
       let y := toF32 ((f32 (leWord 32 ((old.drop (4 * j)).take 4))).add false (f32 (mget 0 (x.accumulator d) (128 * i + j)))).1
       let z : Word := if clamp && (f32 y).isInf then if y.getLsbD 31 then 0xFF7FFFFF else 0x7F7FFFFF else y
       (List.range 4).map fun k => z.extractLsb' (8 * k) 8
     executes s n m ms x (rows.zipIdx.foldl (fun (t : State) p => match p.1 with
       | .spad a => t.writeSpad n [(a, row p.2 (readBytes (t.core n).spad a 512))]
       | .mem a _ => t.writeRow n m.uid a (row p.2 (t.peek a 512))) ({ s with input := .none }.placeAll n))) ∧
  (∀ (s : State) (n : Nat) (m : MatEntry) (ms : List MatEntry) (x : Ctx) (d : Nat) (ctl : DWord) (p : PassLatch),
     EntryRuns s n m ms x →
     let mem := (s.core n).spad
     let v0 := ctl.toNat % 2 ^ 32
     let rows := ctl.toNat / 2 ^ 32 % 128 + 1
     let toks := ctl.toNat / 2 ^ 40 % 128 + 1
     let id (t : Nat) : Word := BitVec.ofNat 32 (v0 + t)
     let c := x.units.cand
     let product (a b : Tile) : SMap Word := (tileProduct mem [] a b 0).1
     let logit (r : SMap Word) (j t : Nat) : Word :=
       let y := toF32 ((f32 (mget 0 r (128 * j + t))).mul (f32 0x3FB8AA3B)).1
       if isNan y then 0xFF800000 else y
     let uniform (j t : Nat) : Word := logUniform (p.word j t j (id t))
     -- the row's own share of the weight of a logit
     let share (z m st : Word) : Word := fQuot (exp2F (fSub z m)) st
     let race (r : Row) (w : Word) (j t : Nat) : Row :=
       let k := toF32 ((f32 (uniform j t)).negate.div (f32 w))
       if fLt 0 w && (fLt k r.key || (fEq k r.key && (id t).toNat < r.rtok.toNat)) then { r with key := k, rtok := id t } else r
     let fold (g : Row → Nat → Nat → Row) (f : Nat → Row) : Prop := ∀ j, f j = if j < rows then
       (List.range toks).foldl (fun (r : Row) t => if p.isMasked j t then r else g r j t) (c.row j) else c.row j
     let passes (put : Ctx → Ctx) (g : Row → Nat → Nat →
       Row) : Prop := ∃ q : Cand, q.path = c.path ∧ q.mask = c.mask ∧ fold g q.row ∧
       executes s n m ms x (owned s n m fun z => (put z).modCand fun _ => q)
     (∀ a b, m.op = .vproj false false d a b ctl p → passes (withAcc d (product a b)) fun r j t =>
       r.statistics (logit (product a b) j t) none (id t) fun _ => uniform j t) ∧
     (∀ a b, m.op = .vproj true false d a b ctl p → passes (withAcc d (product a b)) fun r j t =>
       if r.rmode = 1 then race r (share (logit (product a b) j t) r.mt r.st) j t else r) ∧
     (∀ race a b, m.op = .vproj race true d a b ctl p → ∃ g : SMap Word, executes s n m ms x (owned s n m (withAcc d g)) ∧
       ∀ j t, j < 128 → t < 128 → mget 0 g (128 * j + t) =
         if j < rows ∧ t < toks then
           let r := c.row j
           let z := logit (product a b) j t
           let w := if p.isMasked j t ∨ z = 0xFF800000 ∨ r.mt = 0xFF800000 then 0 else share z r.mt r.st
           if r.ltok.getD 0 0xFFFFFFFF = id t then fSub w 0x3F800000 else w
         else 0) ∧
     ∀ ha va hd vd,
       let xt := logit (product ha va)
       let xd := logit (product hd vd)
       let put (z : Ctx) : Ctx := withAcc (d + 1) (product hd vd) (withAcc d (product ha va) z)
       (m.op = .vprojPair false d [ha, va, hd, vd] ctl p → passes put fun r j t =>
         r.statistics (xt j t) (some (xd j t)) (id t) fun _ => uniform j t) ∧
       (m.op = .vprojPair true d [ha, va, hd, vd] ctl p → passes put fun r j t =>
         let pt := share (xt j t) r.mt r.st
         let gap := fSub pt (share (xd j t) r.mdr r.sdr)
         if r.rmode = 0 then r
         else race r (if r.rmode = 1 then pt else if fLt 0 gap then gap else 0) j t))
end

