-- ==== Sys2Proof/Laws/Map.lean ====
section
/-! SUPPORT. Laws of the sparse tables: reading after writing, and that writing keeps the canonical form. -/

namespace Sys2Proof.Machine

variable {α : Type}

@[simp] theorem tget_nil (k : Nat) : tget ([] : SMap α) k = none := rfl

@[simp] theorem tget_tset_self (m : SMap α) (k : Nat) (a : α) : tget (tset m k a) k = some a := by
  induction m with
  | nil => simp [tset, tget]
  | cons e m ih => unfold tset; split <;> (try split) <;> simp [tget, *]

theorem tget_tset_ne (m : SMap α) {k j : Nat} (a : α) (h : j ≠ k) : tget (tset m k a) j = tget m j := by
  have h' : ¬ k = j := fun e => h e.symm
  induction m with
  | nil => simp [tset, tget, h']
  | cons e m ih => unfold tset; split <;> (try split) <;> simp_all [tget]

@[simp] theorem tget_tdel_self (m : SMap α) (k : Nat) : tget (tdel m k) k = none := by
  induction m with
  | nil => rfl
  | cons e m ih => unfold tdel; split <;> simp [tget, *]

theorem tget_tdel_ne (m : SMap α) {k j : Nat} (h : j ≠ k) : tget (tdel m k) j = tget m j := by
  have h' : ¬ k = j := fun e => h e.symm
  induction m with
  | nil => rfl
  | cons e m ih => unfold tdel; split <;> simp_all [tget]

/-- In a rising table nothing is listed below the bound. -/
theorem tget_below {m : SMap α} : ∀ {lo j : Nat}, rising lo m = true → j < lo → tget m j = none := by
  induction m with
  | nil => intros; rfl
  | cons e m ih =>
    intro lo j h hj
    simp only [rising, Bool.and_eq_true, decide_eq_true_eq] at h
    have h1 : ¬ e.1 = j := by omega
    simp [tget, h1, ih h.2 (show j < e.1 + 1 by omega)]

theorem rising_tset {m : SMap α} : ∀ {lo : Nat}, rising lo m = true → ∀ {k : Nat} (a : α), lo ≤ k →
    rising lo (tset m k a) = true := by
  induction m with
  | nil => intro lo _ k a hk; simp [tset, rising, hk]
  | cons e m ih =>
    intro lo h k a hk
    obtain ⟨i, b⟩ := e
    simp only [rising, Bool.and_eq_true, decide_eq_true_eq] at h
    unfold tset
    split
    · rename_i hi
      simp only [rising, Bool.and_eq_true, decide_eq_true_eq]
      exact ⟨hk, by omega, h.2⟩
    · split
      · rename_i hi
        subst hi
        simp [rising, h.1, h.2]
      · simp only [rising, Bool.and_eq_true, decide_eq_true_eq]
        exact ⟨h.1, ih h.2 a (by omega)⟩

theorem rising_mono {m : SMap α} {lo lo' : Nat} (h : rising lo m = true) (hl : lo' ≤ lo) : rising lo' m = true := by
  cases m with
  | nil => rfl
  | cons e m =>
    simp only [rising, Bool.and_eq_true, decide_eq_true_eq] at h ⊢
    exact ⟨by omega, h.2⟩

theorem rising_tdel {m : SMap α} : ∀ {lo : Nat}, rising lo m = true → ∀ k, rising lo (tdel m k) = true := by
  induction m with
  | nil => intros; rfl
  | cons e m ih =>
    intro lo h k
    simp only [rising, Bool.and_eq_true, decide_eq_true_eq] at h
    unfold tdel
    split
    · exact ih (rising_mono h.2 (by omega)) k
    · simp [rising, h.1, ih h.2 k]

theorem mem_tset {m : SMap α} {k : Nat} {a : α} {e : Nat × α} (h : e ∈ tset m k a) : e = (k, a) ∨ e ∈ m := by
  induction m with
  | nil => exact .inl (by simpa [tset] using h)
  | cons x m ih =>
    unfold tset at h
    split at h
    · exact List.mem_cons.mp h
    · split at h
      · rcases List.mem_cons.mp h with h | h
        · exact .inl h
        · exact .inr (List.mem_cons_of_mem _ h)
      · rcases List.mem_cons.mp h with h | h
        · exact .inr (h ▸ List.mem_cons_self)
        · rcases ih h with h | h
          · exact .inl h
          · exact .inr (List.mem_cons_of_mem _ h)

theorem mem_tdel {m : SMap α} {k : Nat} {e : Nat × α} (h : e ∈ tdel m k) : e ∈ m := by
  induction m with
  | nil => exact h
  | cons x m ih =>
    unfold tdel at h
    split at h
    · exact List.mem_cons_of_mem _ (ih h)
    · rcases List.mem_cons.mp h with h | h
      · exact h ▸ List.mem_cons_self
      · exact List.mem_cons_of_mem _ (ih h)

/-- A rising table is determined by what it lists at each key. -/
theorem rising_ext {m : SMap α} : ∀ {lo : Nat} {m' : SMap α}, rising lo m = true → rising lo m' = true →
    (∀ k, tget m k = tget m' k) → m = m' := by
  induction m with
  | nil =>
    intro lo m' _ h' hg
    cases m' with
    | nil => rfl
    | cons e m' => have := hg e.1; simp [tget] at this
  | cons e m ih =>
    intro lo m' h h' hg
    obtain ⟨i, a⟩ := e
    cases m' with
    | nil => have := hg i; simp [tget] at this
    | cons e' m' =>
      obtain ⟨j, b⟩ := e'
      simp only [rising, Bool.and_eq_true, decide_eq_true_eq] at h h'
      have hij : i = j := by
        rcases Nat.lt_trichotomy i j with hl | hl | hl
        · have := hg i
          have hn : ¬ j = i := by omega
          simp [tget, hn, tget_below h'.2 (show i < j + 1 by omega)] at this
        · exact hl
        · have := hg j
          have hn : ¬ i = j := by omega
          simp [tget, hn, tget_below h.2 (show j < i + 1 by omega)] at this
      subst hij
      have hab : a = b := by have := hg i; simpa [tget] using this
      subst hab
      have : m = m' := ih h.2 h'.2 fun k => by
        have hk := hg k
        by_cases hik : i = k
        · subst hik
          rw [tget_below h.2 (Nat.lt_succ_self i), tget_below h'.2 (Nat.lt_succ_self i)]
        · simpa [tget, hik] using hk
      rw [this]

theorem tget_mem {m : SMap α} {k : Nat} {a : α} (h : tget m k = some a) : (k, a) ∈ m := by
  induction m with
  | nil => simp at h
  | cons e m ih =>
    unfold tget at h
    split at h
    · rename_i hj
      rw [Option.some.injEq] at h
      subst hj; subst h
      exact List.mem_cons_self
    · exact List.mem_cons_of_mem _ (ih h)

/-- A rising table as a list: keys rise from one entry to every later one, and none is below the bound. -/
theorem rising_iff {m : SMap α} : ∀ {lo : Nat}, rising lo m = true ↔
    m.Pairwise (fun a b => a.1 < b.1) ∧ ∀ e ∈ m, lo ≤ e.1 := by
  induction m with
  | nil => simp [rising]
  | cons e m ih =>
    intro lo
    simp only [rising, Bool.and_eq_true, decide_eq_true_eq, ih, List.pairwise_cons, List.forall_mem_cons]
    constructor
    · rintro ⟨h1, h2, h3⟩
      exact ⟨⟨fun b hb => h3 b hb, h2⟩, h1, fun b hb => by have := h3 b hb; omega⟩
    · rintro ⟨⟨h1, h2⟩, h3, _⟩
      exact ⟨h3, h2, fun b hb => h1 b hb⟩

theorem rising_filter (p : Nat × α → Bool) {m : SMap α} {lo : Nat} (h : rising lo m = true) :
    rising lo (m.filter p) = true := by
  rw [rising_iff] at h ⊢
  exact ⟨h.1.sublist List.filter_sublist, fun e he => h.2 e (List.mem_filter.mp he).1⟩

/-- The entries of a run of keys have keys of the run, and values of the list. -/
theorem mem_runFrom : ∀ {a : Nat} {xs : List (Option α)} {e : Nat × α}, e ∈ runFrom a xs →
    a ≤ e.1 ∧ e.1 < a + xs.length ∧ some e.2 ∈ xs
  | _, [], _, h => by simp [runFrom] at h
  | a, x :: xs, e, h => by
    rcases List.mem_append.mp h with h | h
    · obtain ⟨v, hv, rfl⟩ := Option.map_eq_some_iff.mp (Option.mem_toList.mp h)
      exact ⟨Nat.le_refl a, by simp, by simp [hv]⟩
    · obtain ⟨h1, h2, h3⟩ := mem_runFrom h
      exact ⟨by omega, by simp only [List.length_cons]; omega, List.mem_cons_of_mem _ h3⟩

/-- The entries of a run of keys rise. -/
theorem pairwise_runFrom : ∀ (a : Nat) (xs : List (Option α)), (runFrom a xs).Pairwise fun a b => a.1 < b.1
  | _, [] => List.Pairwise.nil
  | a, x :: xs => by
    refine List.pairwise_append.mpr ⟨by cases x <;> simp, pairwise_runFrom (a + 1) xs, fun p hp q hq => ?_⟩
    obtain ⟨v, _, rfl⟩ := Option.map_eq_some_iff.mp (Option.mem_toList.mp hp)
    exact (mem_runFrom hq).1

/-- Where an entry of a table with a run replaced comes from. -/
theorem mem_mrun {m : SMap α} {a : Nat} {xs : List (Option α)} {e : Nat × α} (h : e ∈ mrun m a xs) :
    (e ∈ m ∧ e.1 < a) ∨ e ∈ runFrom a xs ∨ (e ∈ m ∧ a + xs.length ≤ e.1) := by
  unfold mrun at h
  rcases List.mem_append.mp h with h | h
  · rcases List.mem_append.mp h with h | h
    · exact .inl (by simpa using h)
    · exact .inr (.inl h)
  · exact .inr (.inr (by simpa using h))

theorem rising_mrun {m : SMap α} (h : rising 0 m = true) (a : Nat) (xs : List (Option α)) : rising 0 (mrun m a xs) = true := by
  rw [rising_iff] at h ⊢
  refine ⟨?_, fun _ _ => Nat.zero_le _⟩
  unfold mrun
  refine List.pairwise_append.mpr ⟨List.pairwise_append.mpr ⟨h.1.sublist List.filter_sublist, pairwise_runFrom a xs, ?_⟩,
    h.1.sublist List.filter_sublist, ?_⟩
  · intro x hx y hy
    have h1 := (List.mem_filter.mp hx).2
    have h2 := (mem_runFrom hy).1
    simp only [decide_eq_true_eq] at h1
    omega
  · intro x hx y hy
    have h1 := (List.mem_filter.mp hy).2
    simp only [decide_eq_true_eq] at h1
    rcases List.mem_append.mp hx with hx | hx
    · have h2 := (List.mem_filter.mp hx).2
      simp only [decide_eq_true_eq] at h2
      omega
    · have h2 := (mem_runFrom hx).2.1
      omega

section Default
variable [DecidableEq α]

theorem mwf_iff {d : α} {m : SMap α} : mwf d m = true ↔ rising 0 m = true ∧ ∀ e ∈ m, e.2 ≠ d := by
  simp [mwf]

@[simp] theorem mwf_nil (d : α) : mwf d ([] : SMap α) = true := by simp [mwf, rising]

/-- Writing keeps the canonical form. -/
theorem mwf_mset {d : α} {m : SMap α} (h : mwf d m = true) (k : Nat) (a : α) : mwf d (mset d m k a) = true := by
  rw [mwf_iff] at h ⊢
  unfold mset
  split
  · exact ⟨rising_tdel h.1 k, fun e he => h.2 e (mem_tdel he)⟩
  · refine ⟨rising_tset h.1 a (Nat.zero_le k), fun e he => ?_⟩
    rcases mem_tset he with rfl | he
    · assumption
    · exact h.2 e he

@[simp] theorem mget_mset_self (d : α) (m : SMap α) (k : Nat) (a : α) : mget d (mset d m k a) k = a := by
  unfold mget mset
  split
  · simp [*]
  · simp

theorem mget_mset_ne (d : α) (m : SMap α) {k j : Nat} (a : α) (hj : j ≠ k) :
    mget d (mset d m k a) j = mget d m j := by
  unfold mget mset
  split
  · rw [tget_tdel_ne m hj]
  · rw [tget_tset_ne m a hj]

/-- Equal contents are equal data. -/
theorem mwf_ext {d : α} {m m' : SMap α} (h : mwf d m = true) (h' : mwf d m' = true)
    (hg : ∀ k, mget d m k = mget d m' k) : m = m' := by
  rw [mwf_iff] at h h'
  refine rising_ext h.1 h'.1 fun k => ?_
  have := hg k
  unfold mget at this
  cases e : tget m k with
  | none =>
    cases e' : tget m' k with
    | none => rfl
    | some b => simp [e, e'] at this; exact absurd this.symm (h'.2 _ (tget_mem e'))
  | some a =>
    cases e' : tget m' k with
    | none => simp [e, e'] at this; exact absurd this (h.2 _ (tget_mem e))
    | some b => simp [e, e'] at this; rw [this]

/-- A run of keys replaced by values that are not the default. -/
theorem mwf_mrun {d : α} {m : SMap α} (h : mwf d m = true) (a : Nat) {xs : List (Option α)} (hx : some d ∉ xs) :
    mwf d (mrun m a xs) = true := by
  rw [mwf_iff] at h ⊢
  refine ⟨rising_mrun h.1 a xs, fun e he => ?_⟩
  rcases mem_mrun he with ⟨h1, _⟩ | h1 | ⟨h1, _⟩
  · exact h.2 e h1
  · exact fun hd => hx (hd ▸ (mem_runFrom h1).2.2)
  · exact h.2 e h1

theorem mwf_filter {d : α} {m : SMap α} (h : mwf d m = true) (p : Nat × α → Bool) : mwf d (m.filter p) = true := by
  rw [mwf_iff] at h ⊢
  exact ⟨rising_filter p h.1, fun e he => h.2 e (List.mem_filter.mp he).1⟩

theorem mwf_mcut {d : α} {m : SMap α} (h : mwf d m = true) (lo n : Nat) : mwf d (mcut m lo n) = true := mwf_filter h _

end Default

/-! ### Bytes -/

theorem mwf_writeBytes {m : SMap Byte} (h : mwf 0 m = true) (a : Nat) (bs : List Byte) :
    mwf 0 (writeBytes m a bs) = true := by
  induction bs generalizing m a with
  | nil => exact h
  | cons b bs ih => exact ih (mwf_mset h a b) (a + 1)

theorem mget_writeBytes_below (m : SMap Byte) {a : Nat} (bs : List Byte) {k : Nat} (hk : k < a) :
    mget 0 (writeBytes m a bs) k = mget 0 m k := by
  induction bs generalizing m a with
  | nil => rfl
  | cons b bs ih => rw [writeBytes, ih _ (by omega), mget_mset_ne 0 m b (by omega)]

/-- The byte at an address after a run of bytes has been written. -/
theorem mget_writeBytes (m : SMap Byte) (a : Nat) (bs : List Byte) (k : Nat) :
    mget 0 (writeBytes m a bs) k = if a ≤ k ∧ k < a + bs.length then bs.getD (k - a) 0 else mget 0 m k := by
  induction bs generalizing m a with
  | nil => have : ¬ (a ≤ k ∧ k < a) := by omega
           simp [writeBytes, this]
  | cons b bs ih =>
    rw [writeBytes]
    by_cases hk : k = a
    · subst hk
      rw [mget_writeBytes_below _ bs (Nat.lt_succ_self k), mget_mset_self]
      simp
    · rw [ih _ (a + 1), mget_mset_ne 0 m b hk]
      by_cases hl : a ≤ k
      · have h3 : k - a = (k - (a + 1)) + 1 := by omega
        have h4 : (a + 1 ≤ k ∧ k < a + 1 + bs.length) ↔ (a ≤ k ∧ k < a + (b :: bs).length) := by
          simp only [List.length_cons]; omega
        simp only [h4, h3, List.getD_cons_succ]
      · have h1 : ¬ (a + 1 ≤ k ∧ k < a + 1 + bs.length) := by omega
        have h2 : ¬ (a ≤ k ∧ k < a + (b :: bs).length) := by omega
        rw [if_neg h1, if_neg h2]

theorem mget_writeBytes_out (m : SMap Byte) {a : Nat} {bs : List Byte} {k : Nat}
    (hk : k < a ∨ a + bs.length ≤ k) : mget 0 (writeBytes m a bs) k = mget 0 m k := by
  rw [mget_writeBytes, if_neg (by omega)]

/-- What has been written is read. -/
theorem readBytes_writeBytes (m : SMap Byte) (a : Nat) (bs : List Byte) :
    readBytes (writeBytes m a bs) a bs.length = bs := by
  apply List.ext_getElem
  · simp [readBytes]
  · intro i h1 h2
    have h3 : a ≤ a + i ∧ a + i < a + bs.length := by omega
    have h4 : mget 0 (writeBytes m a bs) (a + i) = bs[i] := by
      rw [mget_writeBytes, if_pos h3, Nat.add_sub_cancel_left, List.getD_eq_getElem _ _ h2]
    simpa [readBytes] using h4

theorem natLe_length (n v : Nat) : (natLe n v).length = n := by
  induction n generalizing v with
  | zero => rfl
  | succ n ih => simp [natLe, ih]

/-- A number read from its own bytes. -/
theorem leNat_natLe (n v : Nat) : leNat (natLe n v) = v % 256 ^ n := by
  induction n generalizing v with
  | zero => simp [natLe, leNat, Nat.mod_one]
  | succ n ih =>
    have h : v % (256 * 256 ^ n) = v % 256 + 256 * (v / 256 % 256 ^ n) := Nat.mod_mul
    have h8 : (BitVec.ofNat 8 v).toNat = v % 256 := BitVec.toNat_ofNat v 8
    rw [natLe, leNat, ih, h8, ← h, Nat.mul_comm 256, ← Nat.pow_succ]

end Sys2Proof.Machine
end

