-- ==== Sys2Proof/Laws/State.lean ====
section
/-! SUPPORT. What the updates of the state leave: one lemma for each field and update, and reading a core or a context after
one has been written. -/

namespace Sys2Proof.Machine

/-! ### The fields of the package -/

@[simp] theorem State.setCore_queues (s : State) (n : Nat) (k : Core) : (s.setCore n k).queues = s.queues := rfl
@[simp] theorem State.setCore_served (s : State) (n : Nat) (k : Core) : (s.setCore n k).served = s.served := rfl
@[simp] theorem State.setCore_grids (s : State) (n : Nat) (k : Core) : (s.setCore n k).grids = s.grids := rfl
@[simp] theorem State.setCore_barriers (s : State) (n : Nat) (k : Core) : (s.setCore n k).barriers = s.barriers := rfl
@[simp] theorem State.setCore_heap (s : State) (n : Nat) (k : Core) : (s.setCore n k).heap = s.heap := rfl
@[simp] theorem State.setCore_dispT (s : State) (n : Nat) (k : Core) : (s.setCore n k).dispT = s.dispT := rfl
@[simp] theorem State.setCore_edgeT (s : State) (n : Nat) (k : Core) : (s.setCore n k).edgeT = s.edgeT := rfl
@[simp] theorem State.setCore_chains (s : State) (n : Nat) (k : Core) : (s.setCore n k).chains = s.chains := rfl
@[simp] theorem State.setCore_slcT (s : State) (n : Nat) (k : Core) : (s.setCore n k).slcT = s.slcT := rfl
@[simp] theorem State.setCore_mem (s : State) (n : Nat) (k : Core) : (s.setCore n k).mem = s.mem := rfl
@[simp] theorem State.setCore_fabric (s : State) (n : Nat) (k : Core) : (s.setCore n k).fabric = s.fabric := rfl
@[simp] theorem State.setCore_ckpt (s : State) (n : Nat) (k : Core) : (s.setCore n k).ckpt = s.ckpt := rfl
@[simp] theorem State.setCore_board (s : State) (n : Nat) (k : Core) : (s.setCore n k).board = s.board := rfl
@[simp] theorem State.setCore_gtime (s : State) (n : Nat) (k : Core) : (s.setCore n k).gtime = s.gtime := rfl
@[simp] theorem State.setCore_sent (s : State) (n : Nat) (k : Core) : (s.setCore n k).sent = s.sent := rfl
@[simp] theorem State.setCore_actor (s : State) (n : Nat) (k : Core) : (s.setCore n k).actor = s.actor := rfl
@[simp] theorem State.setCore_agenda (s : State) (n : Nat) (k : Core) : (s.setCore n k).agenda = s.agenda := rfl
@[simp] theorem State.setCore_input (s : State) (n : Nat) (k : Core) : (s.setCore n k).input = s.input := rfl
@[simp] theorem State.setCore_clock (s : State) (n : Nat) (k : Core) : (s.setCore n k).clock = s.clock := rfl
@[simp] theorem State.setCore_fresh (s : State) (n : Nat) (k : Core) : (s.setCore n k).fresh = s.fresh := rfl
@[simp] theorem State.setCore_chainLog (s : State) (n : Nat) (k : Core) : (s.setCore n k).chainLog = s.chainLog := rfl

@[simp] theorem State.setCtx_queues (s : State) (n c : Nat) (x : Ctx) : (s.setCtx n c x).queues = s.queues := rfl
@[simp] theorem State.setCtx_served (s : State) (n c : Nat) (x : Ctx) : (s.setCtx n c x).served = s.served := rfl
@[simp] theorem State.setCtx_grids (s : State) (n c : Nat) (x : Ctx) : (s.setCtx n c x).grids = s.grids := rfl
@[simp] theorem State.setCtx_barriers (s : State) (n c : Nat) (x : Ctx) : (s.setCtx n c x).barriers = s.barriers := rfl
@[simp] theorem State.setCtx_heap (s : State) (n c : Nat) (x : Ctx) : (s.setCtx n c x).heap = s.heap := rfl
@[simp] theorem State.setCtx_dispT (s : State) (n c : Nat) (x : Ctx) : (s.setCtx n c x).dispT = s.dispT := rfl
@[simp] theorem State.setCtx_edgeT (s : State) (n c : Nat) (x : Ctx) : (s.setCtx n c x).edgeT = s.edgeT := rfl
@[simp] theorem State.setCtx_chains (s : State) (n c : Nat) (x : Ctx) : (s.setCtx n c x).chains = s.chains := rfl
@[simp] theorem State.setCtx_slcT (s : State) (n c : Nat) (x : Ctx) : (s.setCtx n c x).slcT = s.slcT := rfl
@[simp] theorem State.setCtx_mem (s : State) (n c : Nat) (x : Ctx) : (s.setCtx n c x).mem = s.mem := rfl
@[simp] theorem State.setCtx_fabric (s : State) (n c : Nat) (x : Ctx) : (s.setCtx n c x).fabric = s.fabric := rfl
@[simp] theorem State.setCtx_ckpt (s : State) (n c : Nat) (x : Ctx) : (s.setCtx n c x).ckpt = s.ckpt := rfl
@[simp] theorem State.setCtx_board (s : State) (n c : Nat) (x : Ctx) : (s.setCtx n c x).board = s.board := rfl
@[simp] theorem State.setCtx_gtime (s : State) (n c : Nat) (x : Ctx) : (s.setCtx n c x).gtime = s.gtime := rfl
@[simp] theorem State.setCtx_sent (s : State) (n c : Nat) (x : Ctx) : (s.setCtx n c x).sent = s.sent := rfl
@[simp] theorem State.setCtx_actor (s : State) (n c : Nat) (x : Ctx) : (s.setCtx n c x).actor = s.actor := rfl
@[simp] theorem State.setCtx_agenda (s : State) (n c : Nat) (x : Ctx) : (s.setCtx n c x).agenda = s.agenda := rfl
@[simp] theorem State.setCtx_input (s : State) (n c : Nat) (x : Ctx) : (s.setCtx n c x).input = s.input := rfl
@[simp] theorem State.setCtx_clock (s : State) (n c : Nat) (x : Ctx) : (s.setCtx n c x).clock = s.clock := rfl
@[simp] theorem State.setCtx_fresh (s : State) (n c : Nat) (x : Ctx) : (s.setCtx n c x).fresh = s.fresh := rfl
@[simp] theorem State.setCtx_chainLog (s : State) (n c : Nat) (x : Ctx) : (s.setCtx n c x).chainLog = s.chainLog := rfl

@[simp] theorem State.modCtx_queues (s : State) (n c : Nat) (g : Ctx → Ctx) : (s.modCtx n c g).queues = s.queues := rfl
@[simp] theorem State.modCtx_served (s : State) (n c : Nat) (g : Ctx → Ctx) : (s.modCtx n c g).served = s.served := rfl
@[simp] theorem State.modCtx_grids (s : State) (n c : Nat) (g : Ctx → Ctx) : (s.modCtx n c g).grids = s.grids := rfl
@[simp] theorem State.modCtx_barriers (s : State) (n c : Nat) (g : Ctx → Ctx) : (s.modCtx n c g).barriers = s.barriers := rfl
@[simp] theorem State.modCtx_heap (s : State) (n c : Nat) (g : Ctx → Ctx) : (s.modCtx n c g).heap = s.heap := rfl
@[simp] theorem State.modCtx_dispT (s : State) (n c : Nat) (g : Ctx → Ctx) : (s.modCtx n c g).dispT = s.dispT := rfl
@[simp] theorem State.modCtx_edgeT (s : State) (n c : Nat) (g : Ctx → Ctx) : (s.modCtx n c g).edgeT = s.edgeT := rfl
@[simp] theorem State.modCtx_chains (s : State) (n c : Nat) (g : Ctx → Ctx) : (s.modCtx n c g).chains = s.chains := rfl
@[simp] theorem State.modCtx_slcT (s : State) (n c : Nat) (g : Ctx → Ctx) : (s.modCtx n c g).slcT = s.slcT := rfl
@[simp] theorem State.modCtx_mem (s : State) (n c : Nat) (g : Ctx → Ctx) : (s.modCtx n c g).mem = s.mem := rfl
@[simp] theorem State.modCtx_fabric (s : State) (n c : Nat) (g : Ctx → Ctx) : (s.modCtx n c g).fabric = s.fabric := rfl
@[simp] theorem State.modCtx_ckpt (s : State) (n c : Nat) (g : Ctx → Ctx) : (s.modCtx n c g).ckpt = s.ckpt := rfl
@[simp] theorem State.modCtx_board (s : State) (n c : Nat) (g : Ctx → Ctx) : (s.modCtx n c g).board = s.board := rfl
@[simp] theorem State.modCtx_gtime (s : State) (n c : Nat) (g : Ctx → Ctx) : (s.modCtx n c g).gtime = s.gtime := rfl
@[simp] theorem State.modCtx_sent (s : State) (n c : Nat) (g : Ctx → Ctx) : (s.modCtx n c g).sent = s.sent := rfl
@[simp] theorem State.modCtx_actor (s : State) (n c : Nat) (g : Ctx → Ctx) : (s.modCtx n c g).actor = s.actor := rfl
@[simp] theorem State.modCtx_agenda (s : State) (n c : Nat) (g : Ctx → Ctx) : (s.modCtx n c g).agenda = s.agenda := rfl
@[simp] theorem State.modCtx_input (s : State) (n c : Nat) (g : Ctx → Ctx) : (s.modCtx n c g).input = s.input := rfl
@[simp] theorem State.modCtx_clock (s : State) (n c : Nat) (g : Ctx → Ctx) : (s.modCtx n c g).clock = s.clock := rfl
@[simp] theorem State.modCtx_fresh (s : State) (n c : Nat) (g : Ctx → Ctx) : (s.modCtx n c g).fresh = s.fresh := rfl
@[simp] theorem State.modCtx_chainLog (s : State) (n c : Nat) (g : Ctx → Ctx) : (s.modCtx n c g).chainLog = s.chainLog := rfl

@[simp] theorem State.modCore_queues (s : State) (n : Nat) (g : Core → Core) : (s.modCore n g).queues = s.queues := rfl
@[simp] theorem State.modCore_served (s : State) (n : Nat) (g : Core → Core) : (s.modCore n g).served = s.served := rfl
@[simp] theorem State.modCore_grids (s : State) (n : Nat) (g : Core → Core) : (s.modCore n g).grids = s.grids := rfl
@[simp] theorem State.modCore_barriers (s : State) (n : Nat) (g : Core → Core) : (s.modCore n g).barriers = s.barriers := rfl
@[simp] theorem State.modCore_heap (s : State) (n : Nat) (g : Core → Core) : (s.modCore n g).heap = s.heap := rfl
@[simp] theorem State.modCore_dispT (s : State) (n : Nat) (g : Core → Core) : (s.modCore n g).dispT = s.dispT := rfl
@[simp] theorem State.modCore_edgeT (s : State) (n : Nat) (g : Core → Core) : (s.modCore n g).edgeT = s.edgeT := rfl
@[simp] theorem State.modCore_chains (s : State) (n : Nat) (g : Core → Core) : (s.modCore n g).chains = s.chains := rfl
@[simp] theorem State.modCore_slcT (s : State) (n : Nat) (g : Core → Core) : (s.modCore n g).slcT = s.slcT := rfl
@[simp] theorem State.modCore_mem (s : State) (n : Nat) (g : Core → Core) : (s.modCore n g).mem = s.mem := rfl
@[simp] theorem State.modCore_fabric (s : State) (n : Nat) (g : Core → Core) : (s.modCore n g).fabric = s.fabric := rfl
@[simp] theorem State.modCore_ckpt (s : State) (n : Nat) (g : Core → Core) : (s.modCore n g).ckpt = s.ckpt := rfl
@[simp] theorem State.modCore_board (s : State) (n : Nat) (g : Core → Core) : (s.modCore n g).board = s.board := rfl
@[simp] theorem State.modCore_gtime (s : State) (n : Nat) (g : Core → Core) : (s.modCore n g).gtime = s.gtime := rfl
@[simp] theorem State.modCore_sent (s : State) (n : Nat) (g : Core → Core) : (s.modCore n g).sent = s.sent := rfl
@[simp] theorem State.modCore_actor (s : State) (n : Nat) (g : Core → Core) : (s.modCore n g).actor = s.actor := rfl
@[simp] theorem State.modCore_agenda (s : State) (n : Nat) (g : Core → Core) : (s.modCore n g).agenda = s.agenda := rfl
@[simp] theorem State.modCore_input (s : State) (n : Nat) (g : Core → Core) : (s.modCore n g).input = s.input := rfl
@[simp] theorem State.modCore_clock (s : State) (n : Nat) (g : Core → Core) : (s.modCore n g).clock = s.clock := rfl
@[simp] theorem State.modCore_fresh (s : State) (n : Nat) (g : Core → Core) : (s.modCore n g).fresh = s.fresh := rfl
@[simp] theorem State.modCore_chainLog (s : State) (n : Nat) (g : Core → Core) : (s.modCore n g).chainLog = s.chainLog := rfl

@[simp] theorem State.modBundle_queues (s : State) (n c : Nat) (g : Bundle → Bundle) : (s.modBundle n c g).queues = s.queues := rfl
@[simp] theorem State.modBundle_served (s : State) (n c : Nat) (g : Bundle → Bundle) : (s.modBundle n c g).served = s.served := rfl
@[simp] theorem State.modBundle_grids (s : State) (n c : Nat) (g : Bundle → Bundle) : (s.modBundle n c g).grids = s.grids := rfl
@[simp] theorem State.modBundle_barriers (s : State) (n c : Nat) (g : Bundle → Bundle) : (s.modBundle n c g).barriers = s.barriers := rfl
@[simp] theorem State.modBundle_heap (s : State) (n c : Nat) (g : Bundle → Bundle) : (s.modBundle n c g).heap = s.heap := rfl
@[simp] theorem State.modBundle_dispT (s : State) (n c : Nat) (g : Bundle → Bundle) : (s.modBundle n c g).dispT = s.dispT := rfl
@[simp] theorem State.modBundle_edgeT (s : State) (n c : Nat) (g : Bundle → Bundle) : (s.modBundle n c g).edgeT = s.edgeT := rfl
@[simp] theorem State.modBundle_chains (s : State) (n c : Nat) (g : Bundle → Bundle) : (s.modBundle n c g).chains = s.chains := rfl
@[simp] theorem State.modBundle_slcT (s : State) (n c : Nat) (g : Bundle → Bundle) : (s.modBundle n c g).slcT = s.slcT := rfl
@[simp] theorem State.modBundle_mem (s : State) (n c : Nat) (g : Bundle → Bundle) : (s.modBundle n c g).mem = s.mem := rfl
@[simp] theorem State.modBundle_fabric (s : State) (n c : Nat) (g : Bundle → Bundle) : (s.modBundle n c g).fabric = s.fabric := rfl
@[simp] theorem State.modBundle_ckpt (s : State) (n c : Nat) (g : Bundle → Bundle) : (s.modBundle n c g).ckpt = s.ckpt := rfl
@[simp] theorem State.modBundle_board (s : State) (n c : Nat) (g : Bundle → Bundle) : (s.modBundle n c g).board = s.board := rfl
@[simp] theorem State.modBundle_gtime (s : State) (n c : Nat) (g : Bundle → Bundle) : (s.modBundle n c g).gtime = s.gtime := rfl
@[simp] theorem State.modBundle_sent (s : State) (n c : Nat) (g : Bundle → Bundle) : (s.modBundle n c g).sent = s.sent := rfl
@[simp] theorem State.modBundle_actor (s : State) (n c : Nat) (g : Bundle → Bundle) : (s.modBundle n c g).actor = s.actor := rfl
@[simp] theorem State.modBundle_agenda (s : State) (n c : Nat) (g : Bundle → Bundle) : (s.modBundle n c g).agenda = s.agenda := rfl
@[simp] theorem State.modBundle_input (s : State) (n c : Nat) (g : Bundle → Bundle) : (s.modBundle n c g).input = s.input := rfl
@[simp] theorem State.modBundle_clock (s : State) (n c : Nat) (g : Bundle → Bundle) : (s.modBundle n c g).clock = s.clock := rfl
@[simp] theorem State.modBundle_fresh (s : State) (n c : Nat) (g : Bundle → Bundle) : (s.modBundle n c g).fresh = s.fresh := rfl
@[simp] theorem State.modBundle_chainLog (s : State) (n c : Nat) (g : Bundle → Bundle) : (s.modBundle n c g).chainLog = s.chainLog := rfl

@[simp] theorem State.release_queues (s : State) (n c : Nat) : (s.release n c).queues = s.queues := rfl
@[simp] theorem State.release_served (s : State) (n c : Nat) : (s.release n c).served = s.served := rfl
@[simp] theorem State.release_grids (s : State) (n c : Nat) : (s.release n c).grids = s.grids := rfl
@[simp] theorem State.release_barriers (s : State) (n c : Nat) : (s.release n c).barriers = s.barriers := rfl
@[simp] theorem State.release_heap (s : State) (n c : Nat) : (s.release n c).heap = s.heap := rfl
@[simp] theorem State.release_dispT (s : State) (n c : Nat) : (s.release n c).dispT = s.dispT := rfl
@[simp] theorem State.release_edgeT (s : State) (n c : Nat) : (s.release n c).edgeT = s.edgeT := rfl
@[simp] theorem State.release_chains (s : State) (n c : Nat) : (s.release n c).chains = s.chains := rfl
@[simp] theorem State.release_slcT (s : State) (n c : Nat) : (s.release n c).slcT = s.slcT := rfl
@[simp] theorem State.release_mem (s : State) (n c : Nat) : (s.release n c).mem = s.mem := rfl
@[simp] theorem State.release_fabric (s : State) (n c : Nat) : (s.release n c).fabric = s.fabric := rfl
@[simp] theorem State.release_ckpt (s : State) (n c : Nat) : (s.release n c).ckpt = s.ckpt := rfl
@[simp] theorem State.release_board (s : State) (n c : Nat) : (s.release n c).board = s.board := rfl
@[simp] theorem State.release_gtime (s : State) (n c : Nat) : (s.release n c).gtime = s.gtime := rfl
@[simp] theorem State.release_sent (s : State) (n c : Nat) : (s.release n c).sent = s.sent := rfl
@[simp] theorem State.release_actor (s : State) (n c : Nat) : (s.release n c).actor = s.actor := rfl
@[simp] theorem State.release_agenda (s : State) (n c : Nat) : (s.release n c).agenda = s.agenda := rfl
@[simp] theorem State.release_input (s : State) (n c : Nat) : (s.release n c).input = s.input := rfl
@[simp] theorem State.release_clock (s : State) (n c : Nat) : (s.release n c).clock = s.clock := rfl
@[simp] theorem State.release_fresh (s : State) (n c : Nat) : (s.release n c).fresh = s.fresh := rfl
@[simp] theorem State.release_chainLog (s : State) (n c : Nat) : (s.release n c).chainLog = s.chainLog := rfl

@[simp] theorem State.setQueue_cores (s : State) (q : Nat) (x : Queue) : (s.setQueue q x).cores = s.cores := rfl
@[simp] theorem State.setQueue_served (s : State) (q : Nat) (x : Queue) : (s.setQueue q x).served = s.served := rfl
@[simp] theorem State.setQueue_grids (s : State) (q : Nat) (x : Queue) : (s.setQueue q x).grids = s.grids := rfl
@[simp] theorem State.setQueue_barriers (s : State) (q : Nat) (x : Queue) : (s.setQueue q x).barriers = s.barriers := rfl
@[simp] theorem State.setQueue_heap (s : State) (q : Nat) (x : Queue) : (s.setQueue q x).heap = s.heap := rfl
@[simp] theorem State.setQueue_dispT (s : State) (q : Nat) (x : Queue) : (s.setQueue q x).dispT = s.dispT := rfl
@[simp] theorem State.setQueue_edgeT (s : State) (q : Nat) (x : Queue) : (s.setQueue q x).edgeT = s.edgeT := rfl
@[simp] theorem State.setQueue_chains (s : State) (q : Nat) (x : Queue) : (s.setQueue q x).chains = s.chains := rfl
@[simp] theorem State.setQueue_slcT (s : State) (q : Nat) (x : Queue) : (s.setQueue q x).slcT = s.slcT := rfl
@[simp] theorem State.setQueue_mem (s : State) (q : Nat) (x : Queue) : (s.setQueue q x).mem = s.mem := rfl
@[simp] theorem State.setQueue_fabric (s : State) (q : Nat) (x : Queue) : (s.setQueue q x).fabric = s.fabric := rfl
@[simp] theorem State.setQueue_ckpt (s : State) (q : Nat) (x : Queue) : (s.setQueue q x).ckpt = s.ckpt := rfl
@[simp] theorem State.setQueue_board (s : State) (q : Nat) (x : Queue) : (s.setQueue q x).board = s.board := rfl
@[simp] theorem State.setQueue_gtime (s : State) (q : Nat) (x : Queue) : (s.setQueue q x).gtime = s.gtime := rfl
@[simp] theorem State.setQueue_sent (s : State) (q : Nat) (x : Queue) : (s.setQueue q x).sent = s.sent := rfl
@[simp] theorem State.setQueue_actor (s : State) (q : Nat) (x : Queue) : (s.setQueue q x).actor = s.actor := rfl
@[simp] theorem State.setQueue_agenda (s : State) (q : Nat) (x : Queue) : (s.setQueue q x).agenda = s.agenda := rfl
@[simp] theorem State.setQueue_input (s : State) (q : Nat) (x : Queue) : (s.setQueue q x).input = s.input := rfl
@[simp] theorem State.setQueue_clock (s : State) (q : Nat) (x : Queue) : (s.setQueue q x).clock = s.clock := rfl
@[simp] theorem State.setQueue_fresh (s : State) (q : Nat) (x : Queue) : (s.setQueue q x).fresh = s.fresh := rfl
@[simp] theorem State.setQueue_chainLog (s : State) (q : Nat) (x : Queue) : (s.setQueue q x).chainLog = s.chainLog := rfl

@[simp] theorem State.send_cores (s : State) (m : Message) : (s.send m).cores = s.cores := rfl
@[simp] theorem State.send_queues (s : State) (m : Message) : (s.send m).queues = s.queues := rfl
@[simp] theorem State.send_served (s : State) (m : Message) : (s.send m).served = s.served := rfl
@[simp] theorem State.send_grids (s : State) (m : Message) : (s.send m).grids = s.grids := rfl
@[simp] theorem State.send_barriers (s : State) (m : Message) : (s.send m).barriers = s.barriers := rfl
@[simp] theorem State.send_heap (s : State) (m : Message) : (s.send m).heap = s.heap := rfl
@[simp] theorem State.send_dispT (s : State) (m : Message) : (s.send m).dispT = s.dispT := rfl
@[simp] theorem State.send_edgeT (s : State) (m : Message) : (s.send m).edgeT = s.edgeT := rfl
@[simp] theorem State.send_chains (s : State) (m : Message) : (s.send m).chains = s.chains := rfl
@[simp] theorem State.send_slcT (s : State) (m : Message) : (s.send m).slcT = s.slcT := rfl
@[simp] theorem State.send_mem (s : State) (m : Message) : (s.send m).mem = s.mem := rfl
@[simp] theorem State.send_fabric (s : State) (m : Message) : (s.send m).fabric = s.fabric := rfl
@[simp] theorem State.send_ckpt (s : State) (m : Message) : (s.send m).ckpt = s.ckpt := rfl
@[simp] theorem State.send_board (s : State) (m : Message) : (s.send m).board = s.board := rfl
@[simp] theorem State.send_gtime (s : State) (m : Message) : (s.send m).gtime = s.gtime := rfl
@[simp] theorem State.send_actor (s : State) (m : Message) : (s.send m).actor = s.actor := rfl
@[simp] theorem State.send_agenda (s : State) (m : Message) : (s.send m).agenda = s.agenda := rfl
@[simp] theorem State.send_input (s : State) (m : Message) : (s.send m).input = s.input := rfl
@[simp] theorem State.send_clock (s : State) (m : Message) : (s.send m).clock = s.clock := rfl
@[simp] theorem State.send_fresh (s : State) (m : Message) : (s.send m).fresh = s.fresh := rfl
@[simp] theorem State.send_chainLog (s : State) (m : Message) : (s.send m).chainLog = s.chainLog := rfl

/-! ### Cores and contexts -/

theorem Core.ctxs_ne (k : Core) (c : Nat) (x : Ctx) : ({ k with ctxs := tset k.ctxs c x } : Core) ≠ {} := by
  intro h
  have h := congrArg (fun k => tget k.ctxs c) h
  simp at h

theorem State.setCore_of_ne (s : State) (n : Nat) {k : Core} (h : k ≠ {}) :
    s.setCore n k = { s with cores := tset s.cores n k } := by
  unfold State.setCore mset
  rw [if_neg h]

theorem State.core_setCore_of_ne (s : State) (n : Nat) {k : Core} (h : k ≠ {}) : (s.setCore n k).core n = k := by
  rw [State.setCore_of_ne s n h]
  simp [State.core, mget]

theorem State.core_setCtx (s : State) (n c : Nat) (x : Ctx) :
    (s.setCtx n c x).core n = { s.core n with ctxs := tset (s.core n).ctxs c x } :=
  State.core_setCore_of_ne s n (Core.ctxs_ne _ c x)

theorem State.core_setCore_ne (s : State) {n m : Nat} (k : Core) (h : m ≠ n) : (s.setCore n k).core m = s.core m :=
  mget_mset_ne _ _ k h

@[simp] theorem State.core_setCore (s : State) (n : Nat) (k : Core) : (s.setCore n k).core n = k := mget_mset_self _ _ n k

theorem State.core_setCtx_ne (s : State) {n m : Nat} (c : Nat) (x : Ctx) (h : m ≠ n) :
    (s.setCtx n c x).core m = s.core m := by
  unfold State.setCtx
  rw [State.setCore_of_ne s n (Core.ctxs_ne _ c x)]
  simp [State.core, mget, tget_tset_ne _ _ h]

@[simp] theorem State.ctx?_setCtx (s : State) (n c : Nat) (x : Ctx) : (s.setCtx n c x).ctx? n c = some x := by
  simp [State.ctx?, State.core_setCtx]

@[simp] theorem State.ctx_setCtx (s : State) (n c : Nat) (x : Ctx) : (s.setCtx n c x).ctx n c = x := by
  simp [State.ctx]

theorem State.ctx?_setCtx_ne (s : State) {n c m d : Nat} (x : Ctx) (h : m ≠ n ∨ d ≠ c) :
    (s.setCtx n c x).ctx? m d = s.ctx? m d := by
  unfold State.ctx?
  by_cases hm : m = n
  · subst hm
    rw [State.core_setCtx]
    exact tget_tset_ne _ _ (h.resolve_left (fun e => e rfl))
  · rw [State.core_setCtx_ne s c x hm]

theorem tset_tset {α : Type} (m : SMap α) (k : Nat) (a b : α) : tset (tset m k a) k b = tset m k b := by
  induction m with
  | nil => simp [tset]
  | cons e m ih =>
    obtain ⟨j, d⟩ := e
    by_cases h1 : k < j
    · simp [tset, h1]
    · by_cases h2 : j = k
      · subst h2; simp [tset]
      · simp [tset, h1, h2, ih]

/-- A context written twice. -/
@[simp] theorem State.setCtx_setCtx (s : State) (n c : Nat) (x y : Ctx) :
    (s.setCtx n c x).setCtx n c y = s.setCtx n c y := by
  have hc := State.core_setCtx s n c x
  unfold State.setCtx at hc ⊢
  rw [hc, State.setCore_of_ne s n (Core.ctxs_ne _ c x), State.setCore_of_ne s n (Core.ctxs_ne _ c y),
    State.setCore_of_ne _ n]
  · simp [tset_tset]
  · exact Core.ctxs_ne { s.core n with ctxs := tset (s.core n).ctxs c x } c y

@[simp] theorem State.modCtx_setCtx (s : State) (n c : Nat) (x : Ctx) (g : Ctx → Ctx) :
    (s.setCtx n c x).modCtx n c g = s.setCtx n c (g x) := by
  simp [State.modCtx]

@[simp] theorem State.modBundle_setCtx (s : State) (n c : Nat) (x : Ctx) (g : Bundle → Bundle) :
    (s.setCtx n c x).modBundle n c g = s.setCtx n c { x with bundle := x.bundle.map g } := by
  simp [State.modBundle]

/-! ### Pending writes -/

@[simp] theorem Ctx.push_task (x : Ctx) (l : Nat) (w : RegWrite) : (x.push l w).task = x.task := rfl
@[simp] theorem Ctx.push_run (x : Ctx) (l : Nat) (w : RegWrite) : (x.push l w).run = x.run := rfl
@[simp] theorem Ctx.push_regs (x : Ctx) (l : Nat) (w : RegWrite) : (x.push l w).regs = x.regs := rfl
@[simp] theorem Ctx.push_ctl (x : Ctx) (l : Nat) (w : RegWrite) : (x.push l w).ctl = x.ctl := rfl
@[simp] theorem Ctx.push_cnt (x : Ctx) (l : Nat) (w : RegWrite) : (x.push l w).cnt = x.cnt := rfl
@[simp] theorem Ctx.push_loops (x : Ctx) (l : Nat) (w : RegWrite) : (x.push l w).loops = x.loops := rfl
@[simp] theorem Ctx.push_units (x : Ctx) (l : Nat) (w : RegWrite) : (x.push l w).units = x.units := rfl
@[simp] theorem Ctx.push_pc (x : Ctx) (l : Nat) (w : RegWrite) : (x.push l w).pc = x.pc := rfl
@[simp] theorem Ctx.push_count (x : Ctx) (l : Nat) (w : RegWrite) : (x.push l w).count = x.count := rfl
@[simp] theorem Ctx.push_bundle (x : Ctx) (l : Nat) (w : RegWrite) : (x.push l w).bundle = x.bundle := rfl
@[simp] theorem Ctx.push_frame (x : Ctx) (l : Nat) (w : RegWrite) : (x.push l w).frame = x.frame := rfl
@[simp] theorem Ctx.push_eframe (x : Ctx) (l : Nat) (w : RegWrite) : (x.push l w).eframe = x.eframe := rfl
@[simp] theorem Ctx.push_deferred (x : Ctx) (l : Nat) (w : RegWrite) : (x.push l w).deferred = x.deferred := rfl
@[simp] theorem Ctx.push_windows (x : Ctx) (l : Nat) (w : RegWrite) : (x.push l w).windows = x.windows := rfl
@[simp] theorem Ctx.push_buf (x : Ctx) (l : Nat) (w : RegWrite) : (x.push l w).buf = x.buf := rfl
@[simp] theorem Ctx.push_phases (x : Ctx) (l : Nat) (w : RegWrite) : (x.push l w).phases = x.phases := rfl
@[simp] theorem Ctx.push_comm (x : Ctx) (l : Nat) (w : RegWrite) : (x.push l w).comm = x.comm := rfl
@[simp] theorem Ctx.push_leg (x : Ctx) (l : Nat) (w : RegWrite) : (x.push l w).leg = x.leg := rfl
@[simp] theorem Ctx.push_fires (x : Ctx) (l : Nat) (w : RegWrite) : (x.push l w).fires = x.fires := rfl
@[simp] theorem Ctx.push_absent (x : Ctx) (l : Nat) (w : RegWrite) : (x.push l w).absent = x.absent := rfl
@[simp] theorem Ctx.push_dirty (x : Ctx) (l : Nat) (w : RegWrite) : (x.push l w).dirty = x.dirty := rfl
@[simp] theorem Ctx.push_peerBuf (x : Ctx) (l : Nat) (w : RegWrite) : (x.push l w).peerBuf = x.peerBuf := rfl
@[simp] theorem Ctx.push_peerBad (x : Ctx) (l : Nat) (w : RegWrite) : (x.push l w).peerBad = x.peerBad := rfl
@[simp] theorem Ctx.push_rqAhead (x : Ctx) (l : Nat) (w : RegWrite) : (x.push l w).rqAhead = x.rqAhead := rfl
@[simp] theorem Ctx.push_trapped (x : Ctx) (l : Nat) (w : RegWrite) : (x.push l w).trapped = x.trapped := rfl
@[simp] theorem Ctx.push_opened (x : Ctx) (l : Nat) (w : RegWrite) : (x.push l w).opened = x.opened := rfl
@[simp] theorem Ctx.push_stalled (x : Ctx) (l : Nat) (w : RegWrite) : (x.push l w).stalled = x.stalled := rfl
@[simp] theorem Ctx.push_parkedRoutine (x : Ctx) (l : Nat) (w : RegWrite) : (x.push l w).parkedRoutine = x.parkedRoutine := rfl
@[simp] theorem Ctx.push_parked (x : Ctx) (l : Nat) (w : RegWrite) : (x.push l w).parked = x.parked := rfl

@[simp] theorem Ctx.push_pend (x : Ctx) (l : Nat) (w : RegWrite) :
    (x.push l w).pend = x.pend ++ [{ due := x.count + l, dest := w }] := rfl

/-- A scalar field writes at most one pending write (R21). -/
theorem Ctx.putS_cases (x : Ctx) (lt : Latch) (d : BitVec 5) (l : Nat) (v : DWord) :
    (d = 0 ∧ x.putS lt d l v = x) ∨ ∃ w, x.putS lt d l v = x.push l w := by
  unfold Ctx.putS
  split
  · exact .inl ⟨‹_›, rfl⟩
  · split <;> exact .inr ⟨_, rfl⟩

theorem Ctx.putP_cases (x : Ctx) (d : BitVec 5) (l : Nat) (b : Bool) :
    x.putP d l b = x ∨ ∃ w, x.putP d l b = x.push l w := by
  unfold Ctx.putP
  split
  · exact .inl rfl
  · split <;> exact .inr ⟨_, rfl⟩

theorem Ctx.putM_cases (x : Ctx) (d : BitVec 5) (l : Nat) (sel v : Mask) :
    x.putM d l sel v = x ∨ ∃ w, x.putM d l sel v = x.push l w := by
  unfold Ctx.putM
  split
  · exact .inl rfl
  · exact .inr ⟨_, rfl⟩

@[simp] theorem Ctx.putS_task (x : Ctx) (lt : Latch) (d : BitVec 5) (l : Nat) (v : DWord) :
    (x.putS lt d l v).task = x.task := by
  unfold Ctx.putS; (repeat' split) <;> rfl
@[simp] theorem Ctx.putS_run (x : Ctx) (lt : Latch) (d : BitVec 5) (l : Nat) (v : DWord) :
    (x.putS lt d l v).run = x.run := by
  unfold Ctx.putS; (repeat' split) <;> rfl
@[simp] theorem Ctx.putS_regs (x : Ctx) (lt : Latch) (d : BitVec 5) (l : Nat) (v : DWord) :
    (x.putS lt d l v).regs = x.regs := by
  unfold Ctx.putS; (repeat' split) <;> rfl
@[simp] theorem Ctx.putS_ctl (x : Ctx) (lt : Latch) (d : BitVec 5) (l : Nat) (v : DWord) :
    (x.putS lt d l v).ctl = x.ctl := by
  unfold Ctx.putS; (repeat' split) <;> rfl
@[simp] theorem Ctx.putS_cnt (x : Ctx) (lt : Latch) (d : BitVec 5) (l : Nat) (v : DWord) :
    (x.putS lt d l v).cnt = x.cnt := by
  unfold Ctx.putS; (repeat' split) <;> rfl
@[simp] theorem Ctx.putS_loops (x : Ctx) (lt : Latch) (d : BitVec 5) (l : Nat) (v : DWord) :
    (x.putS lt d l v).loops = x.loops := by
  unfold Ctx.putS; (repeat' split) <;> rfl
@[simp] theorem Ctx.putS_units (x : Ctx) (lt : Latch) (d : BitVec 5) (l : Nat) (v : DWord) :
    (x.putS lt d l v).units = x.units := by
  unfold Ctx.putS; (repeat' split) <;> rfl
@[simp] theorem Ctx.putS_pc (x : Ctx) (lt : Latch) (d : BitVec 5) (l : Nat) (v : DWord) :
    (x.putS lt d l v).pc = x.pc := by
  unfold Ctx.putS; (repeat' split) <;> rfl
@[simp] theorem Ctx.putS_count (x : Ctx) (lt : Latch) (d : BitVec 5) (l : Nat) (v : DWord) :
    (x.putS lt d l v).count = x.count := by
  unfold Ctx.putS; (repeat' split) <;> rfl
@[simp] theorem Ctx.putS_bundle (x : Ctx) (lt : Latch) (d : BitVec 5) (l : Nat) (v : DWord) :
    (x.putS lt d l v).bundle = x.bundle := by
  unfold Ctx.putS; (repeat' split) <;> rfl
@[simp] theorem Ctx.putS_frame (x : Ctx) (lt : Latch) (d : BitVec 5) (l : Nat) (v : DWord) :
    (x.putS lt d l v).frame = x.frame := by
  unfold Ctx.putS; (repeat' split) <;> rfl
@[simp] theorem Ctx.putS_eframe (x : Ctx) (lt : Latch) (d : BitVec 5) (l : Nat) (v : DWord) :
    (x.putS lt d l v).eframe = x.eframe := by
  unfold Ctx.putS; (repeat' split) <;> rfl
@[simp] theorem Ctx.putS_deferred (x : Ctx) (lt : Latch) (d : BitVec 5) (l : Nat) (v : DWord) :
    (x.putS lt d l v).deferred = x.deferred := by
  unfold Ctx.putS; (repeat' split) <;> rfl
@[simp] theorem Ctx.putS_windows (x : Ctx) (lt : Latch) (d : BitVec 5) (l : Nat) (v : DWord) :
    (x.putS lt d l v).windows = x.windows := by
  unfold Ctx.putS; (repeat' split) <;> rfl
@[simp] theorem Ctx.putS_buf (x : Ctx) (lt : Latch) (d : BitVec 5) (l : Nat) (v : DWord) :
    (x.putS lt d l v).buf = x.buf := by
  unfold Ctx.putS; (repeat' split) <;> rfl
@[simp] theorem Ctx.putS_phases (x : Ctx) (lt : Latch) (d : BitVec 5) (l : Nat) (v : DWord) :
    (x.putS lt d l v).phases = x.phases := by
  unfold Ctx.putS; (repeat' split) <;> rfl
@[simp] theorem Ctx.putS_comm (x : Ctx) (lt : Latch) (d : BitVec 5) (l : Nat) (v : DWord) :
    (x.putS lt d l v).comm = x.comm := by
  unfold Ctx.putS; (repeat' split) <;> rfl
@[simp] theorem Ctx.putS_leg (x : Ctx) (lt : Latch) (d : BitVec 5) (l : Nat) (v : DWord) :
    (x.putS lt d l v).leg = x.leg := by
  unfold Ctx.putS; (repeat' split) <;> rfl
@[simp] theorem Ctx.putS_fires (x : Ctx) (lt : Latch) (d : BitVec 5) (l : Nat) (v : DWord) :
    (x.putS lt d l v).fires = x.fires := by
  unfold Ctx.putS; (repeat' split) <;> rfl
@[simp] theorem Ctx.putS_absent (x : Ctx) (lt : Latch) (d : BitVec 5) (l : Nat) (v : DWord) :
    (x.putS lt d l v).absent = x.absent := by
  unfold Ctx.putS; (repeat' split) <;> rfl
@[simp] theorem Ctx.putS_dirty (x : Ctx) (lt : Latch) (d : BitVec 5) (l : Nat) (v : DWord) :
    (x.putS lt d l v).dirty = x.dirty := by
  unfold Ctx.putS; (repeat' split) <;> rfl
@[simp] theorem Ctx.putS_peerBuf (x : Ctx) (lt : Latch) (d : BitVec 5) (l : Nat) (v : DWord) :
    (x.putS lt d l v).peerBuf = x.peerBuf := by
  unfold Ctx.putS; (repeat' split) <;> rfl
@[simp] theorem Ctx.putS_peerBad (x : Ctx) (lt : Latch) (d : BitVec 5) (l : Nat) (v : DWord) :
    (x.putS lt d l v).peerBad = x.peerBad := by
  unfold Ctx.putS; (repeat' split) <;> rfl
@[simp] theorem Ctx.putS_rqAhead (x : Ctx) (lt : Latch) (d : BitVec 5) (l : Nat) (v : DWord) :
    (x.putS lt d l v).rqAhead = x.rqAhead := by
  unfold Ctx.putS; (repeat' split) <;> rfl
@[simp] theorem Ctx.putS_trapped (x : Ctx) (lt : Latch) (d : BitVec 5) (l : Nat) (v : DWord) :
    (x.putS lt d l v).trapped = x.trapped := by
  unfold Ctx.putS; (repeat' split) <;> rfl
@[simp] theorem Ctx.putS_opened (x : Ctx) (lt : Latch) (d : BitVec 5) (l : Nat) (v : DWord) :
    (x.putS lt d l v).opened = x.opened := by
  unfold Ctx.putS; (repeat' split) <;> rfl
@[simp] theorem Ctx.putS_stalled (x : Ctx) (lt : Latch) (d : BitVec 5) (l : Nat) (v : DWord) :
    (x.putS lt d l v).stalled = x.stalled := by
  unfold Ctx.putS; (repeat' split) <;> rfl
@[simp] theorem Ctx.putS_parkedRoutine (x : Ctx) (lt : Latch) (d : BitVec 5) (l : Nat) (v : DWord) :
    (x.putS lt d l v).parkedRoutine = x.parkedRoutine := by
  unfold Ctx.putS; (repeat' split) <;> rfl
@[simp] theorem Ctx.putS_parked (x : Ctx) (lt : Latch) (d : BitVec 5) (l : Nat) (v : DWord) :
    (x.putS lt d l v).parked = x.parked := by
  unfold Ctx.putS; (repeat' split) <;> rfl

@[simp] theorem Ctx.putP_task (x : Ctx) (d : BitVec 5) (l : Nat) (b : Bool) :
    (x.putP d l b).task = x.task := by
  unfold Ctx.putP; (repeat' split) <;> rfl
@[simp] theorem Ctx.putP_run (x : Ctx) (d : BitVec 5) (l : Nat) (b : Bool) :
    (x.putP d l b).run = x.run := by
  unfold Ctx.putP; (repeat' split) <;> rfl
@[simp] theorem Ctx.putP_regs (x : Ctx) (d : BitVec 5) (l : Nat) (b : Bool) :
    (x.putP d l b).regs = x.regs := by
  unfold Ctx.putP; (repeat' split) <;> rfl
@[simp] theorem Ctx.putP_ctl (x : Ctx) (d : BitVec 5) (l : Nat) (b : Bool) :
    (x.putP d l b).ctl = x.ctl := by
  unfold Ctx.putP; (repeat' split) <;> rfl
@[simp] theorem Ctx.putP_cnt (x : Ctx) (d : BitVec 5) (l : Nat) (b : Bool) :
    (x.putP d l b).cnt = x.cnt := by
  unfold Ctx.putP; (repeat' split) <;> rfl
@[simp] theorem Ctx.putP_loops (x : Ctx) (d : BitVec 5) (l : Nat) (b : Bool) :
    (x.putP d l b).loops = x.loops := by
  unfold Ctx.putP; (repeat' split) <;> rfl
@[simp] theorem Ctx.putP_units (x : Ctx) (d : BitVec 5) (l : Nat) (b : Bool) :
    (x.putP d l b).units = x.units := by
  unfold Ctx.putP; (repeat' split) <;> rfl
@[simp] theorem Ctx.putP_pc (x : Ctx) (d : BitVec 5) (l : Nat) (b : Bool) :
    (x.putP d l b).pc = x.pc := by
  unfold Ctx.putP; (repeat' split) <;> rfl
@[simp] theorem Ctx.putP_count (x : Ctx) (d : BitVec 5) (l : Nat) (b : Bool) :
    (x.putP d l b).count = x.count := by
  unfold Ctx.putP; (repeat' split) <;> rfl
@[simp] theorem Ctx.putP_bundle (x : Ctx) (d : BitVec 5) (l : Nat) (b : Bool) :
    (x.putP d l b).bundle = x.bundle := by
  unfold Ctx.putP; (repeat' split) <;> rfl
@[simp] theorem Ctx.putP_frame (x : Ctx) (d : BitVec 5) (l : Nat) (b : Bool) :
    (x.putP d l b).frame = x.frame := by
  unfold Ctx.putP; (repeat' split) <;> rfl
@[simp] theorem Ctx.putP_eframe (x : Ctx) (d : BitVec 5) (l : Nat) (b : Bool) :
    (x.putP d l b).eframe = x.eframe := by
  unfold Ctx.putP; (repeat' split) <;> rfl
@[simp] theorem Ctx.putP_deferred (x : Ctx) (d : BitVec 5) (l : Nat) (b : Bool) :
    (x.putP d l b).deferred = x.deferred := by
  unfold Ctx.putP; (repeat' split) <;> rfl
@[simp] theorem Ctx.putP_windows (x : Ctx) (d : BitVec 5) (l : Nat) (b : Bool) :
    (x.putP d l b).windows = x.windows := by
  unfold Ctx.putP; (repeat' split) <;> rfl
@[simp] theorem Ctx.putP_buf (x : Ctx) (d : BitVec 5) (l : Nat) (b : Bool) :
    (x.putP d l b).buf = x.buf := by
  unfold Ctx.putP; (repeat' split) <;> rfl
@[simp] theorem Ctx.putP_phases (x : Ctx) (d : BitVec 5) (l : Nat) (b : Bool) :
    (x.putP d l b).phases = x.phases := by
  unfold Ctx.putP; (repeat' split) <;> rfl
@[simp] theorem Ctx.putP_comm (x : Ctx) (d : BitVec 5) (l : Nat) (b : Bool) :
    (x.putP d l b).comm = x.comm := by
  unfold Ctx.putP; (repeat' split) <;> rfl
@[simp] theorem Ctx.putP_leg (x : Ctx) (d : BitVec 5) (l : Nat) (b : Bool) :
    (x.putP d l b).leg = x.leg := by
  unfold Ctx.putP; (repeat' split) <;> rfl
@[simp] theorem Ctx.putP_fires (x : Ctx) (d : BitVec 5) (l : Nat) (b : Bool) :
    (x.putP d l b).fires = x.fires := by
  unfold Ctx.putP; (repeat' split) <;> rfl
@[simp] theorem Ctx.putP_absent (x : Ctx) (d : BitVec 5) (l : Nat) (b : Bool) :
    (x.putP d l b).absent = x.absent := by
  unfold Ctx.putP; (repeat' split) <;> rfl
@[simp] theorem Ctx.putP_dirty (x : Ctx) (d : BitVec 5) (l : Nat) (b : Bool) :
    (x.putP d l b).dirty = x.dirty := by
  unfold Ctx.putP; (repeat' split) <;> rfl
@[simp] theorem Ctx.putP_peerBuf (x : Ctx) (d : BitVec 5) (l : Nat) (b : Bool) :
    (x.putP d l b).peerBuf = x.peerBuf := by
  unfold Ctx.putP; (repeat' split) <;> rfl
@[simp] theorem Ctx.putP_peerBad (x : Ctx) (d : BitVec 5) (l : Nat) (b : Bool) :
    (x.putP d l b).peerBad = x.peerBad := by
  unfold Ctx.putP; (repeat' split) <;> rfl
@[simp] theorem Ctx.putP_rqAhead (x : Ctx) (d : BitVec 5) (l : Nat) (b : Bool) :
    (x.putP d l b).rqAhead = x.rqAhead := by
  unfold Ctx.putP; (repeat' split) <;> rfl
@[simp] theorem Ctx.putP_trapped (x : Ctx) (d : BitVec 5) (l : Nat) (b : Bool) :
    (x.putP d l b).trapped = x.trapped := by
  unfold Ctx.putP; (repeat' split) <;> rfl
@[simp] theorem Ctx.putP_opened (x : Ctx) (d : BitVec 5) (l : Nat) (b : Bool) :
    (x.putP d l b).opened = x.opened := by
  unfold Ctx.putP; (repeat' split) <;> rfl
@[simp] theorem Ctx.putP_stalled (x : Ctx) (d : BitVec 5) (l : Nat) (b : Bool) :
    (x.putP d l b).stalled = x.stalled := by
  unfold Ctx.putP; (repeat' split) <;> rfl
@[simp] theorem Ctx.putP_parkedRoutine (x : Ctx) (d : BitVec 5) (l : Nat) (b : Bool) :
    (x.putP d l b).parkedRoutine = x.parkedRoutine := by
  unfold Ctx.putP; (repeat' split) <;> rfl
@[simp] theorem Ctx.putP_parked (x : Ctx) (d : BitVec 5) (l : Nat) (b : Bool) :
    (x.putP d l b).parked = x.parked := by
  unfold Ctx.putP; (repeat' split) <;> rfl

@[simp] theorem Ctx.putM_task (x : Ctx) (d : BitVec 5) (l : Nat) (sel v : Mask) :
    (x.putM d l sel v).task = x.task := by
  unfold Ctx.putM; (repeat' split) <;> rfl
@[simp] theorem Ctx.putM_run (x : Ctx) (d : BitVec 5) (l : Nat) (sel v : Mask) :
    (x.putM d l sel v).run = x.run := by
  unfold Ctx.putM; (repeat' split) <;> rfl
@[simp] theorem Ctx.putM_regs (x : Ctx) (d : BitVec 5) (l : Nat) (sel v : Mask) :
    (x.putM d l sel v).regs = x.regs := by
  unfold Ctx.putM; (repeat' split) <;> rfl
@[simp] theorem Ctx.putM_ctl (x : Ctx) (d : BitVec 5) (l : Nat) (sel v : Mask) :
    (x.putM d l sel v).ctl = x.ctl := by
  unfold Ctx.putM; (repeat' split) <;> rfl
@[simp] theorem Ctx.putM_cnt (x : Ctx) (d : BitVec 5) (l : Nat) (sel v : Mask) :
    (x.putM d l sel v).cnt = x.cnt := by
  unfold Ctx.putM; (repeat' split) <;> rfl
@[simp] theorem Ctx.putM_loops (x : Ctx) (d : BitVec 5) (l : Nat) (sel v : Mask) :
    (x.putM d l sel v).loops = x.loops := by
  unfold Ctx.putM; (repeat' split) <;> rfl
@[simp] theorem Ctx.putM_units (x : Ctx) (d : BitVec 5) (l : Nat) (sel v : Mask) :
    (x.putM d l sel v).units = x.units := by
  unfold Ctx.putM; (repeat' split) <;> rfl
@[simp] theorem Ctx.putM_pc (x : Ctx) (d : BitVec 5) (l : Nat) (sel v : Mask) :
    (x.putM d l sel v).pc = x.pc := by
  unfold Ctx.putM; (repeat' split) <;> rfl
@[simp] theorem Ctx.putM_count (x : Ctx) (d : BitVec 5) (l : Nat) (sel v : Mask) :
    (x.putM d l sel v).count = x.count := by
  unfold Ctx.putM; (repeat' split) <;> rfl
@[simp] theorem Ctx.putM_bundle (x : Ctx) (d : BitVec 5) (l : Nat) (sel v : Mask) :
    (x.putM d l sel v).bundle = x.bundle := by
  unfold Ctx.putM; (repeat' split) <;> rfl
@[simp] theorem Ctx.putM_frame (x : Ctx) (d : BitVec 5) (l : Nat) (sel v : Mask) :
    (x.putM d l sel v).frame = x.frame := by
  unfold Ctx.putM; (repeat' split) <;> rfl
@[simp] theorem Ctx.putM_eframe (x : Ctx) (d : BitVec 5) (l : Nat) (sel v : Mask) :
    (x.putM d l sel v).eframe = x.eframe := by
  unfold Ctx.putM; (repeat' split) <;> rfl
@[simp] theorem Ctx.putM_deferred (x : Ctx) (d : BitVec 5) (l : Nat) (sel v : Mask) :
    (x.putM d l sel v).deferred = x.deferred := by
  unfold Ctx.putM; (repeat' split) <;> rfl
@[simp] theorem Ctx.putM_windows (x : Ctx) (d : BitVec 5) (l : Nat) (sel v : Mask) :
    (x.putM d l sel v).windows = x.windows := by
  unfold Ctx.putM; (repeat' split) <;> rfl
@[simp] theorem Ctx.putM_buf (x : Ctx) (d : BitVec 5) (l : Nat) (sel v : Mask) :
    (x.putM d l sel v).buf = x.buf := by
  unfold Ctx.putM; (repeat' split) <;> rfl
@[simp] theorem Ctx.putM_phases (x : Ctx) (d : BitVec 5) (l : Nat) (sel v : Mask) :
    (x.putM d l sel v).phases = x.phases := by
  unfold Ctx.putM; (repeat' split) <;> rfl
@[simp] theorem Ctx.putM_comm (x : Ctx) (d : BitVec 5) (l : Nat) (sel v : Mask) :
    (x.putM d l sel v).comm = x.comm := by
  unfold Ctx.putM; (repeat' split) <;> rfl
@[simp] theorem Ctx.putM_leg (x : Ctx) (d : BitVec 5) (l : Nat) (sel v : Mask) :
    (x.putM d l sel v).leg = x.leg := by
  unfold Ctx.putM; (repeat' split) <;> rfl
@[simp] theorem Ctx.putM_fires (x : Ctx) (d : BitVec 5) (l : Nat) (sel v : Mask) :
    (x.putM d l sel v).fires = x.fires := by
  unfold Ctx.putM; (repeat' split) <;> rfl
@[simp] theorem Ctx.putM_absent (x : Ctx) (d : BitVec 5) (l : Nat) (sel v : Mask) :
    (x.putM d l sel v).absent = x.absent := by
  unfold Ctx.putM; (repeat' split) <;> rfl
@[simp] theorem Ctx.putM_dirty (x : Ctx) (d : BitVec 5) (l : Nat) (sel v : Mask) :
    (x.putM d l sel v).dirty = x.dirty := by
  unfold Ctx.putM; (repeat' split) <;> rfl
@[simp] theorem Ctx.putM_peerBuf (x : Ctx) (d : BitVec 5) (l : Nat) (sel v : Mask) :
    (x.putM d l sel v).peerBuf = x.peerBuf := by
  unfold Ctx.putM; (repeat' split) <;> rfl
@[simp] theorem Ctx.putM_peerBad (x : Ctx) (d : BitVec 5) (l : Nat) (sel v : Mask) :
    (x.putM d l sel v).peerBad = x.peerBad := by
  unfold Ctx.putM; (repeat' split) <;> rfl
@[simp] theorem Ctx.putM_rqAhead (x : Ctx) (d : BitVec 5) (l : Nat) (sel v : Mask) :
    (x.putM d l sel v).rqAhead = x.rqAhead := by
  unfold Ctx.putM; (repeat' split) <;> rfl
@[simp] theorem Ctx.putM_trapped (x : Ctx) (d : BitVec 5) (l : Nat) (sel v : Mask) :
    (x.putM d l sel v).trapped = x.trapped := by
  unfold Ctx.putM; (repeat' split) <;> rfl
@[simp] theorem Ctx.putM_opened (x : Ctx) (d : BitVec 5) (l : Nat) (sel v : Mask) :
    (x.putM d l sel v).opened = x.opened := by
  unfold Ctx.putM; (repeat' split) <;> rfl
@[simp] theorem Ctx.putM_stalled (x : Ctx) (d : BitVec 5) (l : Nat) (sel v : Mask) :
    (x.putM d l sel v).stalled = x.stalled := by
  unfold Ctx.putM; (repeat' split) <;> rfl
@[simp] theorem Ctx.putM_parkedRoutine (x : Ctx) (d : BitVec 5) (l : Nat) (sel v : Mask) :
    (x.putM d l sel v).parkedRoutine = x.parkedRoutine := by
  unfold Ctx.putM; (repeat' split) <;> rfl
@[simp] theorem Ctx.putM_parked (x : Ctx) (d : BitVec 5) (l : Nat) (sel v : Mask) :
    (x.putM d l sel v).parked = x.parked := by
  unfold Ctx.putM; (repeat' split) <;> rfl

end Sys2Proof.Machine
end

