-- ==== Sys2Proof/Laws/Cores.lean ====
section
/-! SUPPORT. What memory operations leave of the cores: nothing of a context but the data of its landings and the lines of
its windows, nothing of a core but L1, its logical time and the places of its queued accesses (R327, R328, R335). -/

namespace Sys2Proof.Machine

/-! ### Pending writes and contexts -/

theorem RegWrite.rest_patch (w : RegWrite) (l : Landing) (off : Nat) (bs : List Byte) : (w.patch l off bs).rest = w.rest := by
  cases w <;> rfl

theorem Ctx.mapPend_rest {x : Ctx} {g : PWrite → PWrite} (h : ∀ w, (g w).rest = w.rest) : (x.mapPend g).rest = x.rest := by
  have hm : ∀ l : List PWrite, (l.map g).map PWrite.rest = l.map PWrite.rest := fun l => by simp [h]
  cases hf : x.frame <;> cases he : x.eframe <;> simp [Ctx.rest, Ctx.mapPend, hf, he, hm]

/-- A landing changed in its status, and its destination in its value, is the same landing. -/
theorem Ctx.modLanding_rest {x : Ctx} {id : Nat} {g : Landing → RegWrite → Landing × RegWrite}
    (h : ∀ l d, { (g l d).1 with status := .waiting } = { l with status := .waiting } ∧ (g l d).2.rest = d.rest) :
    (x.modLanding id g).rest = x.rest := by
  refine Ctx.mapPend_rest fun w => ?_
  cases hw : w.landing with
  | none => simp
  | some l =>
    by_cases hi : l.id = id
    · obtain ⟨h1, h2⟩ := h l w.dest
      simp [hi, PWrite.rest, hw, h1, h2]
    · simp [hi]

@[simp] theorem Ctx.rest_windows (x : Ctx) (ws : SMap Window) : ({ x with windows := ws } : Ctx).rest = x.rest := rfl

theorem Ctx.rest_task (x : Ctx) : x.rest.task = x.task := rfl

/-! ### Cores -/

theorem tget_map {α β : Type} (g : α → β) (m : SMap α) (k : Nat) :
    tget (m.map fun e => (e.1, g e.2)) k = (tget m k).map g := by
  induction m with
  | nil => rfl
  | cons e m ih =>
    obtain ⟨j, a⟩ := e
    simp only [List.map_cons, tget]
    split
    · rfl
    · exact ih

/-- A context of two cores that are the same but for memory accesses. -/
theorem Core.ctx_of_rest {k k' : Core} (h : k'.rest = k.rest) (c : Nat) :
    (tget k'.ctxs c).map Ctx.rest = (tget k.ctxs c).map Ctx.rest := by
  rw [← tget_map, ← tget_map]
  exact congrArg (fun k : Core => tget k.ctxs c) h

theorem Core.modTask_rest {k : Core} {uid : Nat} {g : Ctx → Ctx} (h : ∀ x, (g x).rest = x.rest) :
    (k.modTask uid g).rest = k.rest := by
  have hc : (k.modTask uid g).ctxs.map (fun e => (e.1, e.2.rest)) = k.ctxs.map fun e => (e.1, e.2.rest) := by
    simp only [Core.modTask, List.map_map]
    refine List.map_congr_left fun e _ => ?_
    simp only [Function.comp]
    split <;> simp [h]
  have hs : (k.modTask uid g).suspended.map (fun e => (e.1, { e.2 with ctx := e.2.ctx.rest }))
      = k.suspended.map fun e => (e.1, { e.2 with ctx := e.2.ctx.rest }) := by
    simp only [Core.modTask, List.map_map]
    refine List.map_congr_left fun e _ => ?_
    simp only [Function.comp]
    split <;> simp [h]
  simp only [Core.rest]
  rw [hc, hs]
  rfl

theorem Core.updateL1_rest (k : Core) (a t : Nat) (bs : List Byte) : (k.updateL1 a t bs).rest = k.rest := by
  unfold Core.updateL1
  split <;> rfl

theorem Core.updateL1_foldl_rest (t : Nat) (ps : List (Nat × List Byte)) (k : Core) :
    (ps.foldl (fun k p => k.updateL1 p.1 t p.2) k).rest = k.rest := by
  induction ps generalizing k with
  | nil => rfl
  | cons p ps ih => exact (ih _).trans (Core.updateL1_rest k p.1 t p.2)

/-! ### States -/

theorem SameCores.refl (s : State) : SameCores s s := fun _ => rfl

theorem SameCores.trans {s t u : State} (h : SameCores s t) (g : SameCores t u) : SameCores s u :=
  fun n => (g n).trans (h n)

theorem SameCores.of_cores {s t : State} (h : t.cores = s.cores) : SameCores s t := fun n => by
  simp only [State.core, h]

theorem SameCores.ctx {s t : State} (h : SameCores s t) (n c : Nat) :
    (t.ctx? n c).map Ctx.rest = (s.ctx? n c).map Ctx.rest := Core.ctx_of_rest (h n) c

/-- A context that is the same but for memory accesses. -/
theorem SameCores.some {s t : State} (h : SameCores s t) {n c : Nat} {x : Ctx} (hx : s.ctx? n c = some x) :
    ∃ y, t.ctx? n c = some y ∧ y.rest = x.rest := by
  have := h.ctx n c
  rw [hx] at this
  cases hy : t.ctx? n c with
  | none => simp [hy] at this
  | some y => exact ⟨y, rfl, by simpa [hy] using this⟩

/-- A core replaced by one that is the same but for memory accesses. -/
theorem State.setCore_same {s : State} {n : Nat} {k : Core} (h : k.rest = (s.core n).rest) :
    SameCores s (s.setCore n k) := fun m => by
  by_cases hm : m = n
  · subst hm; rw [State.core_setCore, h]
  · rw [State.core_setCore_ne s k hm]

theorem State.modCore_same {s : State} {n : Nat} {g : Core → Core} (h : ∀ k, (g k).rest = k.rest) :
    SameCores s (s.modCore n g) := State.setCore_same (h _)

/-- More steps after one that leaves the cores. -/
theorem SameCores.mem {s t : State} (h : SameCores s t) (m : Memory) : SameCores s { t with mem := m } :=
  h.trans (.of_cores rfl)

theorem SameCores.mod {s t : State} {n : Nat} (h : SameCores s t) {g : Core → Core}
    (hg : ∀ k, (g k).rest = k.rest) : SameCores s (t.modCore n g) := h.trans (State.modCore_same hg)

theorem SameCores.raise {s t : State} {n : Nat} (h : SameCores s t) (k : Nat) :
    SameCores s (t.raiseT n k) := h.mod fun _ => rfl

/-! ### Memory -/

theorem State.copyPage_cores (s : State) (p : Nat) : (s.copyPage p).cores = s.cores := by
  unfold State.copyPage
  split
  · rfl
  · split <;> rfl

theorem State.keepImage_cores (s : State) (x p : Nat) : (s.keepImage x p).cores = s.cores := by
  unfold State.keepImage
  dsimp only
  split
  · rfl
  · split <;> rfl

theorem State.beforeWrite_cores (s : State) (a : Nat) : (s.beforeWrite a).cores = s.cores := by
  unfold State.beforeWrite
  split
  · rfl
  · exact (State.keepImage_cores _ _ _).trans ((State.keepImage_cores _ _ _).trans (State.copyPage_cores s _))

theorem State.writeHome_cores (s : State) (a : Nat) (bs : List Byte) : (s.writeHome a bs).cores = s.cores :=
  State.beforeWrite_cores s a

theorem State.writeHome_foldl_cores (ps : List (Nat × List Byte)) (s : State) :
    (ps.foldl (fun s p => s.writeHome p.1 p.2) s).cores = s.cores := by
  induction ps generalizing s with
  | nil => rfl
  | cons p ps ih => exact (ih _).trans (State.writeHome_cores s p.1 p.2)

/-- A recall (R336) takes lines out of windows and nothing else from a core. -/
theorem State.recall_same (s : State) (l : Nat) : SameCores s (s.recall l) := by
  unfold State.recall
  split
  · exact .refl s
  · rename_i n _
    split
    · exact .of_cores rfl
    · rename_i x j w i hst
      have h1 : SameCores s (s.writeHome (64 * l) (readBytes (s.core n).spad (w.spad x i) 64)) :=
        .of_cores (State.writeHome_cores _ _ _)
      refine h1.trans (SameCores.trans (State.setCore_same ?_) (.of_cores rfl))
      exact Core.modTask_rest fun _ => rfl

/-- A line reached (R336, log 53): its owner recalled, and room for it in its slice. -/
theorem State.reach_same (s : State) (l : Nat) : SameCores s (s.reach l) := (State.recall_same s l).mem _

theorem Core.keepL1_rest (k : Core) (clock l : Nat) (c : L1Line) : (k.keepL1 clock l c).rest = k.rest := rfl

theorem State.loadLine_same {s : State} {n : Nat} (allocate : Bool) (l : Nat) :
    SameCores s (s.loadLine n allocate l).1 := by
  have key : ∀ miss : State × List Byte, SameCores s miss.1 → SameCores s (match tget (s.core n).l1 l with
      | some c => if c.w < (s.core n).t ∧ (s.core n).t ≤ c.e then (s, c.data) else miss
      | none => miss).1 := fun miss hm => by
    split
    · split
      · exact .refl s
      · exact hm
    · exact hm
  refine key _ (SameCores.raise (s := s) ?_ _)
  cases allocate
  · exact (State.reach_same s l).mem _
  · exact ((State.reach_same s l).mem _).mod fun k => Core.keepL1_rest k _ _ _

/-- The folds of memory operations. -/
theorem SameCores.foldl {α : Type} {f : State → α → State} (hf : ∀ s a, SameCores s (f s a)) :
    ∀ (l : List α) (s : State), SameCores s (l.foldl f s)
  | [], s => .refl s
  | a :: l, s => (hf s a).trans (SameCores.foldl hf l (f s a))

theorem SameCores.foldl_fst {α β : Type} {f : State × β → α → State × β} (hf : ∀ s a, SameCores s.1 (f s a).1) :
    ∀ (l : List α) (s : State × β), SameCores s.1 (l.foldl f s).1
  | [], s => .refl s.1
  | a :: l, s => (hf s a).trans (SameCores.foldl_fst hf l (f s a))

theorem State.loadMem_same {s : State} {n : Nat} (allocate : Bool) (a len : Nat) :
    SameCores s (s.loadMem n allocate a len).1 := by
  unfold State.loadMem
  refine SameCores.foldl_fst (fun r p => ?_) _ (s, [])
  exact State.loadLine_same (s := r.1) allocate (lineOf p.1)

theorem State.storeLine_same (s : State) (n t l : Nat) (ps : List (Nat × List Byte)) :
    SameCores s (s.storeLine n t l ps) := by
  have hw : SameCores s (ps.foldl (fun s p => s.writeHome p.1 p.2) s) := .of_cores (State.writeHome_foldl_cores _ _)
  exact (hw.mem _).mod fun k => Core.updateL1_foldl_rest _ ps k

theorem State.storePieces_same {s : State} {n : Nat} (l : Nat) (ps : List (Nat × List Byte)) :
    SameCores s (s.storePieces n l ps) :=
  ((State.reach_same s l).trans (State.storeLine_same _ _ _ _ _)).raise _

theorem State.storeAll_same {s : State} {n : Nat} (ps : List (Nat × List Byte)) :
    SameCores s (s.storeAll n ps) := by
  exact (SameCores.foldl (fun s (e : Nat × List (Nat × List Byte)) => State.storePieces_same (s := s) (n := n) e.1 e.2) _ s).mem _

theorem State.storeMem_same {s : State} {n : Nat} (a : Nat) (bs : List Byte) :
    SameCores s (s.storeMem n a bs) := State.storeAll_same _

/-! ### The line monitor -/

theorem State.remoteWriteLine_same (s : State) (a : Nat) (bs : List Byte) : SameCores s (s.remoteWriteLine a bs) :=
  ((State.reach_same s (lineOf a)).trans (.of_cores (State.writeHome_cores (s.reach (lineOf a)) a bs))).mem _

theorem State.remoteReadLine_same (s : State) (l : Nat) : SameCores s (s.remoteReadLine l).1 := (State.reach_same s l).mem _

theorem State.remoteWrite_same (s : State) (a : Nat) (bs : List Byte) : SameCores s (s.remoteWrite a bs) := by
  unfold State.remoteWrite
  induction cutLines a bs generalizing s with
  | nil => exact .refl s
  | cons p ps ih => exact (State.remoteWriteLine_same s p.1 p.2).trans (ih _)

theorem State.unitWrite_same (s : State) (a : Nat) (bs : List Byte) : SameCores s (s.unitWrite a bs) := by
  unfold State.unitWrite
  split
  · exact .refl s
  · exact State.remoteWrite_same s a bs

theorem State.acceptRecord_same (s : State) (q : Nat) (bs : List Byte) : SameCores s (s.acceptRecord q bs) := by
  unfold State.acceptRecord
  dsimp only
  by_cases h : ({ s.queue q with expected := (s.queue q).expected + 1, timer := none } : Queue).onChip < 16 ∧
      !({ s.queue q with expected := (s.queue q).expected + 1, timer := none } : Queue).hasHeld
  · rw [if_pos h]
    exact SameCores.trans (t := s.setQueue q _) (.of_cores rfl) (State.unitWrite_same _ _ _)
  · rw [if_neg h]
    exact .of_cores rfl

theorem State.monitor_same (fuel q : Nat) (s : State) : SameCores s (State.monitor fuel s q) := by
  induction fuel generalizing s with
  | zero => exact .refl s
  | succ fuel ih =>
    unfold State.monitor
    dsimp only
    repeat' split
    · exact .refl s
    · exact (State.acceptRecord_same s q _).trans (ih _)
    · exact .refl s
    · exact .of_cores rfl
    · exact .of_cores rfl

theorem State.monitorWrite_same (s : State) (a len : Nat) : SameCores s (s.monitorWrite a len) := by
  have hf : ∀ (l : List Nat) (s : State), SameCores s (l.foldl (fun s q =>
      if a < windowOf q + 32768 ∧ windowOf q < a + len then State.monitor (s.queue q).qsize s q else s) s) := by
    intro l
    induction l with
    | nil => exact fun s => .refl s
    | cons q l ih =>
      intro s
      refine SameCores.trans ?_ (ih _)
      dsimp only
      split
      · exact State.monitor_same _ _ _
      · exact .refl s
  unfold State.monitorWrite
  split
  · exact .refl s
  · exact hf _ _

theorem State.asyncWrites_same {s : State} {n : Nat} (ws : List (Nat × List Byte)) :
    SameCores s (s.asyncWrites n ws) := by
  have h := State.storeAll_same (s := s) (n := n) (ws.flatMap fun w => cutLines w.1 w.2)
  refine h.trans ?_
  unfold State.asyncWrites
  dsimp only
  exact SameCores.foldl (fun s (p : Nat × List Byte) => State.monitorWrite_same s p.1 p.2.length) _ _

/-! ### Places in the order -/

theorem State.placeNext_same {s : State} {n : Nat} : SameCores s (s.placeNext n) := by
  have hp : ∀ (t : State) (id : Nat), SameCores t (t.modCore n fun k => { k with
      outq := k.outq.map fun (b : Access) => if b.id = id then { b with placed := true } else b }) := fun t id =>
    State.modCore_same fun k => by
      have : (k.outq.map fun (b : Access) => if b.id = id then { b with placed := true } else b).map
          (fun a => ({ a with placed := false } : Access)) = k.outq.map fun a => { a with placed := false } := by
        rw [List.map_map]
        refine List.map_congr_left fun b _ => ?_
        simp only [Function.comp]
        split <;> rfl
      simp only [Core.rest, this]
  unfold State.placeNext
  split
  · exact .refl s
  · rename_i a _
    dsimp only
    cases a.amo with
    | none =>
      have h := State.asyncWrites_same (s := s) (n := n) a.pieces
      exact h.trans (hp _ _)
    | some m =>
      dsimp only
      have h := State.asyncWrites_same (s := s) (n := n)
        [((a.pieces.headD (0, [])).1, wordLe m.bytes (m.new (leWord 64 (s.peek (a.pieces.headD (0, [])).1 m.bytes))))]
      have h2 := h.trans (State.modCore_same (n := n) (g := fun k => k.modTask a.uid fun x => x.modLanding a.id fun l d =>
          (if (s.asyncWrites n [((a.pieces.headD (0, [])).1,
              wordLe m.bytes (m.new (leWord 64 (s.peek (a.pieces.headD (0, [])).1 m.bytes))))]).mem.isBad
                (a.pieces.headD (0, [])).1 m.bytes then { l with status := .uncorrectable } else l,
            d.patch l 0 (wordLe 8 (m.result (leWord 64 (s.peek (a.pieces.headD (0, [])).1 m.bytes))))))
        fun k => Core.modTask_rest fun x => Ctx.modLanding_rest fun l d => ⟨by split <;> rfl, RegWrite.rest_patch _ _ _ _⟩)
      exact h2.trans (hp _ _)

theorem State.placeAll_same {s : State} {n : Nat} : SameCores s (s.placeAll n) :=
  SameCores.foldl (fun _ _ => State.placeNext_same) _ s

/-- Stores of a core to a save area leave its contexts (R265, R274). -/
theorem State.saveStores_same {s : State} {n : Nat} (x : Ctx) (ws : List (Nat × List Byte)) :
    SameCores s (s.saveStores n x ws) :=
  (State.placeAll_same (s := s) (n := n)).trans (State.storeAll_same _)

/-! ### Translation -/

theorem State.beforeParts_same (s : State) (spans : List (Nat × Nat)) : SameCores s (s.beforeParts spans) := by
  unfold State.beforeParts
  exact (SameCores.foldl (fun s (e : Nat × HomeLine) => State.recall_same s e.1) _ s).trans
    (SameCores.foldl (fun s _ => SameCores.foldl (fun s _ => .of_cores (State.beforeWrite_cores s _)) _ s) _ _)

/-- Writing regions of a save area leaves the cores but for their accesses and logical time. -/
theorem State.saveRegions_same {s : State} {n : Nat} (x : Ctx) (rs : List Region) : SameCores s (s.saveRegions n x rs) := by
  unfold State.saveRegions
  exact ((State.placeAll_same.trans (State.beforeParts_same _ _)).mem _).raise _

theorem State.readEntry_same (s : State) (w : Walker) (a : Nat) : SameCores s (s.readEntry w a) := by
  cases w with
  | core n => exact ((State.reach_same s (lineOf a)).mem _).raise _
  | unit => exact State.remoteReadLine_same s _

theorem State.placeFor_same (s : State) (w : Walker) : SameCores s (s.placeFor w) := by
  cases w with
  | core n => exact State.placeAll_same
  | unit => exact .refl s

theorem State.readEntries_same (s : State) (w : Walker) (q va : Nat) : SameCores s (s.readEntries w q va) :=
  (State.placeFor_same s w).trans (SameCores.foldl (fun s a => State.readEntry_same s w a) _ _)

theorem State.fillTlb_same (s : State) (w : Walker) (q va : Nat) (x : Leaf) : SameCores s (s.fillTlb w q va x) := by
  unfold State.fillTlb
  dsimp only
  split
  · exact .refl s
  · exact SameCores.mem (.refl s) _

/-- A translation that is used leaves the cores but for logical time (R320, R322). -/
theorem State.useLeaf_same (s : State) (w : Walker) (q va : Nat) (x : Leaf) : SameCores s (s.useLeaf w q va x) := by
  unfold State.useLeaf
  split
  · exact State.fillTlb_same s w q va x
  · exact (State.readEntries_same s w q va).trans (State.fillTlb_same _ w q va x)

theorem State.byteAt_same {s t : State} {n : Nat} {x : Ctx} {kind : AccessKind} {a : Nat} {p : Place}
    (h : s.byteAt n x kind a = .ok (t, p)) : SameCores s t := by
  have hu := fun y => State.useLeaf_same s (.core n) x.task.queue a y
  unfold State.byteAt State.pageByte State.pagePlace State.apertureByte at h
  grind [SameCores.refl]

theorem State.runAt_same {s t : State} {n : Nat} {x : Ctx} {kind : AccessKind} {a len : Nat} {p : Place}
    (h : s.runAt n x kind a len = .ok (t, p)) : SameCores s t := by
  unfold State.runAt at h
  split at h
  · contradiction
  · rename_i hb
    split at h
    · contradiction
    · cases h; exact State.byteAt_same hb

theorem State.placesFrom_same {n : Nat} {x : Ctx} {kind : AccessKind} : ∀ {fuel : Nat} {s t : State} {a len : Nat}
    {ps : List (Place × Nat)}, State.placesFrom n x kind fuel s a len = .ok (t, ps) → SameCores s t
  | 0, s, t, _, _, _, h => by simp only [State.placesFrom, Except.ok.injEq, Prod.mk.injEq] at h; exact h.1 ▸ .refl s
  | fuel + 1, s, t, a, len, ps, h => by
    unfold State.placesFrom at h
    dsimp only at h
    split at h
    · simp only [Except.ok.injEq, Prod.mk.injEq] at h; exact h.1 ▸ .refl s
    · split at h
      · contradiction
      · rename_i hb
        split at h
        · contradiction
        · rename_i hp
          simp only [Except.ok.injEq, Prod.mk.injEq] at h
          exact h.1 ▸ (State.runAt_same hb).trans (State.placesFrom_same hp)

/-- Translating an access leaves the cores (R107, R322). -/
theorem State.places_same {s t : State} {n : Nat} {x : Ctx} {kind : AccessKind} {a : DWord} {len : Nat}
    {ps : List (Place × Nat)} (h : s.places n x kind a len = .ok (t, ps)) : SameCores s t := by
  unfold State.places at h
  split at h
  · contradiction
  · rename_i hp
    split at h
    · simp only [Except.ok.injEq, Prod.mk.injEq] at h; exact h.1 ▸ State.placesFrom_same hp
    · contradiction

end Sys2Proof.Machine
end

