-- ==== Sys2Proof/Laws/Encode.lean ====
section
/-! SUPPORT. The parts of an encoded word, and that decoding gives back what was encoded. -/

namespace Sys2Proof

open Machine

section Parts
variable (x : SlotWord) (cls : BitVec 3) (op : BitVec 7) (f : Fields)

theorem fieldsWord_stop : (fieldsWord x cls op f).getLsbD 31 = x.stop := by
  (simp only [fieldsWord, BitVec.getLsbD_append, BitVec.getLsbD_ofBool]; simp)

theorem fieldsWord_class : (fieldsWord x cls op f).extractLsb' 28 3 = cls := by
  apply BitVec.eq_of_getLsbD_eq
  intro i hi
  have : i = 0 ∨ i = 1 ∨ i = 2 := by omega
  rcases this with rfl | rfl | rfl <;> (simp only [fieldsWord, BitVec.getLsbD_append, BitVec.getLsbD_extractLsb', BitVec.getLsbD_ofBool]; simp)

theorem fieldsWord_op : (fieldsWord x cls op f).extractLsb' 21 7 = op := by
  apply BitVec.eq_of_getLsbD_eq
  intro i hi
  have : i = 0 ∨ i = 1 ∨ i = 2 ∨ i = 3 ∨ i = 4 ∨ i = 5 ∨ i = 6 := by omega
  rcases this with rfl | rfl | rfl | rfl | rfl | rfl | rfl <;> (simp only [fieldsWord, BitVec.getLsbD_append, BitVec.getLsbD_extractLsb', BitVec.getLsbD_ofBool]; simp)

theorem fieldsWord_neg : (fieldsWord x cls op f).getLsbD 20 = x.neg := by
  (simp only [fieldsWord, BitVec.getLsbD_append, BitVec.getLsbD_ofBool]; simp)

theorem fieldsWord_bank : (fieldsWord x cls op f).getLsbD 19 = x.bank := by
  (simp only [fieldsWord, BitVec.getLsbD_append, BitVec.getLsbD_ofBool]; simp)

theorem fieldsWord_gn : (fieldsWord x cls op f).extractLsb' 16 3 = x.gn := by
  apply BitVec.eq_of_getLsbD_eq
  intro i hi
  have : i = 0 ∨ i = 1 ∨ i = 2 := by omega
  rcases this with rfl | rfl | rfl <;> (simp only [fieldsWord, BitVec.getLsbD_append, BitVec.getLsbD_extractLsb', BitVec.getLsbD_ofBool]; simp)

theorem fieldsWord_d : (fieldsWord x cls op f).extractLsb' 11 5 = f.d := by
  apply BitVec.eq_of_getLsbD_eq
  intro i hi
  have : i = 0 ∨ i = 1 ∨ i = 2 ∨ i = 3 ∨ i = 4 := by omega
  rcases this with rfl | rfl | rfl | rfl | rfl <;> (simp only [fieldsWord, BitVec.getLsbD_append, BitVec.getLsbD_extractLsb', BitVec.getLsbD_ofBool]; simp)

theorem fieldsWord_a : (fieldsWord x cls op f).extractLsb' 6 5 = f.a := by
  apply BitVec.eq_of_getLsbD_eq
  intro i hi
  have : i = 0 ∨ i = 1 ∨ i = 2 ∨ i = 3 ∨ i = 4 := by omega
  rcases this with rfl | rfl | rfl | rfl | rfl <;> (simp only [fieldsWord, BitVec.getLsbD_append, BitVec.getLsbD_extractLsb', BitVec.getLsbD_ofBool]; simp)

theorem fieldsWord_b : (fieldsWord x cls op f).extractLsb' 1 5 = f.b := by
  apply BitVec.eq_of_getLsbD_eq
  intro i hi
  have : i = 0 ∨ i = 1 ∨ i = 2 ∨ i = 3 ∨ i = 4 := by omega
  rcases this with rfl | rfl | rfl | rfl | rfl <;> (simp only [fieldsWord, BitVec.getLsbD_append, BitVec.getLsbD_extractLsb', BitVec.getLsbD_ofBool]; simp)

theorem fieldsWord_md : (fieldsWord x cls op f).getLsbD 0 = f.md := by
  (simp only [fieldsWord, BitVec.getLsbD_append, BitVec.getLsbD_ofBool]; simp)

/-- The fields are read back (R18). -/
theorem wordFields_fieldsWord : wordFields f.ext (fieldsWord x cls op f) = f := by
  simp only [wordFields, fieldsWord_d, fieldsWord_a, fieldsWord_b, fieldsWord_md]

end Parts

theorem extWord_class (p : BitVec 28) : wordClass (extWord p) = 5 := by
  have h : (extWord p).extractLsb' 28 3 = 5#3 := by
    apply BitVec.eq_of_getLsbD_eq
    intro i hi
    have : i = 0 ∨ i = 1 ∨ i = 2 := by omega
    rcases this with rfl | rfl | rfl <;> (simp only [extWord, BitVec.getLsbD_append, BitVec.getLsbD_extractLsb']; simp)
  simp [wordClass, h]

theorem extWord_stop (p : BitVec 28) : wordStop (extWord p) = false := by
  simp only [wordStop, extWord, BitVec.getLsbD_append]; simp

theorem extWord_payload (p : BitVec 28) : wordPayload (extWord p) = p := by
  apply BitVec.eq_of_getLsbD_eq
  intro i hi
  simp only [wordPayload, extWord, BitVec.getLsbD_append, BitVec.getLsbD_extractLsb']; simp [hi]

/-- The instruction of a class and opcode (R34 to R38). -/
def classTable (cls op : Nat) (f : Fields) : Option Instr :=
  match cls with
  | 0 => sClass op f
  | 1 => vClass op f
  | 2 => xClass op f
  | 3 => mClass op f
  | 4 => tClass op f
  | _ => none

/-- A slot is decoded from its own words, where its row of the table stands at its class and opcode. -/
theorem decodeSlot_encode {x : SlotWord} {f : Fields} {o : OpInfo} (he : entry x.instr = some (f, o)) (hc : o.cls < 5)
    (ho : o.op < 128) (ht : classTable o.cls o.op f = some x.instr) (ws : List Word) :
    decodeSlot (encode x ++ ws) = .ok (x, ws) := by
  have hcls : wordClass (fieldsWord x (BitVec.ofNat 3 o.cls) (BitVec.ofNat 7 o.op) f) = o.cls := by
    rw [wordClass, fieldsWord_class, BitVec.toNat_ofNat]; omega
  have hop : wordOp (fieldsWord x (BitVec.ofNat 3 o.cls) (BitVec.ofNat 7 o.op) f) = o.op := by
    rw [wordOp, fieldsWord_op, BitVec.toNat_ofNat]; omega
  have hw : decodeWord f.ext (fieldsWord x (BitVec.ofNat 3 o.cls) (BitVec.ofNat 7 o.op) f) = .ok x := by
    have hi : decodeInstr f.ext (fieldsWord x (BitVec.ofNat 3 o.cls) (BitVec.ofNat 7 o.op) f) = .ok x.instr := by
      have h5 : o.cls = 0 ∨ o.cls = 1 ∨ o.cls = 2 ∨ o.cls = 3 ∨ o.cls = 4 := by omega
      unfold decodeInstr
      simp only [hcls, hop, wordFields_fieldsWord]
      rcases h5 with h | h | h | h | h <;> simp only [classTable, h] at ht <;> simp [h, ht, he]
    simp only [decodeWord, hi, fieldsWord_stop, fieldsWord_neg, fieldsWord_bank, fieldsWord_gn]
  unfold encode
  simp only [he]
  cases hx : f.ext with
  | none =>
    rw [hx] at hw
    have : ¬ wordClass (fieldsWord x (BitVec.ofNat 3 o.cls) (BitVec.ofNat 7 o.op) f) = 5 := by omega
    simp [decodeSlot, this, hw, Except.map]
  | some p =>
    rw [hx] at hw
    have : ¬ o.cls = 5 := by omega
    simp [decodeSlot, extWord_class, extWord_stop, extWord_payload, hcls, this, hw, Except.map]

/-- The modifier of a well-formed instruction is one that its row allows. -/
theorem wellFormed_md {i : Instr} {f : Fields} {o : OpInfo} (h : i.wellFormed = true) (he : entry i = some (f, o)) :
    mdOk o.md f.md = true := by
  simp only [Instr.wellFormed, fieldsOk, he, Bool.and_eq_true] at h
  exact h.1.1.1.1.1.1.1.1

/-- A well-formed `mtc` with a row of its own names that row's register. -/
theorem wellFormed_reg {i : Instr} {f : Fields} {o : OpInfo} {r : Nat} (h : i.wellFormed = true)
    (he : entry i = some (f, o)) (hr : mtcReg i = some r) : f.d.toNat = r := by
  simp only [Instr.wellFormed, fieldsOk, he, hr, Bool.and_eq_true, decide_eq_true_eq] at h
  exact h.1.1.1.2

theorem wellFormed_plain {f : Fields} (h : (Instr.mtc f).wellFormed = true) : mtcRow f = .mtc f := by
  simp only [Instr.wellFormed, plainMtc, Bool.and_eq_true] at h
  have h := h.2
  unfold mtcRow
  split <;> first | rfl | simp_all

end Sys2Proof
end

