-- ==== Sys2Proof/Laws/MemOk.lean ====
section
/-! SUPPORT. The canonical form of physical memory as a predicate of states, and what it says of each kind of result: every
state that the result holds has it. -/

namespace Sys2Proof.Machine

/-- Physical memory and the table of queues are in their canonical form (log 2). -/
def MemOk (s : State) : Prop := mwf 0 s.mem.bytes = true ∧ mwf {} s.queues = true

theorem memOk_iff (s : State) : MemOk s ↔ s.canonical := Iff.rfl

theorem reset_memOk : MemOk State.reset := ⟨rfl, rfl⟩

theorem memOk_foldl {α : Type} {f : State → α → State} (hf : ∀ s a, MemOk s → MemOk (f s a)) :
    ∀ (l : List α) (s : State), MemOk s → MemOk (l.foldl f s)
  | [], _, h => h
  | a :: l, s, h => memOk_foldl hf l (f s a) (hf s a h)

theorem memOk_foldl_fst {α β : Type} {f : State × β → α → State × β} (hf : ∀ r a, MemOk r.1 → MemOk (f r a).1) :
    ∀ (l : List α) (r : State × β), MemOk r.1 → MemOk (l.foldl f r).1
  | [], _, h => h
  | a :: l, r, h => memOk_foldl_fst hf l (f r a) (hf r a h)

theorem memOk_ite {p : Prop} [Decidable p] {s t : State} (h : MemOk s) (g : MemOk t) : MemOk (if p then s else t) := by
  split <;> assumption

theorem memOk_ite_fst {α : Type} {p : Prop} [Decidable p] {r q : State × α} (h : MemOk r.1) (g : MemOk q.1) :
    MemOk (if p then r else q).1 := by split <;> assumption

theorem foldl_ok {α β ε : Type} {P : β → Prop} {f : Except ε β → α → Except ε β}
    (hf : ∀ r a, (∀ q, r = .ok q → P q) → ∀ q, f r a = .ok q → P q) :
    ∀ (l : List α) (r : Except ε β), (∀ q, r = .ok q → P q) → ∀ q, l.foldl f r = .ok q → P q
  | [], _, h => h
  | a :: l, r, h => foldl_ok hf l (f r a) (hf r a h)

theorem foldl_mwf {α : Type} {f : SMap Byte → α → SMap Byte}
    (hf : ∀ m a, mwf 0 m = true → mwf 0 (f m a) = true) :
    ∀ (l : List α) (m : SMap Byte), mwf 0 m = true → mwf 0 (l.foldl f m) = true
  | [], _, h => h
  | a :: l, m, h => foldl_mwf hf l (f m a) (hf m a h)

theorem mwf_putBytes {m : SMap Byte} (h : mwf 0 m = true) (a : Nat) (data : SMap Byte) : mwf 0 (putBytes m a data) = true :=
  foldl_mwf (fun _ _ h => mwf_mset h _ _) data _ (mwf_mcut h a 65536)

theorem memOk_bytes {s : State} (h : MemOk s) (a : Nat) (bs : List Byte) :
    mwf 0 (writeBytes s.mem.bytes a bs) = true := mwf_writeBytes h.1 a bs

def SlotRes.memOk : SlotRes → Prop
  | .done s | .trapDone s _ _ | .trapSet s _ _ | .block _ s => MemOk s
  | .trap _ _ | .stall => True

def Begun.memOk : Begun → Prop
  | .bundle s _ | .trap s _ | .frozen s | .miss s _ => MemOk s

def Fetched.memOk : Fetched → Prop
  | .words s _ | .fail s _ | .wait s => MemOk s

def Prepared.memOk : Prepared → Prop
  | .run _ s | .done s => MemOk s

def Plan.memOk : Plan → Prop
  | .wait _ s | .op s _ _ _ _ | .fail s _ _ => MemOk s
  | _ => True

def RangesRes.memOk : RangesRes → Prop
  | .data s _ | .wait s | .trap s _ _ => MemOk s

def Latched.memOk : Latched → Prop
  | .pass s _ | .wait s | .trap s _ _ => MemOk s

def Opened.memOk : Opened → Prop
  | .done s | .wait s | .fail s _ _ => MemOk s

def ReadRes.memOk : ReadRes → Prop
  | .data s _ | .wait s | .trap s _ _ => MemOk s

def Tried.memOk : Tried → Prop
  | .some s => MemOk s
  | _ => True

def Req.memOk : Req → Prop
  | .deliver s _ | .block s | .answer s _ | .hold s _ _ | .trap s _ _ => MemOk s
  | _ => True

def WordRes.memOk : WordRes → Prop
  | .next s | .moved s | .failed s _ _ => MemOk s
  | _ => True

end Sys2Proof.Machine
end

