-- ==== Sys2Proof/Laws/MemoryOps.lean ====
section
/-! SUPPORT. Every operation keeps the canonical form of physical memory (log 2): physical memory, and the operations that every meaning shares. -/

namespace Sys2Proof.Machine

theorem State.setCore_memOk (s : State) (n : Nat) (k : Core) (oks : MemOk s) :
    MemOk (State.setCore s n k) := by
  unfold State.setCore
  grind [MemOk]

theorem State.setCtx_memOk (s : State) (n : Nat) (c : Nat) (a3 : Ctx) (oks : MemOk s) :
    MemOk (State.setCtx s n c a3) := by
  unfold State.setCtx
  grind [MemOk, State.setCore_memOk]

theorem State.modCtx_memOk (s : State) (n : Nat) (c : Nat) (g : Ctx → Ctx) (oks : MemOk s) :
    MemOk (State.modCtx s n c g) := by
  unfold State.modCtx
  grind [MemOk, State.setCtx_memOk]

theorem State.send_memOk (s : State) (m : Message) (oks : MemOk s) :
    MemOk (State.send s m) := by
  unfold State.send
  grind [MemOk]

theorem State.copyPage_memOk (s : State) (page : Nat) (oks : MemOk s) :
    MemOk (State.copyPage s page) := by
  unfold State.copyPage
  grind [MemOk, State.send_memOk]

theorem Memory.evict_bytes {m n : Memory} {l : Nat} (h : m.evict l = some n) : n.bytes = m.bytes := by
  unfold Memory.evict at h
  obtain ⟨x, _, h⟩ := Option.bind_eq_some_iff.mp h
  split at h
  · contradiction
  · cases h; rfl

/-- What keeps the bytes of a memory step by step keeps them. -/
theorem bytes_foldl {α : Type} {f : Memory → α → Memory} (hf : ∀ m a, (f m a).bytes = m.bytes) :
    ∀ (l : List α) (m : Memory), (l.foldl f m).bytes = m.bytes
  | [], _ => rfl
  | a :: l, m => (bytes_foldl hf l (f m a)).trans (hf m a)

/-- Evictions change no byte. -/
theorem Memory.evictOr_bytes (m : Memory) (l : Nat) : ((m.evict l).getD m).bytes = m.bytes := by
  cases h : m.evict l with
  | none => rfl
  | some n => exact Memory.evict_bytes h

theorem Memory.evictAll_bytes (l : List (Nat × HomeLine)) (m : Memory) :
    (l.foldl (fun m e => (m.evict e.1).getD m) m).bytes = m.bytes :=
  bytes_foldl (fun m (e : Nat × HomeLine) => Memory.evictOr_bytes m e.1) l m

/-- A slice that keeps to its size changes no byte. -/
@[simp] theorem Memory.fitSlice_bytes (m : Memory) (clock n : Nat) : (m.fitSlice clock n).bytes = m.bytes := by
  simp only [Memory.fitSlice, Memory.evictAll_bytes]

@[simp] theorem Memory.fit_bytes (m : Memory) (clock : Nat) : (m.fit clock).bytes = m.bytes := by
  simp only [Memory.fit]
  split
  · rfl
  · exact bytes_foldl (fun m n => Memory.fitSlice_bytes m clock n) _ m

/-- A block that is gone drops its bytes, and the others stay in the form. -/
theorem Memory.dropGone_mwf {m : Memory} (h : mwf 0 m.bytes = true) : mwf 0 m.dropGone.bytes = true := by
  unfold Memory.dropGone
  split
  · exact h
  · exact mwf_filter h _

@[simp] theorem Memory.unmark_bytes (m : Memory) (spans : List (Nat × Nat)) : (m.unmark spans).bytes = m.bytes := rfl

theorem Memory.putBlock_mwf {m : Memory} (h : mwf 0 m.bytes = true) (a : Nat) (data : SMap Byte) :
    mwf 0 (m.putBlock a data).bytes = true :=
  Memory.dropGone_mwf (m := { m with bytes := putBytes m.bytes a data }) (mwf_putBytes h a data)

theorem State.keepImage_memOk (s : State) (a1 : Nat) (page : Nat) (oks : MemOk s) :
    MemOk (State.keepImage s a1 page) := by
  unfold State.keepImage
  grind [MemOk, Memory.putBlock_mwf]

theorem State.beforeWrite_memOk (s : State) (a : Nat) (oks : MemOk s) :
    MemOk (State.beforeWrite s a) := by
  unfold State.beforeWrite
  grind [MemOk, State.copyPage_memOk, State.keepImage_memOk]

theorem State.writeHome_memOk (s : State) (a : Nat) (bs : List Byte) (oks : MemOk s) :
    MemOk (State.writeHome s a bs) := by
  unfold State.writeHome
  grind [MemOk, State.beforeWrite_memOk, memOk_foldl, memOk_foldl_fst, memOk_bytes, Memory.setLine]

theorem State.recall_memOk (s : State) (l : Nat) (oks : MemOk s) :
    MemOk (State.recall s l) := by
  unfold State.recall
  grind [MemOk, State.writeHome_memOk, State.setCore_memOk, memOk_foldl, memOk_foldl_fst, memOk_bytes, Memory.setLine]

/-- Room for a line changes no byte. -/
@[simp] theorem Memory.makeRoom_bytes (m : Memory) (clock l : Nat) : (m.makeRoom clock l).bytes = m.bytes := by
  unfold Memory.makeRoom
  dsimp only
  split
  · rfl
  · split
    · cases h : m.evict _ with
      | none => rfl
      | some n => exact Memory.evict_bytes h
    · rfl

theorem State.reach_memOk (s : State) (l : Nat) (oks : MemOk s) :
    MemOk (State.reach s l) := by
  unfold State.reach
  grind [MemOk, State.recall_memOk, Memory.makeRoom_bytes]

theorem State.remotePieces_memOk (s : State) (l : Nat) (ps : List (Nat × List Byte)) (oks : MemOk s) :
    MemOk (State.remotePieces s l ps) := by
  unfold State.remotePieces
  grind [MemOk, State.reach_memOk, State.writeHome_memOk, memOk_foldl, memOk_foldl_fst, memOk_bytes, Memory.setLine]

theorem State.remoteWriteLine_memOk (s : State) (a : Nat) (bs : List Byte) (oks : MemOk s) :
    MemOk (State.remoteWriteLine s a bs) := by
  unfold State.remoteWriteLine
  grind [MemOk, State.remotePieces_memOk]

theorem State.remoteWrite_memOk (s : State) (a : Nat) (bs : List Byte) (oks : MemOk s) :
    MemOk (State.remoteWrite s a bs) := by
  unfold State.remoteWrite
  grind [MemOk, State.remoteWriteLine_memOk, memOk_foldl, memOk_foldl_fst, memOk_bytes, Memory.setLine]

theorem State.setQueue_memOk (s : State) (q : Nat) (a2 : Queue) (oks : MemOk s) :
    MemOk (State.setQueue s q a2) := by
  exact ⟨oks.1, mwf_mset oks.2 q a2⟩

theorem State.modCore_memOk (s : State) (n : Nat) (g : Core → Core) (oks : MemOk s) :
    MemOk (State.modCore s n g) := by
  unfold State.modCore
  grind [MemOk, State.setCore_memOk]

theorem State.raiseT_memOk (s : State) (n : Nat) (t : Nat) (oks : MemOk s) :
    MemOk (State.raiseT s n t) := by
  unfold State.raiseT
  grind [MemOk, State.modCore_memOk]

theorem State.storeLine_memOk (s : State) (n : Nat) (t : Nat) (l : Nat) (ps : List (Nat × List Byte)) (oks : MemOk s) :
    MemOk (State.storeLine s n t l ps) := by
  unfold State.storeLine
  grind [MemOk, State.writeHome_memOk, State.modCore_memOk, memOk_foldl, memOk_foldl_fst, memOk_bytes, Memory.setLine]

theorem State.storePieces_memOk (s : State) (n : Nat) (l : Nat) (ps : List (Nat × List Byte)) (oks : MemOk s) :
    MemOk (State.storePieces s n l ps) := by
  unfold State.storePieces
  grind [MemOk, State.reach_memOk, State.storeLine_memOk, State.raiseT_memOk]

theorem State.storeTogether_memOk (s : State) (n : Nat) (ps : List (Nat × List Byte)) (oks : MemOk s) :
    MemOk (State.storeTogether s n ps) := by
  have fit : ∀ u : State, MemOk u → ∀ spans clock, MemOk { u with mem := (u.mem.unmark spans).fit clock } := fun u hu spans clock =>
    ⟨by simpa using hu.1, hu.2⟩
  exact fit _ (State.raiseT_memOk _ _ _ (memOk_foldl (fun s _ hs => State.storeLine_memOk s n _ _ _ hs) _ _
    (memOk_foldl (fun s _ hs => State.recall_memOk s _ hs) _ _ oks))) _ _

theorem State.storeAll_memOk (s : State) (n : Nat) (ps : List (Nat × List Byte)) (oks : MemOk s) :
    MemOk (State.storeAll s n ps) := by
  unfold State.storeAll
  grind [MemOk, State.storePieces_memOk, memOk_foldl, memOk_foldl_fst, memOk_bytes, Memory.setLine, Memory.unmark]

theorem State.remoteReadLine_memOk (s : State) (l : Nat) (oks : MemOk s) :
    MemOk (State.remoteReadLine s l).1 := by
  unfold State.remoteReadLine
  grind [MemOk, State.reach_memOk, memOk_foldl, memOk_foldl_fst, memOk_bytes, Memory.setLine]

theorem State.remoteRead_memOk (s : State) (a : Nat) (len : Nat) (oks : MemOk s) :
    MemOk (State.remoteRead s a len).1 := by
  unfold State.remoteRead
  grind [MemOk, State.remoteReadLine_memOk, memOk_foldl, memOk_foldl_fst, memOk_bytes, Memory.setLine]

theorem State.storeMem_memOk (s : State) (n : Nat) (a : Nat) (bs : List Byte) (oks : MemOk s) :
    MemOk (State.storeMem s n a bs) := by
  unfold State.storeMem
  grind [MemOk, State.storeAll_memOk]

theorem State.takeId_memOk (s : State) (oks : MemOk s) :
    MemOk (State.takeId s).2 := by
  unfold State.takeId
  grind [MemOk]

theorem State.loadLine_memOk (s : State) (n : Nat) (allocate : Bool) (l : Nat) (oks : MemOk s) :
    MemOk (State.loadLine s n allocate l).1 := by
  unfold State.loadLine
  grind [MemOk, State.reach_memOk, State.modCore_memOk, State.raiseT_memOk, Memory.setLine]

theorem State.loadMem_memOk (s : State) (n : Nat) (allocate : Bool) (a : Nat) (len : Nat) (oks : MemOk s) :
    MemOk (State.loadMem s n allocate a len).1 := by
  unfold State.loadMem
  grind [MemOk, State.loadLine_memOk, memOk_foldl, memOk_foldl_fst, memOk_bytes, Memory.setLine]

theorem State.loadLines_memOk (s : State) (n : Nat) (allocate : Bool) (ls : List Nat) (oks : MemOk s) :
    MemOk (State.loadLines s n allocate ls).1 := by
  unfold State.loadLines
  grind [MemOk, State.loadLine_memOk, memOk_foldl, memOk_foldl_fst, memOk_bytes, Memory.setLine]

theorem State.loadRuns_memOk (s : State) (n : Nat) (allocate : Bool) (rs : List (Nat × Nat)) (oks : MemOk s) :
    MemOk (State.loadRuns s n allocate rs).1 := by
  unfold State.loadRuns
  grind [MemOk, State.loadLines_memOk]

theorem State.setChain_memOk (s : State) (h : Nat) (c : Chain) (oks : MemOk s) :
    MemOk (State.setChain s h c) := by
  unfold State.setChain
  grind [MemOk]

theorem State.poolOr_memOk (s : State) (pa : Nat) (bits : DWord) (oks : MemOk s) :
    MemOk (State.poolOr s pa bits) := by
  unfold State.poolOr
  grind [MemOk, State.reach_memOk, State.writeHome_memOk, memOk_foldl, memOk_foldl_fst, memOk_bytes, Memory.setLine, Memory.unmark]

theorem State.discard_memOk (s : State) (h : Nat) (c : Chain) (q : Nat) (oks : MemOk s) :
    MemOk (State.discard s h c q).1 := by
  unfold State.discard
  grind [MemOk, State.setChain_memOk, State.poolOr_memOk, memOk_foldl, memOk_foldl_fst, memOk_bytes, Memory.setLine]

theorem State.closeChain_memOk (s : State) (h : Nat) (oks : MemOk s) :
    MemOk (State.closeChain s h) := by
  unfold State.closeChain
  grind [MemOk, State.discard_memOk]

theorem State.closeOwned_memOk (s : State) (uid : Nat) (oks : MemOk s) :
    MemOk (State.closeOwned s uid) := by
  unfold State.closeOwned
  grind [MemOk, State.closeChain_memOk, memOk_foldl, memOk_foldl_fst, memOk_bytes, Memory.setLine]

theorem State.coarseFail_memOk (s : State) (h : Nat) (n : Nat) (oks : MemOk s) :
    MemOk (State.coarseFail s h n) := by
  unfold State.coarseFail
  grind [MemOk, State.setChain_memOk]

theorem State.endClaim_memOk (s : State) (uid : Nat) (oks : MemOk s) :
    MemOk (State.endClaim s uid) := by
  unfold State.endClaim
  grind [MemOk]

theorem State.faultSlice_memOk (s : State) (h : Nat) (m : Nat) (a3 : Slice) (cause : BitVec 8) (taddr : DWord) (tbun
    : DWord) (rslot : BitVec 3) (oks : MemOk s) :
    MemOk (State.faultSlice s h m a3 cause taddr tbun rslot) := by
  unfold State.faultSlice
  grind [MemOk, State.setChain_memOk]

theorem State.unitWrite_memOk (s : State) (a : Nat) (bs : List Byte) (oks : MemOk s) :
    MemOk (State.unitWrite s a bs) := by
  unfold State.unitWrite
  grind [MemOk, State.remoteWrite_memOk]

theorem State.acceptRecord_memOk (s : State) (q : Nat) (bs : List Byte) (oks : MemOk s) :
    MemOk (State.acceptRecord s q bs) := by
  unfold State.acceptRecord
  grind [MemOk, State.unitWrite_memOk, State.setQueue_memOk]

theorem State.monitor_memOk (a0 : Nat) (a1 : State) (a2 : Nat) (oka1 : MemOk a1) :
    MemOk (State.monitor a0 a1 a2) := by
  induction a0 generalizing a1 with
  | zero => exact oka1
  | succ k ih =>
    unfold State.monitor
    dsimp only
    repeat' split
    · exact oka1
    · exact ih _ (State.acceptRecord_memOk _ _ _ oka1)
    · exact oka1
    · exact State.setQueue_memOk _ _ _ oka1
    · exact State.setQueue_memOk _ _ _ oka1

theorem State.monitorWrite_memOk (s : State) (a : Nat) (len : Nat) (oks : MemOk s) :
    MemOk (State.monitorWrite s a len) := by
  unfold State.monitorWrite
  grind [MemOk, State.monitor_memOk, memOk_foldl, memOk_foldl_fst, memOk_bytes, Memory.setLine]

theorem State.asyncWrites_memOk (s : State) (n : Nat) (ws : List (Nat × List Byte)) (oks : MemOk s) :
    MemOk (State.asyncWrites s n ws) := by
  unfold State.asyncWrites
  grind [MemOk, State.monitorWrite_memOk, State.storeAll_memOk, memOk_foldl, memOk_foldl_fst, memOk_bytes,
    Memory.setLine]

theorem State.complete_memOk (s : State) (q : Nat) (e : Completion) (oks : MemOk s) :
    MemOk (State.complete s q e) := by
  unfold State.complete
  grind [MemOk, State.unitWrite_memOk, State.setQueue_memOk, State.send_memOk]

theorem State.placeNext_memOk (s : State) (n : Nat) (oks : MemOk s) :
    MemOk (State.placeNext s n) := by
  unfold State.placeNext
  grind [MemOk, State.asyncWrites_memOk, State.modCore_memOk]

theorem State.placeAll_memOk (s : State) (n : Nat) (oks : MemOk s) :
    MemOk (State.placeAll s n) := by
  unfold State.placeAll
  grind [MemOk, State.placeNext_memOk, memOk_foldl, memOk_foldl_fst, memOk_bytes, Memory.setLine]

theorem State.readEntry_memOk (s : State) (w : Walker) (a : Nat) (oks : MemOk s) :
    MemOk (State.readEntry s w a) := by
  unfold State.readEntry
  grind [MemOk, State.reach_memOk, State.raiseT_memOk, State.remoteReadLine_memOk, Memory.setLine]

theorem State.placeFor_memOk (s : State) (w : Walker) (oks : MemOk s) : MemOk (s.placeFor w) := by
  cases w with
  | core n => exact State.placeAll_memOk s n oks
  | unit => exact oks

theorem State.readEntries_memOk (s : State) (w : Walker) (q : Nat) (va : Nat) (oks : MemOk s) :
    MemOk (State.readEntries s w q va) := by
  unfold State.readEntries
  exact memOk_foldl (fun s a hs => State.readEntry_memOk s w a hs) _ _ (State.placeFor_memOk s w oks)

theorem State.fillTlb_memOk (s : State) (w : Walker) (q : Nat) (va : Nat) (a3 : Leaf) (oks : MemOk s) :
    MemOk (State.fillTlb s w q va a3) := by
  unfold State.fillTlb
  grind [MemOk]

theorem State.useLeaf_memOk (s : State) (w : Walker) (q : Nat) (va : Nat) (a3 : Leaf) (oks : MemOk s) :
    MemOk (State.useLeaf s w q va a3) := by
  unfold State.useLeaf
  grind [MemOk, State.readEntries_memOk, State.fillTlb_memOk]

theorem State.pageByte_memOk (s : State) (w : Walker) (q : Nat) (kind : AccessKind) (priv : Bool) (a : Nat) (oks : MemOk s)
    {t : State × Place} (ht : State.pageByte s w q kind priv a = .ok t) : MemOk t.1 := by
  unfold State.pageByte State.pagePlace at ht
  grind [MemOk, State.useLeaf_memOk]

/-- A walk that fails leaves memory in the form. -/
theorem State.pageByte_failOk {s : State} {w : Walker} {q : Nat} {kind : AccessKind} {priv : Bool} {a : Nat} (oks : MemOk s)
    {f : Failure} (hf : State.pageByte s w q kind priv a = .error f) : MemOk f.s := by
  unfold State.pageByte State.pagePlace at hf
  grind [MemOk, State.useLeaf_memOk, State.readEntries_memOk]

theorem State.apertureByte_memOk (s : State) (n : Nat) (a2 : Ctx) (kind : AccessKind) (a : Nat) (oks : MemOk s)
    {t : State × Place} (ht : State.apertureByte s n a2 kind a = .ok t) : MemOk t.1 := by
  unfold State.apertureByte at ht
  grind [MemOk]

theorem State.byteAt_memOk (s : State) (n : Nat) (a2 : Ctx) (kind : AccessKind) (a : Nat) (oks : MemOk s)
    {t : State × Place} (ht : State.byteAt s n a2 kind a = .ok t) : MemOk t.1 := by
  unfold State.byteAt at ht
  grind [MemOk, State.pageByte_memOk, State.apertureByte_memOk]

theorem State.byteAt_failOk {s : State} {n : Nat} {x : Ctx} {kind : AccessKind} {a : Nat} (oks : MemOk s)
    {f : Failure} (hf : State.byteAt s n x kind a = .error f) : MemOk f.s := by
  unfold State.byteAt State.apertureByte at hf
  grind [MemOk, State.pageByte_failOk]

theorem State.runAt_memOk (s : State) (n : Nat) (a2 : Ctx) (kind : AccessKind) (a : Nat) (len : Nat) (oks : MemOk s)
    {t : State × Place} (ht : State.runAt s n a2 kind a len = .ok t) : MemOk t.1 := by
  unfold State.runAt at ht
  grind [MemOk, State.byteAt_memOk]

theorem State.runAt_failOk {s : State} {n : Nat} {x : Ctx} {kind : AccessKind} {a len : Nat} (oks : MemOk s)
    {f : Failure} (hf : State.runAt s n x kind a len = .error f) : MemOk f.s := by
  unfold State.runAt at hf
  split at hf
  · rename_i h; cases hf; exact State.byteAt_failOk oks h
  · rename_i h
    split at hf
    · cases hf; exact State.byteAt_memOk _ _ _ _ _ oks h
    · cases hf

theorem State.placesFrom_memOk (n : Nat) (a1 : Ctx) (kind : AccessKind) (a3 : Nat) (a4 : State) (a5 : Nat) (a6 : Nat)
    (oka4 : MemOk a4)
    {t : State × List (Place × Nat)} (ht : State.placesFrom n a1 kind a3 a4 a5 a6 = .ok t) : MemOk t.1 := by
  induction a3 generalizing a4 a5 a6 t with
  | zero => cases ht; exact oka4
  | succ k ih =>
    unfold State.placesFrom at ht
    dsimp only at ht
    split at ht
    · cases ht; exact oka4
    · split at ht
      · cases ht
      · rename_i u p hp
        split at ht
        · cases ht
        · rename_i w ps hr
          cases ht
          exact ih u _ _ (State.runAt_memOk _ _ _ _ _ _ oka4 hp) (t := (w, ps)) hr

theorem State.placesFrom_failOk {n : Nat} {x : Ctx} {kind : AccessKind} {fuel : Nat} : ∀ {s : State} {a len : Nat}, MemOk s →
    ∀ {f : Failure}, State.placesFrom n x kind fuel s a len = .error f → MemOk f.s := by
  induction fuel with
  | zero => intro s a len _ f h; cases h
  | succ k ih =>
    intro s a len oks f h
    unfold State.placesFrom at h
    dsimp only at h
    split at h
    · cases h
    · split at h
      · rename_i hr; cases h; exact State.runAt_failOk oks hr
      · rename_i u p hp
        split at h
        · rename_i hr; cases h; exact ih (State.runAt_memOk _ _ _ _ _ _ oks hp) hr
        · cases h

theorem State.places_memOk (s : State) (n : Nat) (a2 : Ctx) (kind : AccessKind) (a : DWord) (len : Nat) (oks : MemOk
    s)
    {t : State × List (Place × Nat)} (ht : State.places s n a2 kind a len = .ok t) : MemOk t.1 := by
  unfold State.places at ht
  grind [MemOk, State.placesFrom_memOk]

theorem State.places_failOk {s : State} {n : Nat} {x : Ctx} {kind : AccessKind} {a : DWord} {len : Nat} (oks : MemOk s)
    {f : Failure} (hf : State.places s n x kind a len = .error f) : MemOk f.s := by
  unfold State.places at hf
  split at hf
  · rename_i h; cases hf; exact State.placesFrom_failOk oks h
  · rename_i h
    split at hf
    · cases hf
    · cases hf; exact State.placesFrom_memOk _ _ _ _ _ _ _ oks h

theorem State.leaveCounter_memOk (s : State) (n : Nat) (uid : Nat) (which : Nat) (oks : MemOk s) :
    MemOk (State.leaveCounter s n uid which) := by
  unfold State.leaveCounter
  grind [MemOk, State.modCore_memOk]

theorem State.retireAccess_memOk (s : State) (n : Nat) (atomic : Bool) (oks : MemOk s) :
    MemOk (State.retireAccess s n atomic) := by
  unfold State.retireAccess
  grind [MemOk, State.placeNext_memOk, State.modCore_memOk, State.leaveCounter_memOk]

theorem State.modBundle_memOk (s : State) (n : Nat) (c : Nat) (g : Bundle → Bundle) (oks : MemOk s) :
    MemOk (State.modBundle s n c g) := by
  unfold State.modBundle
  grind [MemOk, State.modCtx_memOk]

theorem State.issueHeld_memOk (s : State) (n : Nat) (c : Nat) (a3 : Ctx) (oks : MemOk s) :
    MemOk (State.issueHeld s n c a3) := by
  unfold State.issueHeld
  grind [MemOk, State.asyncWrites_memOk, State.placeAll_memOk, State.modCore_memOk, memOk_foldl]

theorem State.commitPhase_memOk (s : State) (n : Nat) (c : Nat) (oks : MemOk s) :
    MemOk (State.commitPhase s n c) := by
  unfold State.commitPhase
  grind [MemOk, State.issueHeld_memOk, State.modCtx_memOk]

theorem State.hear_memOk (s : State) (n : Nat) (oks : MemOk s) :
    MemOk (State.hear s n) := oks

theorem State.heldAnswer_memOk (s : State) (r : Held) (oks : MemOk s)
    {t : State × DWord} (ht : State.heldAnswer s r = some t) : MemOk t.1 := by
  unfold State.heldAnswer at ht
  grind [MemOk, State.setChain_memOk]

theorem State.answerHeld_memOk (s : State) (r : Held) (v : DWord) (oks : MemOk s) :
    MemOk (State.answerHeld s r v) := by
  unfold State.answerHeld
  grind [MemOk, State.raiseT_memOk, State.modCore_memOk]

theorem State.readRecord_memOk (s : State) (q : Nat) (a : DWord) (len : Nat) (oks : MemOk s) :
    MemOk (State.readRecord s q a len).1 := by
  unfold State.readRecord
  split
  · exact oks
  · split
    · rename_i h
      have ok := State.pageByte_memOk _ _ _ _ _ _ oks h
      split
      · exact ok
      · exact State.remoteRead_memOk _ _ _ ok
    · rename_i h
      exact State.pageByte_memOk _ _ _ _ _ _ oks h
    · rename_i h
      exact State.pageByte_failOk oks h

theorem State.walkOn_memOk (a0 : Nat) (a1 : State) (a2 : Nat) (oka1 : MemOk a1) :
    MemOk (State.walkOn a0 a1 a2) := by
  induction a0 generalizing a1 with
  | zero => exact oka1
  | succ k ih =>
    unfold State.walkOn
    dsimp only
    split
    · exact oka1
    · split
      · split
        · exact State.setChain_memOk _ _ _ oka1
        · split
          · exact State.setQueue_memOk _ _ _ (State.readRecord_memOk _ _ _ _ (State.setChain_memOk _ _ _ oka1))
          · exact ih _ (State.coarseFail_memOk _ _ _ (State.readRecord_memOk _ _ _ _ (State.setChain_memOk _ _ _ oka1)))
      · exact oka1

theorem State.serveOne_memOk (s : State) (oks : MemOk s)
    {t : State} (ht : State.serveOne s = some t) : MemOk t := by
  unfold State.serveOne at ht
  dsimp only at ht
  split at ht
  · obtain ⟨a, ha, rfl⟩ := Option.map_eq_some_iff.mp ht
    exact State.answerHeld_memOk _ _ _ (State.heldAnswer_memOk _ _ oks ha)
  · split at ht
    · cases ht; exact State.setChain_memOk _ _ _ oks
    · obtain ⟨a, ha, rfl⟩ := Option.map_eq_some_iff.mp ht
      exact State.walkOn_memOk _ _ _ oks

theorem State.serveAll_memOk (a0 : Nat) (a1 : State) (oka1 : MemOk a1) :
    MemOk (State.serveAll a0 a1) := by
  induction a0 generalizing a1 with
  | zero => exact oka1
  | succ k ih =>
    unfold State.serveAll
    split
    · exact ih _ (State.serveOne_memOk _ oka1 ‹_›)
    · exact oka1

theorem State.serveSlices_memOk (s : State) (oks : MemOk s) :
    MemOk (State.serveSlices s) := by
  unfold State.serveSlices
  grind [MemOk, State.serveAll_memOk]

theorem State.unmapAll_memOk (s : State) (n : Nat) (uid : Nat) (oks : MemOk s) :
    MemOk (State.unmapAll s n uid) := by
  unfold State.unmapAll
  grind [MemOk, State.recall_memOk, State.setCore_memOk, memOk_foldl, memOk_foldl_fst, memOk_bytes, Memory.setLine]

theorem State.release_memOk (s : State) (n : Nat) (c : Nat) (oks : MemOk s) :
    MemOk (State.release s n c) := by
  unfold State.release
  grind [MemOk, State.modCore_memOk]

theorem State.hearSlices_memOk (s : State) (n : Nat) (oks : MemOk s) : MemOk (State.hearSlices s n) := oks

theorem State.dropHeld_memOk (s : State) (n : Nat) (a2 : Task) (oks : MemOk s) :
    MemOk (State.dropHeld s n a2) := by
  unfold State.dropHeld
  grind [MemOk, State.unmapAll_memOk, State.closeOwned_memOk, State.serveSlices_memOk, State.endClaim_memOk,
    State.modCore_memOk, State.hearSlices_memOk]

theorem State.endTask_memOk (s : State) (n : Nat) (c : Nat) (trapped : Bool) (oks : MemOk s) :
    MemOk (State.endTask s n c trapped) := by
  unfold State.endTask
  grind [MemOk, State.commitPhase_memOk, State.modCtx_memOk, State.dropHeld_memOk, State.release_memOk]

theorem State.saveStores_memOk (s : State) (n : Nat) (a2 : Ctx) (ws : List (Nat × List Byte)) (oks : MemOk s) :
    MemOk (State.saveStores s n a2 ws) := by
  unfold State.saveStores
  grind [MemOk, State.storeAll_memOk, State.placeAll_memOk]

theorem State.queueSave_memOk (s : State) (n : Nat) (x : Ctx) (ws : List (Nat × List Byte)) (oks : MemOk s) :
    MemOk (State.queueSave s n x ws) := State.modCore_memOk _ _ _ (State.takeId_memOk s oks)

theorem State.saveStore_memOk (s : State) (n : Nat) (a2 : Ctx) (off : Nat) (bs : List Byte) (oks : MemOk s) :
    MemOk (State.saveStore s n a2 off bs) := by
  unfold State.saveStore
  grind [MemOk, State.saveStores_memOk]

/-- A run of bytes, of which those that are 0 are not listed. -/
theorem mwf_mrunBytes {m : SMap Byte} (h : mwf 0 m = true) (a : Nat) (bs : List Byte) :
    mwf 0 (mrun m a (bs.map fun b => if b = 0 then none else some b)) = true := by
  refine mwf_mrun h _ fun hi => ?_
  obtain ⟨b, _, hb⟩ := List.mem_map.mp hi
  split at hb
  · contradiction
  · exact absurd (Option.some.inj hb) ‹_›

theorem Memory.mwf_putParts {m : Memory} (h : mwf 0 m.bytes = true) (clock t : Nat) (parts : List (Nat × List Byte)) :
    mwf 0 (m.putParts clock t parts).bytes = true := by
  unfold Memory.putParts
  simp only [Memory.fit_bytes, Memory.unmark_bytes]
  exact Memory.dropGone_mwf (foldl_mwf (fun _ p hm => mwf_mrunBytes hm p.1 p.2) parts m.bytes h)

theorem State.beforeParts_memOk (s : State) (spans : List (Nat × Nat)) (oks : MemOk s) :
    MemOk (State.beforeParts s spans) := by
  unfold State.beforeParts
  exact memOk_foldl (fun t p ht => memOk_foldl (fun u i hu => State.beforeWrite_memOk _ _ hu) _ _ ht) _ _
    (memOk_foldl (fun t (e : Nat × HomeLine) ht => State.recall_memOk t e.1 ht) _ _ oks)

theorem State.saveRegions_memOk (s : State) (n : Nat) (a2 : Ctx) (rs : List Region) (oks : MemOk s) :
    MemOk (State.saveRegions s n a2 rs) := by
  unfold State.saveRegions
  have h := State.beforeParts_memOk _ (spansOf (rs.map fun r => (a2.saveAt r.off, r.bytes (s.placeAll n).clock)))
    (State.placeAll_memOk s n oks)
  exact State.raiseT_memOk _ _ _ ⟨Memory.mwf_putParts h.1 _ _ _, h.2⟩

theorem State.suspend_memOk (s : State) (n : Nat) (c : Nat) (quota : Bool) (oks : MemOk s) :
    MemOk (State.suspend s n c quota) := by
  unfold State.suspend
  grind [MemOk, State.release_memOk, State.placeAll_memOk, State.saveStores_memOk, State.saveRegions_memOk,
    State.setCore_memOk]

theorem State.takeAction_memOk (s : State) (n : Nat) (c : Nat) (oks : MemOk s) :
    MemOk (State.takeAction s n c) := by
  unfold State.takeAction
  grind [MemOk, State.suspend_memOk, State.modCtx_memOk, State.release_memOk]

theorem State.finishPlain_memOk (s : State) (n : Nat) (c : Nat) (b : Bundle) (oks : MemOk s) :
    MemOk (State.finishPlain s n c b) := by
  unfold State.finishPlain
  grind [MemOk, State.setCtx_memOk, State.modCtx_memOk, State.modCore_memOk, State.release_memOk,
    State.takeAction_memOk]

theorem State.enterTrap_memOk (s : State) (n : Nat) (c : Nat) (t : TrapInfo) (oks : MemOk s) :
    MemOk (State.enterTrap s n c t) := by
  unfold State.enterTrap
  dsimp only
  split
  · exact State.endTask_memOk _ _ _ _ (State.queueSave_memOk _ _ _ _ (State.modCtx_memOk _ _ _ _ oks))
  · exact State.saveRegions_memOk _ _ _ _ (State.modCtx_memOk _ _ _ _ (State.saveStore_memOk _ _ _ _ _
      (State.modCtx_memOk _ _ _ _ (State.saveStores_memOk _ _ _ _ (State.placeAll_memOk _ _ oks)))))

theorem State.trap_memOk (s : State) (n : Nat) (c : Nat) (t : TrapInfo) (oks : MemOk s) :
    MemOk (State.trap s n c t) := by
  unfold State.trap
  grind [MemOk, State.endTask_memOk, State.faultSlice_memOk, State.enterTrap_memOk, State.hearSlices_memOk]

theorem State.returnEvent_memOk (s : State) (n : Nat) (c : Nat) (b : Bundle) (oks : MemOk s) :
    MemOk (State.returnEvent s n c b) := by
  unfold State.returnEvent
  grind [MemOk, State.setCtx_memOk, State.trap_memOk]

theorem State.finishRest_memOk (s : State) (n : Nat) (c : Nat) (b : Bundle) (oks : MemOk s) :
    MemOk (State.finishRest s n c b) := by
  unfold State.finishRest
  grind [MemOk, State.endTask_memOk, State.returnEvent_memOk, State.release_memOk, State.modCtx_memOk,
    State.finishPlain_memOk]

theorem State.reenterBundle_memOk (s : State) (n : Nat) (c : Nat) (b : Bundle) (ftbun : DWord) (resume : Nat)
    (oks : MemOk s) : MemOk (State.reenterBundle s n c b ftbun resume) := by
  unfold State.reenterBundle
  generalize (if b.slots.length ≤ b.cur then b.slots.length else _) = rest
  dsimp only
  split
  · exact State.finishRest_memOk _ _ _ _ (State.modCtx_memOk _ _ _ _ oks)
  · split
    · exact State.modCtx_memOk _ _ _ _ oks
    · exact State.modCtx_memOk _ _ _ _ oks

theorem State.returnTrap_memOk (s : State) (n : Nat) (c : Nat) (b : Bundle) (oks : MemOk s) :
    MemOk (State.returnTrap s n c b) := by
  unfold State.returnTrap
  have h := State.placeAll_memOk s n oks
  dsimp only
  split
  · exact State.endTask_memOk _ _ _ _ oks
  · split
    · exact State.trap_memOk _ _ _ _ h
    · split
      · exact State.setCtx_memOk _ _ _ _ (State.saveStore_memOk _ _ _ _ _ h)
      · split
        · exact State.modCtx_memOk _ _ _ _ (State.setCtx_memOk _ _ _ _ (State.saveStore_memOk _ _ _ _ _ h))
        · exact State.reenterBundle_memOk _ _ _ _ _ _ (State.setCtx_memOk _ _ _ _ (State.saveStore_memOk _ _ _ _ _ h))

theorem State.finish_memOk (s : State) (n : Nat) (c : Nat) (oks : MemOk s) :
    MemOk (State.finish s n c) := by
  unfold State.finish
  grind [MemOk, State.returnTrap_memOk, State.finishRest_memOk]

theorem State.advance_memOk (s : State) (e : Env) (oks : MemOk s) :
    MemOk (State.advance s e) := by
  unfold State.advance
  grind [MemOk, State.modBundle_memOk, State.finish_memOk]

theorem State.slotTrap_memOk (s : State) (e : Env) (resume : Nat) (cause : BitVec 8) (taddr : DWord) (oks : MemOk s) :
    MemOk (State.slotTrap s e resume cause taddr) := by
  unfold State.slotTrap
  grind [MemOk, State.trap_memOk]

theorem State.irrevocable_memOk (s : State) (n : Nat) (c : Nat) (oks : MemOk s) :
    MemOk (State.irrevocable s n c) := by
  unfold State.irrevocable
  grind [MemOk, State.modCtx_memOk]

theorem State.refuse_memOk (s : State) (e : Env) (cause : BitVec 8) (taddr : Option DWord) (oks : MemOk s) :
    MemOk (State.refuse s e cause taddr) := by
  unfold State.refuse
  refine State.modBundle_memOk _ _ _ _ ?_
  split
  · exact oks
  · exact State.modCtx_memOk _ _ _ _ oks

theorem runSlot_memOk (s : State) (body : Env → State → SlotRes) (oks : MemOk s) (okbody : ∀ e t, MemOk t → (body e
    t).memOk)
    {t : State} (ht : runSlot s body = .next t) : MemOk t := by
  unfold runSlot at ht
  grind [MemOk, SlotRes.memOk, State.advance_memOk, State.slotTrap_memOk, State.refuse_memOk, State.release_memOk,
    State.modCtx_memOk]

theorem State.reply_memOk (s : State) (e : Env) (a : Answer) (oks : MemOk s) :
    MemOk (State.reply s e a) := by
  unfold State.reply
  grind [MemOk, State.modBundle_memOk]

theorem runLocal_memOk (s : State) (g : Env → Ctx) (oks : MemOk s)
    {t : State} (ht : runLocal s g = .next t) : MemOk t := by
  refine runSlot_memOk _ _ oks (fun e u hu => ?_) ht
  exact State.setCtx_memOk _ _ _ _ hu

theorem SlotRes.memOk_ite {p : Prop} [Decidable p] {r q : SlotRes} (h : r.memOk) (g : q.memOk) : (if p then r else q).memOk := by
  split <;> assumption

theorem runAnswered_memOk (s : State) (ask : Env → State → SlotRes) (commit : Env → State → Answer → SlotRes) (oks :
    MemOk s) (okask : ∀ e t, MemOk t → (ask e t).memOk) (okcommit : ∀ e t a, MemOk t → (commit e t a).memOk)
    {t : State} (ht : runAnswered s ask commit = .next t) : MemOk t := by
  rw [runAnswered] at ht
  refine runSlot_memOk s _ oks ?_ ht
  intro e u hu
  refine SlotRes.memOk_ite (okask e u hu) ?_
  cases e.answer with
  | refused c a => trivial
  | waiting => exact hu
  | slice c w => exact hu
  | ckpt n => exact hu
  | value x => exact okcommit e u _ hu
  | words x => exact okcommit e u _ hu
  | copy a b c d => exact okcommit e u _ hu

theorem runRequest_memOk (s : State) (ask : Env → State → SlotRes) (commit : Env → State → DWord → State) (oks :
    MemOk s) (okask : ∀ e t, MemOk t → (ask e t).memOk) (okcommit : ∀ e t v, MemOk t → MemOk (commit e t v))
    {t : State} (ht : runRequest s ask commit = .next t) : MemOk t := by
  rw [runRequest] at ht
  refine runAnswered_memOk s ask _ oks okask (fun e u a hu => ?_) ht
  split
  · exact okcommit e u _ hu
  · exact hu

theorem State.deliver_memOk (s : State) (n : Nat) (c : Nat) (source : Nat) (at_ : DWord) (oks : MemOk s) :
    MemOk (State.deliver s n c source at_) := by
  unfold State.deliver
  grind [MemOk, State.modCtx_memOk]

end Sys2Proof.Machine
end

