-- ==== Sys2Proof/Laws/SlotOps.lean ====
section
/-! SUPPORT. Every operation keeps the canonical form of physical memory (log 2): accesses, and the shapes of the slots of a bundle. -/

namespace Sys2Proof.Machine

theorem State.sendRemote_memOk (s : State) (r : Remote) (m : Nat → Message) (oks : MemOk s) :
    MemOk (State.sendRemote s r m) := by
  unfold State.sendRemote
  grind [MemOk, State.takeId_memOk, State.send_memOk]

theorem State.readUncorr_memOk (s : State) (e : Env) (a : DWord) (oks : MemOk s) :
    (State.readUncorr s e a).memOk := by
  unfold State.readUncorr
  grind [MemOk, ReadRes.memOk, State.modCtx_memOk]

theorem State.stashTime_memOk (s : State) (n : Nat) (uid : Nat) (j : Nat) (i : Nat) (write : Bool) (oks : MemOk s) :
    MemOk (State.stashTime s n uid j i write) := by
  unfold State.stashTime
  grind [MemOk, State.raiseT_memOk, State.modCore_memOk]

theorem State.stashFillLine_memOk (s : State) (n : Nat) (uid : Nat) (j : Nat) (i : Nat) (oks : MemOk s) :
    MemOk (State.stashFillLine s n uid j i) := by
  unfold State.stashFillLine
  grind [MemOk, State.reach_memOk, State.modCore_memOk, Memory.setLine]

theorem State.stashRead_memOk (s : State) (n : Nat) (uid : Nat) (j : Nat) (off : Nat) (len : Nat) (oks : MemOk s) :
    MemOk (State.stashRead s n uid j off len).1 := by
  unfold State.stashRead
  grind [MemOk, State.stashTime_memOk, State.stashFillLine_memOk, memOk_foldl, memOk_foldl_fst, memOk_bytes,
    Memory.setLine]

theorem State.readParts_memOk (n : Nat) (allocate : Bool) (a2 : State) (a3 : Nat) (a4 : List (Place × Nat)) (oka2 :
    MemOk a2) :
    MemOk (State.readParts n allocate a2 a3 a4).1 := by
  induction a4 generalizing a2 a3 with
  | nil => exact oka2
  | cons p ps ih =>
    unfold State.readParts
    dsimp only
    refine ih _ _ ?_
    split
    · exact oka2
    · exact State.stashRead_memOk _ _ _ _ _ _ (State.placeAll_memOk _ _ oka2)
    · exact State.loadMem_memOk _ _ _ _ _ (State.placeAll_memOk _ _ oka2)
    · exact oka2

theorem ReadRes.memOk_ite {p : Prop} [Decidable p] {r q : ReadRes} (h : r.memOk) (g : q.memOk) :
    (if p then r else q).memOk := by split <;> assumption

theorem State.readBlocking_memOk (s : State) (e : Env) (a : DWord) (len : Nat) (oks : MemOk s) :
    (State.readBlocking s e a len).memOk := by
  unfold State.readBlocking
  split
  · exact State.places_failOk oks ‹_›
  · have h := State.places_memOk _ _ _ _ _ _ oks ‹_›
    refine ReadRes.memOk_ite h ?_
    extract_lets runs key
    split
    · exact State.readUncorr_memOk _ _ _ h
    · split
      · trivial
      · refine ReadRes.memOk_ite (memOk_foldl (fun r a hr => ?_) _ _ h) ?_
        · exact memOk_ite hr (State.sendRemote_memOk _ _ _ hr)
        · split
          · exact State.readUncorr_memOk _ _ _ h
          · exact State.readParts_memOk _ _ _ _ _ h

theorem State.stashWrite_memOk (s : State) (n : Nat) (uid : Nat) (j : Nat) (off : Nat) (bs : List Byte) (oks : MemOk
    s) :
    MemOk (State.stashWrite s n uid j off bs) := by
  unfold State.stashWrite
  grind [MemOk, State.stashTime_memOk, State.stashFillLine_memOk, State.modCore_memOk, memOk_foldl, memOk_foldl_fst,
    memOk_bytes, Memory.setLine]

theorem State.unmarkWindow_memOk (s : State) (n uid j off : Nat) (bs : List Byte) (oks : MemOk s) :
    MemOk (State.unmarkWindow s n uid j off bs) := by
  unfold State.unmarkWindow
  grind [MemOk, Memory.unmark]

theorem State.storeParts_memOk (e : Env) (pieces : List (Nat × List Byte)) (a2 : State) (a3 : Nat) (o : StoreOut)
    (ps : List (Place × Nat)) (oka2 : MemOk a2) : MemOk (State.storeParts e pieces a2 a3 o ps).1 := by
  induction ps generalizing a2 a3 o with
  | nil => exact oka2
  | cons p ps ih =>
    unfold State.storeParts
    dsimp only
    refine ih _ _ _ ?_
    split
    · exact State.modCore_memOk _ _ _ oka2
    · exact memOk_foldl (fun r a hr => State.unmarkWindow_memOk _ _ _ _ _ _ (State.stashWrite_memOk _ _ _ _ _ _ hr)) _ _
        (State.placeAll_memOk _ _ oka2)
    · exact oka2
    · exact oka2

theorem State.sendStore_memOk (s : State) (e : Env) (a : DWord) (group : Nat) (o : StoreOut) (oks : MemOk s) :
    MemOk (State.sendStore s e a group o) :=
  memOk_foldl (fun _ _ h => memOk_ite (State.sendRemote_memOk _ _ _ h) (State.modCtx_memOk _ _ _ _ h)) _ _ oks

theorem State.storeAt_memOk (s : State) (e : Env) (a : DWord) (pieces : List (Nat × List Byte)) (ps : List (Place ×
    Nat)) (oks : MemOk s) :
    MemOk (State.storeAt s e a pieces ps) := by
  unfold State.storeAt
  have h := State.sendStore_memOk _ e a s.takeId.1 (State.storeParts e pieces s.takeId.2 0 {} ps).2
    (State.storeParts_memOk e pieces s.takeId.2 0 {} ps (State.takeId_memOk _ oks))
  exact memOk_ite
    (State.modCore_memOk _ _ _ (State.modCtx_memOk _ _ _ _ (memOk_ite (State.modCtx_memOk _ _ _ _
      (memOk_ite (State.irrevocable_memOk _ _ _ h) h)) (memOk_ite (State.irrevocable_memOk _ _ _ h) h))))
    (memOk_ite (State.modCtx_memOk _ _ _ _ (memOk_ite (State.irrevocable_memOk _ _ _ h) h))
      (memOk_ite (State.irrevocable_memOk _ _ _ h) h))

theorem State.store_memOk (s : State) (e : Env) (a : DWord) (size : Nat) (align : Nat) (pieces : List (Nat × List
    Byte)) (oks : MemOk s) :
    (State.store s e a size align pieces).memOk := by
  unfold State.store
  split
  · trivial
  · split
    · exact State.places_failOk oks ‹_›
    · exact SlotRes.memOk_ite trivial (State.storeAt_memOk _ _ _ _ _ (State.places_memOk _ _ _ _ _ _ oks ‹_›))

theorem State.atomic_memOk (s : State) (e : Env) (a : DWord) (m : Amo) (dest : Option RegWrite) (dist : Nat) (oks :
    MemOk s) :
    (State.atomic s e a m dest dist).memOk := by
  unfold State.atomic
  dsimp only
  split
  · trivial
  · split
    · exact State.places_failOk oks ‹_›
    · rename_i u ps hp
      have h := State.places_memOk _ _ _ _ _ _ oks hp
      refine SlotRes.memOk_ite trivial ?_
      split
      · trivial
      · have h2 := State.irrevocable_memOk _ e.n e.c (State.takeId_memOk _ h)
        cases dest with
        | none => grind [SlotRes.memOk, State.modCtx_memOk, State.modCore_memOk, State.sendRemote_memOk]
        | some d => grind [SlotRes.memOk, State.modCtx_memOk, State.modCore_memOk, State.sendRemote_memOk]

theorem State.requestParts_memOk (s : State) (e : Env) (a : DWord) (landing : Option Nat) (ps : List Part) (oks :
    MemOk s) :
    MemOk (State.requestParts s e a landing ps) := by
  unfold State.requestParts
  grind [MemOk, State.send_memOk, State.sendRemote_memOk, State.modCtx_memOk, memOk_foldl, memOk_foldl_fst,
    memOk_bytes, Memory.setLine]

theorem State.load_memOk (s : State) (e : Env) (allocate : Bool) (a : DWord) (size : Nat) (align : Nat) (kind :
    LandKind) (dest : Option RegWrite) (dist : Nat) (oks : MemOk s) :
    (State.load s e allocate a size align kind dest dist).memOk := by
  unfold State.load
  dsimp only
  split
  · trivial
  · split
    · exact State.places_failOk oks ‹_›
    · have h := State.places_memOk _ _ _ _ _ _ oks ‹_›
      refine SlotRes.memOk_ite trivial ?_
      split
      · exact State.requestParts_memOk _ _ _ _ _ (State.readParts_memOk _ _ _ _ _ h)
      · split
        · trivial
        · exact State.requestParts_memOk _ _ _ _ _ (State.modCtx_memOk _ _ _ _
            (State.readParts_memOk _ _ _ _ _ (State.takeId_memOk _ h)))

theorem fpTrap_memOk (fl : BitVec 5)  :
    (fpTrap fl).memOk := by
  unfold fpTrap
  grind [MemOk, SlotRes.memOk]

theorem State.pushPipe_memOk (s : State) (n : Nat) (c : Nat) (l : Nat) (v : Lanes) (oks : MemOk s) :
    MemOk (State.pushPipe s n c l v) := by
  unfold State.pushPipe
  grind [MemOk, State.modCore_memOk, State.irrevocable_memOk]

theorem State.writeVec_memOk (s : State) (e : Env) (v : Nat) (l : Nat) (sel : Mask) (a5 : Lanes) (oks : MemOk s) :
    MemOk (State.writeVec s e v l sel a5) := by
  unfold State.writeVec
  grind [MemOk, State.modCtx_memOk, State.pushPipe_memOk]

theorem State.writeBits_memOk (s : State) (e : Env) (v : Nat) (l : Nat) (bits : Word) (sel : Mask) (a5 : Lanes)
    (oks : MemOk s) : MemOk (State.writeBits s e v l bits sel a5) := by
  unfold State.writeBits
  exact memOk_ite (State.modCtx_memOk _ _ _ _ oks) (State.writeVec_memOk _ _ _ _ _ _ oks)

theorem State.vecBits_memOk (s : State) (i : Instr) (bits : Word)
    (g : Env → Lanes → Lanes → Lanes → Lanes → Lanes × BitVec 5) (e : Env) (oks : MemOk s) :
    (State.vecBits s i bits g e).memOk := by
  unfold State.vecBits
  split
  · exact oks
  · dsimp only
    split
    · exact fpTrap_memOk _
    · exact memOk_foldl (fun _ _ h => State.writeBits_memOk _ _ _ _ _ _ _ h) _ _ (State.modCtx_memOk _ _ _ _ oks)

theorem State.vecBody_memOk (s : State) (i : Instr) (g : Env → Lanes → Lanes → Lanes → Lanes → Lanes × BitVec 5) (e :
    Env) (oks : MemOk s) :
    (State.vecBody s i g e).memOk := State.vecBits_memOk s i _ g e oks

theorem runVec_memOk (s : State) (i : Instr) (g : Env → Lanes → Lanes → Lanes → Lanes → Lanes × BitVec 5) (oks :
    MemOk s)
    {t : State} (ht : runVec s i g = .next t) : MemOk t := by
  unfold runVec at ht
  grind [MemOk, SlotRes.memOk, runSlot_memOk, State.vecBody_memOk]

theorem runLanes_memOk (s : State) (i : Instr) (g : Env → Word → Word → Word → Word → Word × BitVec 5) (oks : MemOk s)
    {t : State} (ht : runLanes s i g = .next t) : MemOk t := by
  unfold runLanes at ht
  grind [MemOk, runVec_memOk]

theorem runBits_memOk (s : State) (i : Instr) (g : Word → Word → Word → Word) (oks : MemOk s)
    {t : State} (ht : runBits s i g = .next t) : MemOk t := by
  unfold runBits at ht
  grind [MemOk, runVec_memOk]

theorem runCompare_memOk (s : State) (i : Instr) (g : Word → Word → Bool) (oks : MemOk s)
    {t : State} (ht : runCompare s i g = .next t) : MemOk t := by
  refine runSlot_memOk _ _ oks (fun e u hu => ?_) ht
  split
  · exact hu
  · exact State.modCtx_memOk _ _ _ _ hu

theorem Fetched.memOk_ite {p : Prop} [Decidable p] {r q : Fetched} (h : r.memOk) (g : q.memOk) :
    (if p then r else q).memOk := by split <;> assumption

theorem State.fetchLine_memOk (s : State) (n l : Nat) (oks : MemOk s) : MemOk (State.fetchLine s n l).1 := by
  unfold State.fetchLine
  split
  · exact oks
  · exact State.modCore_memOk _ _ _ oks

theorem State.fetchWords_memOk (n : Nat) (c : Nat) (a2 : Nat) (a3 : State) (a4 : DWord) (a5 : List Word) (oka3 :
    MemOk a3) :
    (State.fetchWords n c a2 a3 a4 a5).memOk := by
  induction a2 generalizing a3 a4 a5 with
  | zero => exact oka3
  | succ k ih =>
    unfold State.fetchWords
    split
    · exact State.places_failOk oka3 ‹_›
    · have h := State.places_memOk _ _ _ _ _ _ oka3 ‹_›
      extract_lets go
      have hgo : ∀ s bs, MemOk s → (go s bs).memOk := fun s bs hs => Fetched.memOk_ite hs (ih _ _ _ hs)
      split
      · exact Fetched.memOk_ite h (hgo _ _ (State.fetchLine_memOk _ _ _ h))
      · split
        · exact hgo _ _ h
        · exact Fetched.memOk_ite h (Fetched.memOk_ite h (Fetched.memOk_ite h (State.sendRemote_memOk _ _ _ h)))
      · exact h

theorem State.resolvePc_memOk (s : State) (n : Nat) (c : Nat) (oks : MemOk s) :
    match (State.resolvePc s n c) with | .error b => b.memOk | .ok r => MemOk r.1 := by
  unfold State.resolvePc
  rcases (s.ctx n c).pc with a | a
  · exact oks
  · have h := State.fetchWords_memOk n c 8 s a [] oks
    dsimp only
    rcases hf : State.fetchWords n c 8 s a [] with ⟨u, ws⟩ | ⟨u, g⟩ | u <;> rw [hf] at h
    · dsimp only
      by_cases hw : ws.getLast?.any wordStop = true
      · rw [if_pos hw]; exact h
      · rw [if_neg hw]; exact h
    · exact h
    · exact h

theorem State.missOr_memOk (s : State) (n c : Nat) (is : List Instr) (b : Begun) (oks : MemOk s) (okb : b.memOk) :
    (State.missOr s n c is b).memOk := by
  unfold State.missOr
  dsimp only
  split
  · exact okb
  · exact oks

theorem State.begin_memOk (s : State) (n : Nat) (c : Nat) (oks : MemOk s) :
    (State.begin s n c).memOk := by
  unfold State.begin
  have h := State.resolvePc_memOk s n c oks
  split <;> rename_i hr <;> rw [hr] at h
  · exact State.missOr_memOk _ _ _ _ _ h h
  · exact h
  · extract_lets t
    split
    · exact State.missOr_memOk _ _ _ _ _ h h
    · have hf := State.fetchWords_memOk n c 8 _ ‹DWord› [] h
      split <;> rename_i hw <;> rw [hw] at hf
      · exact hf
      · exact State.missOr_memOk _ _ _ _ _ hf hf
      · refine State.missOr_memOk _ _ _ _ _ hf ?_
        split
        · exact hf
        · split
          · exact hf
          · exact State.setCtx_memOk _ _ _ _ hf

theorem State.popSlot_memOk (s : State) (n : Nat) (c : Nat) (rs : Bool) (p : Placed) (oks : MemOk s) :
    MemOk (State.popSlot s n c rs p).1 := by
  unfold State.popSlot
  grind [MemOk, State.setCtx_memOk, State.raiseT_memOk, State.modCore_memOk, State.irrevocable_memOk, memOk_foldl,
    memOk_foldl_fst, memOk_bytes, Memory.setLine]

theorem State.issueBundle_memOk (s : State) (n : Nat) (c : Nat) (b : Bundle) (fail : Option Nat) (oks : MemOk s) :
    MemOk (State.issueBundle s n c b fail) := by
  unfold State.issueBundle
  grind [MemOk, State.popSlot_memOk, State.modBundle_memOk, memOk_foldl, memOk_foldl_fst, memOk_bytes, Memory.setLine]

theorem runScalar_memOk (s : State) (f : Fields) (l : Nat) (g : Env → DWord) (oks : MemOk s)
    {t : State} (ht : runScalar s f l g = .next t) : MemOk t := by
  unfold runScalar at ht
  grind [MemOk, runLocal_memOk]

theorem runPred_memOk (s : State) (f : Fields) (g : Env → Bool) (oks : MemOk s)
    {t : State} (ht : runPred s f g = .next t) : MemOk t := by
  unfold runPred at ht
  grind [MemOk, runLocal_memOk]

theorem runDivision_memOk (s : State) (f : Fields) (g : DWord → DWord → DWord) (oks : MemOk s)
    {t : State} (ht : runDivision s f g = .next t) : MemOk t := by
  refine runSlot_memOk _ _ oks (fun e u hu => ?_) ht
  split
  · trivial
  · exact State.setCtx_memOk _ _ _ _ hu

theorem runTransfer_memOk (s : State) (g : Env → State → SlotRes) (oks : MemOk s) (okg : ∀ e t, MemOk t → (g e
    t).memOk)
    {t : State} (ht : runTransfer s g = .next t) : MemOk t := by
  unfold runTransfer at ht
  grind [MemOk, SlotRes.memOk, runSlot_memOk]

theorem State.transferTo_memOk (s : State) (e : Env) (p : NextPc) (oks : MemOk s) :
    MemOk (State.transferTo s e p) := by
  unfold State.transferTo
  grind [MemOk, State.modBundle_memOk]

theorem branchTo_memOk (e : Env) (s : State) (target : DWord) (oks : MemOk s) :
    (branchTo e s target).memOk := by
  unfold branchTo
  grind [MemOk, SlotRes.memOk, State.transferTo_memOk]

theorem runLoop_memOk (s : State) (f : Fields) (pipe : Bool) (oks : MemOk s)
    {t : State} (ht : runLoop s f pipe = .next t) : MemOk t := by
  refine runTransfer_memOk _ _ oks (fun e u hu => ?_) ht
  dsimp only
  split <;> split
  · trivial
  · exact State.transferTo_memOk _ _ _ (State.setCtx_memOk _ _ _ _ hu)
  · trivial
  · exact State.transferTo_memOk _ _ _ (State.setCtx_memOk _ _ _ _ hu)

theorem runAtEnd_memOk (s : State) (a : EndAct) (oks : MemOk s)
    {t : State} (ht : runAtEnd s a = .next t) : MemOk t := by
  refine runSlot_memOk _ _ oks (fun e u hu => ?_) ht
  exact State.modBundle_memOk _ _ _ _ hu

theorem branchLink_memOk (e : Env) (s : State) (d : BitVec 5) (target : DWord) (oks : MemOk s) :
    (branchLink e s d target).memOk := by
  unfold branchLink
  grind [MemOk, SlotRes.memOk, branchTo_memOk, State.setCtx_memOk]

theorem State.applyNotice_memOk (s : State) (n : Nat) (job : BitVec 32) (oks : MemOk s) :
    MemOk (State.applyNotice s n job) := by
  unfold State.applyNotice
  grind [MemOk, State.modCore_memOk]

theorem State.applyNotices_memOk (s : State) (n : Nat) (oks : MemOk s) :
    MemOk (State.applyNotices s n) := by
  unfold State.applyNotices
  grind [MemOk, State.applyNotice_memOk, memOk_foldl, memOk_foldl_fst, memOk_bytes, Memory.setLine]

theorem runCreg_memOk (s : State) (f : Fields) (g : Ctl → DWord → Ctl) (oks : MemOk s)
    {t : State} (ht : runCreg s f g = .next t) : MemOk t := by
  unfold runCreg at ht
  grind [MemOk, runLocal_memOk]

theorem State.writeSpad_memOk (s : State) (n : Nat) (ps : List (Nat × List Byte)) (oks : MemOk s) :
    MemOk (State.writeSpad s n ps) := by
  unfold State.writeSpad
  grind [MemOk, State.modCore_memOk]

theorem State.runsFrom_memOk (n : Nat) (x : Ctx) (kind : AccessKind) : ∀ (runs : List (DWord × Nat)) (s : State) (f : Option Failure)
    (ps : List (Nat × Nat)), MemOk s → MemOk (State.runsFrom n x kind s f ps runs).1
  | [], _, _, _, oks => oks
  | run :: rest, s, f, ps, oks => by
    unfold State.runsFrom
    split
    · exact State.runsFrom_memOk n x kind rest _ _ _ (State.runAt_memOk _ _ _ _ _ _ oks ‹_›)
    · exact State.runsFrom_memOk n x kind rest _ _ _ (State.runAt_memOk _ _ _ _ _ _ oks ‹_›)
    · exact State.runsFrom_memOk n x kind rest _ _ _ (State.runAt_failOk oks ‹_›)

theorem State.rowsFrom_memOk (n : Nat) (x : Ctx) (kind : AccessKind) : ∀ (rows : List (DWord × Nat)) (s : State) (f : Option Failure)
    (out : List (List (Nat × Nat))), MemOk s → MemOk (State.rowsFrom n x kind s f out rows).1
  | [], _, _, _, oks => oks
  | _ :: rest, s, f, _, oks => State.rowsFrom_memOk n x kind rest _ _ _ (State.runsFrom_memOk n x kind _ s f [] oks)

theorem State.rowRuns_memOk (s : State) (n : Nat) (a2 : Ctx) (kind : AccessKind) (rows : List (DWord × Nat)) (oks :
    MemOk s)
    {t : State × List (List (Nat × Nat))} (ht : State.rowRuns s n a2 kind rows = .ok t) : MemOk t.1 := by
  unfold State.rowRuns at ht
  have h := State.rowsFrom_memOk n a2 kind rows s none [] oks
  split at ht
  · cases ht
  · cases ht; rename_i e; rw [e] at h; exact h

theorem State.rowRuns_failOk {s : State} {n : Nat} {x : Ctx} {kind : AccessKind} {rows : List (DWord × Nat)} (oks : MemOk s)
    {f : Failure} (hf : State.rowRuns s n x kind rows = .error f) : MemOk f.s := by
  unfold State.rowRuns at hf
  have h := State.rowsFrom_memOk n x kind rows s none [] oks
  split at hf
  · cases hf; rename_i e; rw [e] at h; exact h
  · cases hf

theorem State.uncorrAt_memOk (s : State) (n uid id : Nat) (a : Option DWord) (oks : MemOk s) : MemOk (State.uncorrAt s n uid id a) := by
  unfold State.uncorrAt
  split
  · exact oks
  · exact State.modCore_memOk _ _ _ oks

theorem State.startStore_memOk (s : State) (n : Nat) (c : Nat) (id : Nat) (ws : List (Nat × List Byte)) (ranges :
    List (Nat × Nat)) (oks : MemOk s) :
    MemOk (State.startStore s n c id ws ranges) := by
  unfold State.startStore
  grind [MemOk, State.modCtx_memOk, State.asyncWrites_memOk, State.placeAll_memOk, State.modCore_memOk]

theorem State.copyRuns_memOk (s : State) (n : Nat) (a2 : Ctx) (a : DWord) (len : Nat) (oks : MemOk s)
    {t : State × List (Option Nat × Nat × Nat)} (ht : State.copyRuns s n a2 a len = .ok t) : MemOk t.1 := by
  unfold State.copyRuns at ht
  dsimp only at ht
  split at ht
  · cases ht
  · cases ht
    refine memOk_foldl_fst (fun r a hr => ?_) _ _ oks
    split
    · exact State.runAt_memOk _ _ _ _ _ _ hr ‹_›
    · exact State.runAt_memOk _ _ _ _ _ _ hr ‹_›
    · exact State.runAt_memOk _ _ _ _ _ _ hr ‹_›
    · exact State.runAt_failOk hr ‹_›

theorem State.copyRuns_failOk {s : State} {n : Nat} {x : Ctx} {a : DWord} {len : Nat} (oks : MemOk s)
    {f : Failure} (hf : State.copyRuns s n x a len = .error f) : MemOk f.s := by
  unfold State.copyRuns at hf
  dsimp only at hf
  split at hf
  · cases hf
    refine memOk_foldl_fst (fun r a hr => ?_) _ _ oks
    split
    · exact State.runAt_memOk _ _ _ _ _ _ hr ‹_›
    · exact State.runAt_memOk _ _ _ _ _ _ hr ‹_›
    · exact State.runAt_memOk _ _ _ _ _ _ hr ‹_›
    · exact State.runAt_failOk hr ‹_›
  · cases hf

theorem State.startCopy_memOk (s : State) (n : Nat) (c : Nat) (src : DWord) (dst : Nat) (len : Nat)
    (runs : List (Option Nat × Nat × Nat)) (oks : MemOk s) :
    MemOk (State.startCopy s n c src dst len runs) := by
  unfold State.startCopy
  refine memOk_ite oks (State.modCore_memOk _ _ _ (State.modCtx_memOk _ _ _ _ ?_))
  refine memOk_foldl_fst (fun r p hr => ?_) _ _ (State.placeAll_memOk _ _ (State.takeId_memOk _ oks))
  obtain ⟨s, pos, bad⟩ := r
  obtain ⟨peer, a, m⟩ := p
  cases peer with
  | none => exact State.writeSpad_memOk _ _ _ (State.loadRuns_memOk _ _ _ _ hr)
  | some node =>
    exact memOk_ite_fst (State.sendRemote_memOk _ _ _ hr) (State.modCtx_memOk _ _ _ _ hr)

theorem State.readRows_memOk (s : State) (n : Nat) (runs : List (List (Nat × Nat))) (oks : MemOk s) :
    MemOk (State.readRows s n runs).1 := by
  unfold State.readRows
  grind [MemOk, State.loadRuns_memOk, State.placeAll_memOk]

theorem State.startLoad_memOk (s : State) (n : Nat) (c : Nat) (st : Nat) (rows : List RowRef) (runs : List (List (Nat
    × Nat))) (ranges : List (Nat × Nat)) (zeros : List (Nat × Nat)) (oks : MemOk s) :
    MemOk (State.startLoad s n c st rows runs ranges zeros) := by
  unfold State.startLoad
  exact State.modCore_memOk _ _ _ (State.modCtx_memOk _ _ _ _ (State.writeSpad_memOk _ _ _
    (State.readRows_memOk _ _ _ (State.takeId_memOk _ oks))))

theorem putAnswer_memOk (f : Fields) (e : Env) (s : State) (v : DWord) (oks : MemOk s) :
    MemOk (putAnswer f e s v) := by
  unfold putAnswer
  grind [MemOk, State.modCtx_memOk]

theorem State.answerWith_memOk (s : State) (e : Env) (v : DWord) (oks : MemOk s) :
    MemOk (State.answerWith s e v) := by
  unfold State.answerWith
  grind [MemOk, State.reply_memOk, State.irrevocable_memOk, State.hear_memOk]

theorem State.handOff_memOk (s : State) (n : Nat) (oks : MemOk s) :
    MemOk (State.handOff s n) := by
  unfold State.handOff
  grind [MemOk, State.raiseT_memOk]

theorem State.arrive_memOk (s : State) (grid : Nat) (level : Nat) (dom : Nat) (n : Nat) (uid : Nat) (oks : MemOk s) :
    MemOk (State.arrive s grid level dom n uid) := by
  unfold State.arrive
  grind [MemOk]

theorem State.swapPhase_memOk (s : State) (e : Env) (f : Fields) (src : DWord) (dst len : Nat)
    (runs : List (Option Nat × Nat × Nat)) (oks : MemOk s) :
    MemOk (State.swapPhase s e f src dst len runs) := by
  unfold State.swapPhase
  have h : MemOk (if e.x.task.record.prot = true then s.commitPhase e.n e.c else s) :=
    memOk_ite (State.commitPhase_memOk _ _ _ oks) oks
  have h := State.saveStore_memOk _ e.n e.x 48 (natLe 8 (e.x.buf.k + 1)) (State.modCtx_memOk _ e.n e.c (fun x =>
    { x with buf := { x.buf with
        k := x.buf.k + 1, desc := some (e.sA f), irrevocable := false, cancelled := false } }.putS e.b.latch f.d 1
      (BitVec.ofNat 64 (x.buf.k + 1))) (State.startCopy_memOk _ e.n e.c src dst len runs h))
  exact memOk_ite (State.modBundle_memOk _ _ _ _ h) h

theorem runStore_memOk (s : State) (f : Fields) (size : Nat) (oks : MemOk s)
    {t : State} (ht : runStore s f size = .next t) : MemOk t := by
  unfold runStore at ht
  grind [MemOk, SlotRes.memOk, runSlot_memOk, State.store_memOk]

theorem runAtomic_memOk (s : State) (f : Fields) (op : AmoOp) (oks : MemOk s)
    {t : State} (ht : runAtomic s f op = .next t) : MemOk t := by
  unfold runAtomic at ht
  grind [MemOk, SlotRes.memOk, runSlot_memOk, State.atomic_memOk]

theorem runLoad_memOk (s : State) (f : Fields) (kind : LandKind) (size : Nat) (oks : MemOk s)
    {t : State} (ht : runLoad s f kind size = .next t) : MemOk t := by
  unfold runLoad at ht
  grind [MemOk, SlotRes.memOk, runSlot_memOk, State.load_memOk]

theorem State.fillL2_memOk (s : State) (l : Nat) (oks : MemOk s) :
    MemOk (State.fillL2 s l) := State.reach_memOk s l oks

theorem State.fillL1_memOk (s : State) (n : Nat) (l : Nat) (oks : MemOk s) :
    MemOk (State.fillL1 s n l) := by
  unfold State.fillL1
  grind [MemOk, State.modCore_memOk, State.reach_memOk, Memory.setLine]

theorem State.storeTiles_memOk (s : State) (e : Env) (st : Nat) (g : Stream → TileAccess) (oks : MemOk s) :
    (State.storeTiles s e st g).memOk := by
  unfold State.storeTiles
  dsimp only
  split
  · trivial
  · split
    · exact State.rowRuns_failOk oks ‹_›
    · have h := State.takeId_memOk _ (State.rowRuns_memOk _ _ _ _ _ oks ‹_›)
      split
      · trivial
      · split
        · trivial
        · split
          · exact h
          · exact State.uncorrAt_memOk _ _ _ _ _ (State.startStore_memOk _ _ _ _ _ _ (State.modCtx_memOk _ _ _ _ h))

theorem runAdvance_memOk (s : State) (f : Fields) (g : Stream → Nat → Option Stream) (oks : MemOk s)
    {t : State} (ht : runAdvance s f g = .next t) : MemOk t := by
  refine runSlot_memOk _ _ oks (fun e u hu => ?_) ht
  dsimp only
  split
  · trivial
  · exact State.setCtx_memOk _ _ _ _ hu

theorem State.loadTiles_memOk (s : State) (e : Env) (st : Nat) (g : Stream → TileAccess) (oks : MemOk s) :
    (State.loadTiles s e st g).memOk := by
  unfold State.loadTiles
  dsimp only
  split
  · trivial
  · split
    · exact State.rowRuns_failOk oks ‹_›
    · have h := State.rowRuns_memOk _ _ _ _ _ oks ‹_›
      split
      · trivial
      · exact h
      · split
        · trivial
        · split
          · trivial
          · exact State.startLoad_memOk _ _ _ _ _ _ _ _ (State.modCtx_memOk _ _ _ _ h)

end Sys2Proof.Machine
end

