-- ==== Sys2Proof/Laws/UnitOps.lean ====
section
/-! SUPPORT. Every operation keeps the canonical form of physical memory (log 2): the units beside a core, and the matrix engine. -/

namespace Sys2Proof.Machine

theorem State.windowPage_memOk (s : State) (n : Nat) (q : Nat) (priv : Bool) (v : Nat) (oks : MemOk s)
    {t : State × Nat × Bool} (ht : State.windowPage s n q priv v = .ok t) : MemOk t.1 := by
  unfold State.windowPage at ht
  grind [MemOk, State.useLeaf_memOk]

theorem State.windowPages_memOk (s : State) (n : Nat) (q : Nat) (priv : Bool) (a : Nat) (npg : Nat) (oks : MemOk s)
    {t : State × List (Nat × Bool)} (ht : State.windowPages s n q priv a npg = .ok t) : MemOk t.1 := by
  unfold State.windowPages at ht
  dsimp only at ht
  split at ht
  · cases ht
  · rename_i hr
    have h := foldl_ok (P := fun q => MemOk q.1) (fun r i hr q hq => by
      split at hq
      · cases hq
      · split at hq
        · cases hq
        · cases hq; exact State.windowPage_memOk _ _ _ _ _ (hr _ rfl) ‹_›) _ _ (fun q hq => by cases hq; exact oks) _ hr
    split at ht
    · cases ht
    · cases ht; exact h

theorem State.recallWindow_memOk (s : State) (w : Window) (oks : MemOk s) :
    MemOk (State.recallWindow s w) := by
  unfold State.recallWindow
  grind [MemOk, State.recall_memOk, memOk_foldl, memOk_foldl_fst, memOk_bytes, Memory.setLine]

theorem runRecall_memOk (s : State) (f : Fields) (free : Bool) (oks : MemOk s)
    {t : State} (ht : runRecall s f free = .next t) : MemOk t := by
  refine runSlot_memOk _ _ oks (fun e u hu => ?_) ht
  dsimp only
  split
  · trivial
  · have h := State.recallWindow_memOk _ ‹_› hu
    split
    · exact State.modCtx_memOk _ _ _ _ h
    · exact h

theorem runSlice_memOk (s : State) (g : Env → State → Req) (commit : Env → State → DWord → State) (oks : MemOk s)
    (okg : ∀ e t, MemOk t → (g e t).memOk) (okcommit : ∀ e t v, MemOk t → MemOk (commit e t v))
    {t : State} (ht : runSlice s g commit = .next t) : MemOk t := by
  refine runRequest_memOk _ _ _ oks (fun e u hu => ?_) okcommit ht
  have h := okg e (u.slcHear e.n) hu
  have sent (w : State) (hw : MemOk w) : MemOk ((w.slcHear e.n).irrevocable e.n e.c) := State.irrevocable_memOk _ _ _ hw
  dsimp only
  split
  · trivial
  · rename_i hr; rw [hr] at h; exact h
  · rename_i hr; rw [hr] at h; exact sent _ h
  · rename_i hr; rw [hr] at h; exact h
  · rename_i hr; rw [hr] at h
    exact State.raiseT_memOk _ _ _ (State.reply_memOk _ _ _ (State.serveSlices_memOk _ (sent _ h)))
  · rename_i hr; rw [hr] at h
    exact State.serveSlices_memOk _ (State.reply_memOk _ _ _ (sent _ h))

theorem onChain_memOk (s : State) (e : Env) (h : DWord) (token : Option Bool) (owner : Bool) (g : Nat → Chain → Req)
    (_oks : MemOk s) (okg : ∀ h k, (g h k).memOk) :
    (onChain s e h token owner g).memOk := by
  unfold onChain
  grind [MemOk, Req.memOk]

theorem onSlice_memOk (s : State) (e : Env) (r : DWord) (token : Option Bool) (owner : Bool) (g : Nat → Nat → Chain →
    Slice → Req) (_oks : MemOk s) (okg : ∀ h m k x, (g h m k x).memOk) :
    (onSlice s e r token owner g).memOk := by
  unfold onSlice
  grind [MemOk, Req.memOk]

theorem runSliceOnly_memOk (s : State) (g : Env → State → Req) (oks : MemOk s) (okg : ∀ e t, MemOk t → (g e t).memOk)
    {t : State} (ht : runSliceOnly s g = .next t) : MemOk t := by
  exact runSlice_memOk _ _ _ oks okg (fun _ _ _ h => h) ht

theorem State.poolWords_memOk (s : State) (e : Env) (d : ChainDesc) (oks : MemOk s)
    {t : State × List Nat} (ht : State.poolWords s e d = .ok t) : MemOk t.1 := by
  unfold State.poolWords at ht
  split at ht
  · cases ht; exact oks
  · split at ht
    · cases ht
    · cases ht; exact State.rowRuns_memOk _ _ _ _ _ oks ‹_›

theorem State.recallShard_memOk (s : State) (oks : MemOk s) : MemOk (State.recallShard s) :=
  memOk_foldl (fun t (e : Nat × HomeLine) ht => State.recall_memOk t e.1 ht) _ _ oks

theorem runSeal_memOk (s : State) (f : Fields) (every : Bool) (oks : MemOk s)
    {t : State} (ht : runSeal s f every = .next t) : MemOk t := by
  refine runRequest_memOk _ _ _ oks (fun e u hu => ?_) (fun _ _ _ h => h) ht
  dsimp only
  split
  · trivial
  · split
    · trivial
    · exact State.answerWith_memOk _ _ _ (State.modCtx_memOk _ _ _ _ (State.recallShard_memOk _ (State.placeAll_memOk u e.n hu)))

theorem State.beginStep_memOk (s : State) (step : DWord) (oks : MemOk s) :
    MemOk (State.beginStep s step).1 := by
  unfold State.beginStep
  grind [MemOk]

theorem State.serveBegins_memOk (s : State) (oks : MemOk s) :
    MemOk (State.serveBegins s) := by
  unfold State.serveBegins
  exact memOk_ite oks (memOk_foldl (fun _ _ h => State.modCore_memOk _ _ _ (State.beginStep_memOk _ _ h)) _ _ oks)

theorem runFloat_memOk (s : State) (i : Instr) (md : Bool) (g : Rnd → Num → Num → Num → Num × BitVec 5) (oks : MemOk
    s)
    {t : State} (ht : runFloat s i md g = .next t) : MemOk t := by
  unfold runFloat at ht
  grind [MemOk, runLanes_memOk]

theorem runExact_memOk (s : State) (i : Instr) (md : Bool) (g : Num → Num → Num) (oks : MemOk s)
    {t : State} (ht : runExact s i md g = .next t) : MemOk t := by
  unfold runExact at ht
  grind [MemOk, runBits_memOk]

theorem runReduce_memOk (s : State) (i : Instr) (row : Bool) (md : Bool) (g : Rnd → List Num → Num × BitVec 5) (oks :
    MemOk s)
    {t : State} (ht : runReduce s i row md g = .next t) : MemOk t := by
  unfold runReduce at ht
  grind [MemOk, runVec_memOk]

theorem runShuffle_memOk (s : State) (i : Instr) (g : Env → Lanes → Lanes → Nat → Word) (oks : MemOk s)
    {t : State} (ht : runShuffle s i g = .next t) : MemOk t := by
  unfold runShuffle at ht
  grind [MemOk, runVec_memOk]

theorem runMask_memOk (s : State) (f : Fields) (g : Env → Mask) (oks : MemOk s)
    {t : State} (ht : runMask s f g = .next t) : MemOk t := by
  unfold runMask at ht
  grind [MemOk, runLocal_memOk]

theorem runSpecial_memOk (s : State) (i : Instr) (md : Bool) (g : Fmt → Num → Nat × BitVec 5) (oks : MemOk s)
    {t : State} (ht : runSpecial s i md g = .next t) : MemOk t := by
  unfold runSpecial at ht
  grind [MemOk, runLanes_memOk]

theorem State.rangesFail_memOk (s : State) (e : Env) (kind : AccessKind) (rs : List (DWord × Nat)) (oks : MemOk s) :
    MemOk (State.rangesFail s e kind rs).1 := by
  unfold State.rangesFail
  refine memOk_foldl_fst (fun r a hr => memOk_foldl_fst (fun r a hr => ?_) _ _ hr) _ _ oks
  split
  · exact State.runAt_memOk _ _ _ _ _ _ hr ‹_›
  · exact State.runAt_memOk _ _ _ _ _ _ hr ‹_›
  · exact State.runAt_memOk _ _ _ _ _ _ hr ‹_›
  · exact State.runAt_failOk hr ‹_›

theorem State.readEach_memOk (e : Env) (a1 : State) (a2 : List (DWord × Nat)) (oka1 : MemOk a1) :
    (State.readEach e a1 a2).memOk := by
  induction a2 generalizing a1 with
  | nil => exact oka1
  | cons r rs ih =>
    unfold State.readEach
    have h := State.readBlocking_memOk _ e r.1 r.2 oka1
    split
    · rename_i hr; rw [hr] at h; exact h
    · rename_i hr; rw [hr] at h; exact h
    · rename_i hr; rw [hr] at h
      have h2 := ih _ h
      split
      · rename_i hr2; rw [hr2] at h2; exact h2
      · exact h2

theorem State.latchPass_memOk (s : State) (e : Env) (k : Block) (uniforms : Bool) (extra : List (DWord × Nat)) (oks :
    MemOk s) :
    (State.latchPass s e k uniforms extra).memOk := by
  unfold State.latchPass
  grind [MemOk, Latched.memOk, RangesRes.memOk, State.rangesFail_memOk, State.readEach_memOk]

theorem State.readRanges_memOk (s : State) (e : Env) (rs : List (DWord × Nat)) (oks : MemOk s) :
    (State.readRanges s e rs).memOk := by
  unfold State.readRanges
  grind [MemOk, RangesRes.memOk, State.rangesFail_memOk, State.readEach_memOk]

theorem State.spillPlaces_memOk (s : State) (e : Env) (a : DWord) (n : Nat) (oks : MemOk s)
    {t : State} (ht : State.spillPlaces s e a n = .ok t) : MemOk t := by
  unfold State.spillPlaces at ht
  grind [MemOk, State.rangesFail_memOk]

theorem sampled_memOk (e : Env) (f : Fields) (s : State) (r : Nat) (found : Bool) (reason : Nat) (oks : MemOk s) :
    (sampled e f s r found reason).memOk := by
  unfold sampled
  grind [MemOk, SlotRes.memOk, State.modCtx_memOk]

theorem State.latchKept_memOk (s : State) (e : Env) (r : Nat) (ids : List Word) (oks : MemOk s) :
    (State.latchKept s e r ids).memOk := by
  unfold State.latchKept
  grind [MemOk, Latched.memOk, RangesRes.memOk, State.readRanges_memOk]

theorem runCand_memOk (s : State) (ok : Env → Bool) (g : Env → Cand → Cand) (oks : MemOk s)
    {t : State} (ht : runCand s ok g = .next t) : MemOk t := by
  refine runSlot_memOk _ _ oks (fun e u hu => ?_) ht
  split
  · exact State.setCtx_memOk _ _ _ _ hu
  · trivial

theorem runNorm_memOk (s : State) (f : Fields) (g : Row → Word → Word → Row) (oks : MemOk s)
    {t : State} (ht : runNorm s f g = .next t) : MemOk t := by
  unfold runNorm at ht
  grind [MemOk, runCand_memOk]

theorem State.spillRow_memOk (s : State) (e : Env) (a : DWord) (r : Row) (oks : MemOk s) :
    MemOk (State.spillRow s e a r) := by
  unfold State.spillRow
  split
  · exact oks
  · exact State.storeAt_memOk _ _ _ _ _ (State.places_memOk _ _ _ _ _ _ oks ‹_›)

theorem State.modOwner_memOk (s : State) (n : Nat) (uid : Nat) (g : Ctx → Ctx) (oks : MemOk s) :
    MemOk (State.modOwner s n uid g) := by
  unfold State.modOwner
  grind [MemOk, State.modCore_memOk]

theorem State.writeRing_memOk (s : State) (n : Nat) (qt : Nat) (ts : List Tile) (fill : Nat) (bands : Nat) (d :
    Drained) (oks : MemOk s) :
    MemOk (State.writeRing s n qt ts fill bands d) := by
  unfold State.writeRing
  grind [MemOk, State.writeSpad_memOk, memOk_foldl, memOk_foldl_fst, memOk_bytes, Memory.setLine]

theorem State.runDrain_memOk (s : State) (n : Nat) (a2 : Ctx) (m : MatEntry) (acc : Nat) (epi : SMap Byte) (e4nan :
    Bool) (bias : Nat) (dest : DrainDest) (pass : PassLatch) (oks : MemOk s) :
    MemOk (State.runDrain s n a2 m acc epi e4nan bias dest pass).1 := by
  unfold State.runDrain
  grind [MemOk, State.modOwner_memOk, State.writeRing_memOk]

theorem State.runComp_memOk (s : State) (n : Nat) (a2 : Ctx) (fine : Bool) (d : Nat) (a0 : Tile) (a1 : Tile) (out :
    Tile) (oks : MemOk s) :
    MemOk (State.runComp s n a2 fine d a0 a1 out) := by
  unfold State.runComp
  grind [MemOk, State.writeSpad_memOk, State.modOwner_memOk, memOk_foldl, memOk_foldl_fst, memOk_bytes,
    Memory.setLine]

theorem State.writeRow_memOk (s : State) (n : Nat) (uid : Nat) (pa : Nat) (bs : List Byte) (oks : MemOk s) :
    MemOk (State.writeRow s n uid pa bs) :=
  State.modOwner_memOk _ _ _ _ (State.monitorWrite_memOk _ _ _ (State.storeTogether_memOk _ _ _ oks))

theorem State.runDacc_memOk (s : State) (n : Nat) (a2 : Ctx) (m : MatEntry) (clamp : Bool) (acc : Nat) (rows : List
    RowPlace) (oks : MemOk s) :
    MemOk (State.runDacc s n a2 m clamp acc rows).1 := by
  refine memOk_foldl_fst (fun r p hr => ?_) _ _ (State.placeAll_memOk _ _ oks)
  obtain ⟨p | p, i⟩ := p
  · exact State.writeSpad_memOk _ _ _ hr
  · exact State.writeRow_memOk _ _ _ _ _ hr

theorem State.runProj_memOk (s : State) (n : Nat) (a2 : Ctx) (m : MatEntry) (race : Bool) (regen : Bool) (acc : Nat)
    (a : Tile) (b : Tile) (ctl : DWord) (p : PassLatch) (oks : MemOk s) :
    MemOk (State.runProj s n a2 m race regen acc a b ctl p).1 := by
  unfold State.runProj
  grind [MemOk, State.modOwner_memOk]

theorem State.runPair_memOk (s : State) (n : Nat) (a2 : Ctx) (m : MatEntry) (race : Bool) (acc : Nat) (ts : List
    Tile) (ctl : DWord) (p : PassLatch) (oks : MemOk s) :
    MemOk (State.runPair s n a2 m race acc ts ctl p).1 := by
  unfold State.runPair
  grind [MemOk, State.modOwner_memOk]

theorem State.runOp_memOk (s : State) (n : Nat) (m : MatEntry) (oks : MemOk s) :
    MemOk (State.runOp s n m).1 := by
  unfold State.runOp
  grind [MemOk, State.modOwner_memOk, State.runComp_memOk, State.runDrain_memOk, State.runDacc_memOk,
    State.modCore_memOk, State.runProj_memOk, State.runPair_memOk]

theorem State.retireEntry_memOk (s : State) (n : Nat) (oks : MemOk s) :
    MemOk (State.retireEntry s n) := by
  unfold State.retireEntry
  grind [MemOk, State.modCore_memOk, State.leaveCounter_memOk, State.modOwner_memOk]

theorem State.routineTo_memOk (s : State) (v : RoutineEnv) (w : Nat) (oks : MemOk s) :
    MemOk (State.routineTo s v w) := by
  unfold State.routineTo
  grind [MemOk, State.modCore_memOk]

theorem State.routineDone_memOk (s : State) (n : Nat) (r : Routine) (oks : MemOk s) :
    MemOk (State.routineDone s n r) := by
  unfold State.routineDone
  grind [MemOk, State.modCore_memOk]

theorem State.routineError_memOk (s : State) (n : Nat) (r : Routine) (cause : BitVec 8) (taddr : Option DWord) (w :
    Nat) (oks : MemOk s) :
    MemOk (State.routineError s n r cause taddr w) := by
  unfold State.routineError
  grind [MemOk, State.modOwner_memOk, State.routineDone_memOk]

theorem runWord_memOk (s : State) (body : RoutineEnv → State → WordRes) (oks : MemOk s) (okbody : ∀ e t, MemOk t →
    (body e t).memOk)
    {t : State} (ht : runWord s body = .next t) : MemOk t := by
  unfold runWord at ht
  grind [MemOk, WordRes.memOk, State.routineTo_memOk, State.routineError_memOk]

theorem runT_memOk (s : State) (slot : Env → State → SlotRes) (word : RoutineEnv → State → WordRes) (oks : MemOk s)
    (okslot : ∀ e t, MemOk t → (slot e t).memOk) (okword : ∀ e t, MemOk t → (word e t).memOk)
    {t : State} (ht : runT s slot word = .next t) : MemOk t := by
  unfold runT at ht
  grind [MemOk, SlotRes.memOk, WordRes.memOk, runSlot_memOk, runWord_memOk]

theorem runTSlot_memOk (s : State) (slot : Env → State → SlotRes) (oks : MemOk s) (okslot : ∀ e t, MemOk t → (slot e
    t).memOk)
    {t : State} (ht : runTSlot s slot = .next t) : MemOk t := by
  refine runT_memOk _ _ _ oks okslot (fun e u hu => ?_) ht
  trivial

theorem State.enqueue_memOk (s : State) (e : Env) (id : Nat) (a3 : Ctx) (op : MatOp) (reads : List (Nat × Nat))
    (writes : List (Nat × Nat)) (oks : MemOk s) :
    MemOk (State.enqueue s e id a3 op reads writes) := by
  unfold State.enqueue
  grind [MemOk, State.modCore_memOk, State.setCtx_memOk]

theorem queueSlot_memOk (plan : Env → State → Nat → Plan) (e : Env) (s : State) (okplan : ∀ e t i, MemOk t → (plan e
    t i).memOk) (oks : MemOk s) :
    (queueSlot plan e s).memOk := by
  unfold queueSlot
  grind [MemOk, Plan.memOk, SlotRes.memOk, State.takeId_memOk, State.enqueue_memOk, State.reply_memOk]

theorem planProj_memOk (ctl : DWord) (ok : Bool) (sts : List Nat) (uniforms : Bool) (extra : List (DWord × Nat)) (op
    : List Tile → PassLatch → MatOp) (e : Env) (s : State) (id : Nat) (oks : MemOk s) :
    (planProj ctl ok sts uniforms extra op e s id).memOk := by
  unfold planProj
  grind [MemOk, Latched.memOk, Plan.memOk, State.latchPass_memOk]

theorem runProjectionPair_memOk (s : State) (f : Fields) (race : Bool) (oks : MemOk s)
    {t : State} (ht : runProjectionPair s f race = .next t) : MemOk t := by
  unfold runProjectionPair at ht
  grind [MemOk, Plan.memOk, SlotRes.memOk, runTSlot_memOk, queueSlot_memOk, planProj_memOk]

theorem runControl_memOk (s : State) (word : RoutineEnv → State → WordRes) (oks : MemOk s) (okword : ∀ e t, MemOk t →
    (word e t).memOk)
    {t : State} (ht : runControl s word = .next t) : MemOk t := by
  refine runT_memOk _ _ _ oks (fun e u hu => ?_) okword ht
  trivial

theorem State.runChecked_memOk (s : State) (n : Nat) (m : MatEntry) (oks : MemOk s) : MemOk (State.runChecked s n m).1 :=
  State.uncorrAt_memOk _ _ _ _ _ (State.runOp_memOk _ _ _ oks)

theorem engineWord_memOk (plan : RoutineEnv → State → Nat → Plan) (v : RoutineEnv) (s : State) (okplan : ∀ e t i,
    MemOk t → (plan e t i).memOk) (oks : MemOk s) :
    (engineWord plan v s).memOk := by
  unfold engineWord
  have h := okplan v _ s.takeId.1 (State.takeId_memOk _ oks)
  dsimp only
  split <;> rename_i hp <;> rw [hp] at h
  · trivial
  · exact h
  · trivial
  · trivial
  · split
    · trivial
    · split
      · trivial
      · exact State.modCore_memOk _ _ _ (State.modOwner_memOk _ _ _ _ (State.runChecked_memOk _ _ _ (State.modOwner_memOk _ _ _ _ h)))

theorem runQueued_memOk (s : State) (slot : Env → State → Nat → Plan) (word : RoutineEnv → State → Nat → Plan) (oks :
    MemOk s) (okslot : ∀ e t i, MemOk t → (slot e t i).memOk) (okword : ∀ e t i, MemOk t → (word e t i).memOk)
    {t : State} (ht : runQueued s slot word = .next t) : MemOk t := by
  unfold runQueued at ht
  grind [MemOk, Plan.memOk, SlotRes.memOk, WordRes.memOk, runT_memOk, queueSlot_memOk, engineWord_memOk]

theorem planSpmma_memOk (f : Fields) (fine : Bool) (v : Nat → Lanes) (a3 : Ctx) (s : State) (id : Nat) (oks : MemOk
    s) :
    (planSpmma f fine v a3 s id).memOk := by
  unfold planSpmma
  grind [MemOk, Plan.memOk]

theorem runSpmma_memOk (s : State) (f : Fields) (fine : Bool) (oks : MemOk s)
    {t : State} (ht : runSpmma s f fine = .next t) : MemOk t := by
  unfold runSpmma at ht
  grind [MemOk, Plan.memOk, runQueued_memOk, planSpmma_memOk]

theorem State.daccRows_memOk (s : State) (n : Nat) (a2 : Ctx) (a : DWord) (stride : DWord) (oks : MemOk s)
    {t : State × List RowPlace} (ht : State.daccRows s n a2 a stride = .ok t) : MemOk t.1 := by
  unfold State.daccRows at ht
  dsimp only at ht
  split at ht
  · cases ht
  · cases ht
    refine memOk_foldl_fst (fun r a hr => ?_) _ _ oks
    split
    · exact State.places_failOk hr ‹_›
    · have h := State.places_memOk _ _ _ _ _ _ hr ‹_›
      split
      · exact State.places_failOk h ‹_›
      · exact State.places_memOk _ _ _ _ _ _ h ‹_›
      · exact State.places_memOk _ _ _ _ _ _ h ‹_›
      · exact State.places_memOk _ _ _ _ _ _ h ‹_›

theorem State.daccRows_failOk {s : State} {n : Nat} {x : Ctx} {a stride : DWord} (oks : MemOk s)
    {f : Failure} (hf : State.daccRows s n x a stride = .error f) : MemOk f.s := by
  unfold State.daccRows at hf
  dsimp only at hf
  split at hf
  · cases hf
    refine memOk_foldl_fst (fun r a hr => ?_) _ _ oks
    split
    · exact State.places_failOk hr ‹_›
    · have h := State.places_memOk _ _ _ _ _ _ hr ‹_›
      split
      · exact State.places_failOk h ‹_›
      · exact State.places_memOk _ _ _ _ _ _ h ‹_›
      · exact State.places_memOk _ _ _ _ _ _ h ‹_›
      · exact State.places_memOk _ _ _ _ _ _ h ‹_›
  · cases hf

theorem planDacc_memOk (f : Fields) (clamp : Bool) (n : Nat) (a3 : Ctx) (px : Ctx) (a : DWord) (stride : DWord) (s :
    State) (oks : MemOk s) :
    (planDacc f clamp n a3 px a stride s).memOk := by
  unfold planDacc
  split
  · trivial
  · split
    · trivial
    · split
      · exact State.daccRows_failOk oks ‹_›
      · exact State.daccRows_memOk _ _ _ _ _ oks ‹_›

theorem runDacc_memOk (s : State) (f : Fields) (clamp : Bool) (oks : MemOk s)
    {t : State} (ht : runDacc s f clamp = .next t) : MemOk t := by
  unfold runDacc at ht
  grind [MemOk, Plan.memOk, runQueued_memOk, planDacc_memOk]

theorem planComp_memOk (f : Fields) (fine : Bool) (e : Env) (s : State) (id : Nat) (oks : MemOk s) :
    (planComp f fine e s id).memOk := by
  unfold planComp
  grind [MemOk, Plan.memOk]

theorem planMma_memOk (f : Fields) (cell : Bool) (a2 : Ctx) (s : State) (id : Nat) (oks : MemOk s) :
    (planMma f cell a2 s id).memOk := by
  unfold planMma
  grind [MemOk, Plan.memOk]

theorem runMma_memOk (s : State) (f : Fields) (cell : Bool) (oks : MemOk s)
    {t : State} (ht : runMma s f cell = .next t) : MemOk t := by
  unfold runMma at ht
  grind [MemOk, Plan.memOk, runQueued_memOk, planMma_memOk]

theorem State.park_memOk (s : State) (n : Nat) (r : Routine) (oks : MemOk s) :
    MemOk (State.park s n r) := by
  unfold State.park
  have h := State.modOwner_memOk _ n r.uid (fun x => { x with
    parkedRoutine := some r, parked := (s.core n).queue.filter fun m => m.uid = r.uid })
    (State.modCore_memOk s n (fun k => { k with routine := none, queue := k.queue.filter fun m => m.uid != r.uid }) oks)
  dsimp only
  split
  · exact memOk_ite h (State.saveRegions_memOk _ _ _ _ h)
  · exact h

theorem State.unpark_memOk (s : State) (n : Nat) (a2 : Ctx) (oks : MemOk s) :
    MemOk (State.unpark s n a2) := by
  unfold State.unpark
  grind [MemOk, State.modOwner_memOk, State.modCore_memOk]

theorem planRegs_memOk (f : Fields) (w : DWord) (e4nan : Bool) (a3 : Ctx) (s : State) (oks : MemOk s) :
    (planRegs f w e4nan a3 s).memOk := by
  unfold planRegs
  grind [MemOk, Plan.memOk]

theorem planRing_memOk (f : Fields) (w : DWord) (e4nan : Bool) (a3 : Ctx) (s : State) (oks : MemOk s) :
    (planRing f w e4nan a3 s).memOk := by
  unfold planRing
  grind [MemOk, Plan.memOk]

theorem planPath_memOk (f : Fields) (w : DWord) (e4nan : Bool) (e : Env) (s : State) (oks : MemOk s) :
    (planPath f w e4nan e s).memOk := by
  unfold planPath
  grind [MemOk, Latched.memOk, Plan.memOk, State.latchPass_memOk]

theorem State.setMp_memOk (s : State) (n uid d : Nat) (v : DWord) (oks : MemOk s) : MemOk (State.setMp s n uid d v) := by
  unfold State.setMp
  dsimp only
  split
  · exact State.saveStore_memOk _ _ _ _ _ (State.modOwner_memOk _ _ _ _ oks)
  · exact State.modOwner_memOk _ _ _ _ oks

theorem runMpset_memOk (s : State) (f : Fields) (g : DWord → DWord → DWord) (oks : MemOk s)
    {t : State} (ht : runMpset s f g = .next t) : MemOk t := by
  refine runT_memOk _ _ _ oks (fun e u hu => ?_) (fun v u hu => ?_) ht
  · split
    · exact hu
    · exact State.setCtx_memOk _ _ _ _ hu
  · exact State.setMp_memOk _ _ _ _ _ hu

theorem runProjection_memOk (s : State) (f : Fields) (race : Bool) (oks : MemOk s)
    {t : State} (ht : runProjection s f race = .next t) : MemOk t := by
  unfold runProjection at ht
  grind [MemOk, Plan.memOk, SlotRes.memOk, runTSlot_memOk, queueSlot_memOk, planProj_memOk, memOk_foldl,
    memOk_foldl_fst, memOk_bytes, Memory.setLine]

end Sys2Proof.Machine
end

