-- ==== Sys2Proof/Laws/PackageOps.lean ====
section
/-! SUPPORT. Every operation keeps the canonical form of physical memory (log 2): the package: placement, completions, faults and turns. -/

namespace Sys2Proof.Machine

theorem State.edgeAnswer_memOk (s : State) (e : Env) (v : DWord) (oks : MemOk s) :
    MemOk (State.edgeAnswer s e v) := by
  unfold State.edgeAnswer
  grind [MemOk, State.reply_memOk, State.irrevocable_memOk, State.raiseT_memOk]

theorem runFire_memOk (s : State) (a : Env → EndAct) (oks : MemOk s)
    {t : State} (ht : runFire s a = .next t) : MemOk t := by
  refine runRequest_memOk _ _ _ oks (fun e u hu => ?_) (fun e u v hu => ?_) ht
  · exact State.edgeAnswer_memOk _ _ _ hu
  · exact State.modBundle_memOk _ _ _ _ hu

theorem State.failStep_memOk (s : State) (w : WalkStep) (oks : MemOk s) :
    MemOk (State.failStep s w) := by
  unfold State.failStep
  grind [MemOk, State.serveSlices_memOk, State.coarseFail_memOk]

theorem State.failWalk_memOk (s : State) (w : Option WalkStep) (oks : MemOk s) :
    MemOk (State.failWalk s w) := by
  unfold State.failWalk
  grind [MemOk, State.failStep_memOk]

theorem State.retireGrid_memOk (s : State) (gid : Nat) (g : Grid) (oks : MemOk s) :
    MemOk (State.retireGrid s gid g) := by
  unfold State.retireGrid
  grind [MemOk, State.setQueue_memOk, State.complete_memOk, State.readRecord_memOk, State.failWalk_memOk]

theorem State.retireOver_memOk (s : State) (gid : Nat) (oks : MemOk s) :
    MemOk (State.retireOver s gid) := by
  unfold State.retireOver
  grind [MemOk, State.retireGrid_memOk]

theorem State.discardWork_memOk (s : State) (q : Nat) (oks : MemOk s) :
    MemOk (State.discardWork s q) := by
  unfold State.discardWork
  grind [MemOk, State.setQueue_memOk, State.retireOver_memOk, State.failStep_memOk, memOk_foldl, memOk_foldl_fst,
    memOk_bytes, Memory.setLine]

theorem State.idle_memOk (s : State) (oks : MemOk s) :
    MemOk (State.idle s) := by
  unfold State.idle
  grind [MemOk]

theorem State.placeMember_memOk (s : State) (n : Nat) (c : Nat) (t : Task) (oks : MemOk s) :
    MemOk (State.placeMember s n c t) := by
  unfold State.placeMember
  grind [MemOk, State.unitWrite_memOk, State.setCtx_memOk]

theorem State.placeMembers_memOk (n : Nat) (l : List ((Header × Nat) × Nat)) (g : Header × Nat → Task) (s : State) (oks : MemOk s) :
    MemOk (l.foldl (fun s m => s.placeMember n m.2 (g m.1)) s) :=
  memOk_foldl (fun _ _ h => State.placeMember_memOk _ _ _ _ h) l s oks

theorem State.placeOn_memOk (s : State) (gid : Nat) (g : Grid) (n : Nat) (oks : MemOk s) :
    MemOk (State.placeOn s gid g n) := by
  unfold State.placeOn
  extract_lets k ms ends gslot task s1 s2 s3 s4 s5
  have h5 : MemOk s5 := State.handOff_memOk _ _
    (State.placeMembers_memOk n _ task s2 (State.setCore_memOk s1 _ _ oks))
  exact memOk_ite (State.raiseT_memOk _ _ _ h5) h5

theorem State.placeTask_memOk (s : State) (cores : List Nat) (gid : Nat) (oks : MemOk s)
    {t : State} (ht : State.placeTask s cores gid = some t) : MemOk t := by
  unfold State.placeTask at ht
  split at ht
  · cases ht
  · obtain ⟨a, _, rfl⟩ := Option.map_eq_some_iff.mp ht
    exact State.placeOn_memOk _ _ _ _ oks

theorem State.placeTasks_memOk (cores : List Nat) (gid : Nat) (a2 : Nat) (a3 : State) (oka3 : MemOk a3) :
    MemOk (State.placeTasks cores gid a2 a3).1 := by
  induction a2 generalizing a3 with
  | zero => exact oka3
  | succ k ih =>
    unfold State.placeTasks
    split
    · exact oka3
    · exact ih _ (State.placeTask_memOk _ _ _ oka3 ‹_›)

theorem State.tryPlace_memOk (s : State) (gid : Nat) (oks : MemOk s) :
    (State.tryPlace s gid).memOk := by
  unfold State.tryPlace
  grind [MemOk, Tried.memOk, State.placeTasks_memOk, State.setQueue_memOk]

theorem State.resetQueue_memOk (s : State) (q : Nat) (oks : MemOk s) :
    MemOk (State.resetQueue s q) := by
  unfold State.resetQueue
  grind [MemOk, State.discardWork_memOk, State.setQueue_memOk, State.unitWrite_memOk]

theorem State.countFreed_memOk (s : State) (x : Ctx) (oks : MemOk s) : MemOk (State.countFreed s x) := by
  unfold State.countFreed
  split
  · exact oks
  · exact State.retireOver_memOk _ _ oks

theorem State.freeContext_memOk (s : State) (n : Nat) (c : Nat) (oks : MemOk s) :
    MemOk (State.freeContext s n c) :=
  State.countFreed_memOk _ _ (State.setCore_memOk _ _ _ (State.hear_memOk s n oks))

theorem State.freeSuspended_memOk (s : State) (n : Nat) (uid : Nat) (x : Ctx) (oks : MemOk s) :
    MemOk (State.freeSuspended s n uid x) :=
  State.countFreed_memOk _ _ (State.setCore_memOk _ _ _ (State.hear_memOk s n oks))

theorem State.freeOver_memOk (s : State) (n : Nat) (c : Nat) (oks : MemOk s)
    {t : State} (ht : State.freeOver s n c = some t) : MemOk t := by
  unfold State.freeOver at ht
  split at ht
  · cases ht; exact State.freeContext_memOk _ _ _ oks
  · obtain ⟨e, _, rfl⟩ := Option.map_eq_some_iff.mp ht
    exact State.freeSuspended_memOk _ _ _ _ oks

theorem runEvent_memOk (s : State) (g : Input → State → Option State) (oks : MemOk s) (okg : ∀ x t u, MemOk t → g x t
    = some u → MemOk u)
    {t : State} (ht : runEvent s g = .next t) : MemOk t := by
  unfold runEvent at ht
  dsimp only at ht
  cases ht
  cases hg : g s.input { s with input := .none } with
  | none => exact oks
  | some u => exact okg s.input { s with input := .none } u oks hg

theorem State.refill_memOk (s : State) (q : Nat) (oks : MemOk s)
    {t : State} (ht : State.refill s q = some t) : MemOk t := by
  unfold State.refill at ht
  grind [MemOk, State.unitWrite_memOk, State.setQueue_memOk, State.complete_memOk]

theorem State.discardLate_memOk (s : State) (q : Nat) (oks : MemOk s) :
    MemOk (State.discardLate s q) := by
  unfold State.discardLate
  grind [MemOk, State.setQueue_memOk, State.monitor_memOk, State.complete_memOk]

theorem State.readHeaders_memOk (s : State) (q : Nat) (a2 : List DWord) (oks : MemOk s) :
    MemOk (State.readHeaders s q a2).1 := by
  induction a2 generalizing s with
  | nil => exact oks
  | cons a l ih =>
    unfold State.readHeaders
    have h := State.readRecord_memOk s q a 64 oks
    split
    · rename_i hr; rw [hr] at h; exact h
    · rename_i hr; rw [hr] at h
      have h2 := ih _ h
      split
      · rename_i hr2; rw [hr2] at h2; exact h2
      · rename_i hr2; rw [hr2] at h2; exact h2

theorem State.checkHead_memOk (s : State) (q : Nat) (h : Head) (oks : MemOk s) :
    MemOk (State.checkHead s q h).1 := by
  unfold State.checkHead
  grind [MemOk, State.readHeaders_memOk]

theorem State.refuseHead_memOk (s : State) (q : Nat) (h : Head) (status : Nat) (oks : MemOk s) :
    MemOk (State.refuseHead s q h status) := by
  unfold State.refuseHead
  grind [MemOk, State.failWalk_memOk, State.complete_memOk]

theorem State.refuseCycle_memOk (s : State) (q : Nat) (gid : Nat) (oks : MemOk s) :
    MemOk (State.refuseCycle s q gid) := by
  unfold State.refuseCycle
  grind [MemOk, State.setQueue_memOk, State.failWalk_memOk, State.complete_memOk]

theorem State.searchAgain_memOk (s : State) (q : Nat) (gid : Nat) (oks : MemOk s) :
    MemOk (State.searchAgain s q gid).1 := by
  unfold State.searchAgain
  grind [MemOk, Tried.memOk, State.tryPlace_memOk, State.refuseCycle_memOk]

theorem State.pushRecord_memOk (s : State) (q : Nat) (h : Head) (r : Record) (oks : MemOk s) :
    MemOk (State.pushRecord s q h r) := by
  unfold State.pushRecord
  grind [MemOk, State.complete_memOk, State.failWalk_memOk]

theorem State.takeGrid_memOk (s : State) (q : Nat) (h : Head) (r : Record) (hs : List Header) (oks : MemOk s) :
    MemOk (State.takeGrid s q h r hs).1 := by
  unfold State.takeGrid
  grind [MemOk, State.takeId_memOk, State.refuseHead_memOk, State.searchAgain_memOk, State.setQueue_memOk]

theorem State.serveQueue_memOk (s : State) (q : Nat) (oks : MemOk s) :
    MemOk (State.serveQueue s q).1 := by
  unfold State.serveQueue
  grind [MemOk, State.searchAgain_memOk, State.checkHead_memOk, State.setQueue_memOk, State.refuseHead_memOk,
    State.pushRecord_memOk, State.takeGrid_memOk]

theorem State.serveRound_memOk (a0 : List Nat) (a1 : State) (oka1 : MemOk a1) :
    MemOk (State.serveRound a0 a1) := by
  induction a0 generalizing a1 with
  | nil => exact oka1
  | cons q l ih =>
    unfold State.serveRound
    have h := State.serveQueue_memOk a1 q oka1
    split
    · rename_i hr; rw [hr] at h; exact h
    · rename_i hr; rw [hr] at h; exact ih _ h

theorem State.passBarrier_memOk (s : State) (level : Nat) (n : Nat) (uid : Nat) (oks : MemOk s) :
    MemOk (State.passBarrier s level n uid) := by
  unfold State.passBarrier
  split
  · exact oks
  · split
    · exact oks
    · exact State.handOff_memOk _ _ (State.modCore_memOk _ _ _ oks)

theorem State.releaseBarrier_memOk (s : State) (b : Barrier) (oks : MemOk s) :
    MemOk (State.releaseBarrier s b) := by
  unfold State.releaseBarrier
  grind [MemOk, State.passBarrier_memOk, memOk_foldl, memOk_foldl_fst, memOk_bytes, Memory.setLine]

theorem State.sendArrivals_memOk (s : State) (b : Barrier) (oks : MemOk s) :
    MemOk (State.sendArrivals s b) := by
  unfold State.sendArrivals
  grind [MemOk, State.send_memOk]

theorem State.barrierStep_memOk (s : State) (b : Barrier) (oks : MemOk s)
    {t : State} (ht : State.barrierStep s b = some t) : MemOk t := by
  unfold State.barrierStep at ht
  grind [MemOk, State.releaseBarrier_memOk, State.sendArrivals_memOk]

theorem State.peerArrivals_memOk (s : State) (jobtag : BitVec 32) (n : Nat) (oks : MemOk s)
    {t : State} (ht : State.peerArrivals s jobtag n = some t) : MemOk t := by
  unfold State.peerArrivals at ht
  grind [MemOk]

theorem State.startNext_memOk (s : State) (n : Nat) (oks : MemOk s) :
    MemOk (State.startNext s n) := by
  unfold State.startNext
  grind [MemOk, State.modCore_memOk]

theorem State.fetchAbsent_memOk (s : State) (n : Nat) (c : Nat) (oks : MemOk s)
    {t : State} (ht : State.fetchAbsent s n c = some t) : MemOk t := by
  unfold State.fetchAbsent at ht
  grind [MemOk, Begun.memOk, State.begin_memOk, State.modCtx_memOk]

theorem State.trapBefore_memOk (s : State) (n : Nat) (c : Nat) (cause : BitVec 8) (taddr : Option DWord) (word : Option Nat)
    (oks : MemOk s) : MemOk (State.trapBefore s n c cause taddr word) := by
  have h := State.resolvePc_memOk s n c oks
  unfold State.trapBefore
  extract_lets t
  split
  · rename_i hr; rw [hr] at h; exact State.trap_memOk _ _ _ _ h
  · split
    · exact State.trap_memOk _ _ _ _ oks
    · exact State.trap_memOk _ _ _ _ oks

theorem State.takeDeferred_memOk (s : State) (n : Nat) (c : Nat) (d : Deferred) (oks : MemOk s) :
    MemOk (State.takeDeferred s n c d) :=
  memOk_ite (State.release_memOk _ _ _ (State.setCtx_memOk _ _ _ _ oks))
    (State.trapBefore_memOk _ _ _ _ _ _ (State.setCtx_memOk _ _ _ _ oks))

theorem State.unlisted_memOk (s : State) (oks : MemOk s)
    {t : State} (ht : State.unlisted s = some t) : MemOk t := by
  unfold State.unlisted at ht
  grind [MemOk, Begun.memOk, State.begin_memOk, State.trap_memOk]

theorem State.resume_memOk (s : State) (n : Nat) (uid : Nat) (e : Suspended) (oks : MemOk s) :
    MemOk (State.resume s n uid e) := by
  unfold State.resume
  grind [MemOk, State.modCore_memOk, State.saveStore_memOk, State.placeAll_memOk]

theorem State.deliverNext_memOk (s : State) (n : Nat) (c : Nat) (oks : MemOk s)
    {t : State} (ht : State.deliverNext s n c = some t) : MemOk t := by
  unfold State.deliverNext at ht
  grind [MemOk, State.resolvePc_memOk, State.setCtx_memOk, State.deliver_memOk]

theorem State.chargeTask_memOk (s : State) (n : Nat) (uid : Nat) (oks : MemOk s) :
    MemOk (State.chargeTask s n uid) := by
  unfold State.chargeTask
  grind [MemOk, State.modCore_memOk]

theorem State.markOpen_memOk (s : State) (n : Nat) (c : Nat) (oks : MemOk s) :
    MemOk (State.markOpen s n c) := by
  unfold State.markOpen
  grind [MemOk, State.modCtx_memOk]

theorem Opened.memOk_ite {p : Prop} [Decidable p] {r q : Opened} (h : r.memOk) (g : q.memOk) : (if p then r else q).memOk := by
  split <;> assumption

theorem State.openPhase_memOk (s : State) (n : Nat) (c : Nat) (oks : MemOk s) :
    (State.openPhase s n c).memOk := by
  have hb (e : Env) (a : DWord) (l : Nat) := State.readBlocking_memOk s e a l oks
  unfold State.openPhase
  extract_lets x b src e
  split
  · exact State.markOpen_memOk _ _ _ oks
  · refine Opened.memOk_ite oks ?_
    split
    · rename_i u hr; exact (congrArg ReadRes.memOk hr).mp (hb _ _ _)
    · rename_i u hr; exact (congrArg ReadRes.memOk hr).mp (hb _ _ _)
    · rename_i u bs hr
      have h : MemOk u := (congrArg ReadRes.memOk hr).mp (hb _ _ _)
      split
      · exact h
      · split
        · exact State.copyRuns_failOk h ‹_›
        · have hc := State.copyRuns_memOk _ _ _ _ _ h ‹_›
          extract_lets dst
          split
          · exact hc
          · exact Opened.memOk_ite hc (State.markOpen_memOk _ _ _ (State.startCopy_memOk _ _ _ _ _ _ _ hc))

theorem State.retireAsync_memOk (s : State) (n : Nat) (o : Async) (oks : MemOk s) :
    MemOk (State.retireAsync s n o) := by
  unfold State.retireAsync
  grind [MemOk, State.chargeTask_memOk, State.leaveCounter_memOk, State.modCore_memOk]

theorem State.badRows_memOk (s : State) (n : Nat) (o : Async) (bad : List Nat) (oks : MemOk s) :
    MemOk (State.badRows s n o bad) := by
  unfold State.badRows
  exact State.uncorrAt_memOk _ _ _ _ _ (memOk_ite (State.writeSpad_memOk _ _ _ oks) oks)

theorem State.cancelPhase_memOk (s : State) (n : Nat) (c : Nat) (oks : MemOk s)
    {t : State} (ht : State.cancelPhase s n c = some t) : MemOk t := by
  unfold State.cancelPhase at ht
  obtain ⟨x, _, hx⟩ := Option.bind_eq_some_iff.mp ht
  split at hx
  · cases hx; exact State.modCtx_memOk _ _ _ _ oks
  · split at hx
    · obtain ⟨p, _, rfl⟩ := Option.map_eq_some_iff.mp hx
      have h := State.placeAll_memOk _ n oks
      exact State.modCtx_memOk _ _ _ _ (memOk_ite (State.saveStore_memOk _ _ _ _ _ h) h)
    · cases hx

theorem State.passEdges_memOk (s : State) (n : Nat) (c : Nat) (oks : MemOk s)
    {t : State} (ht : State.passEdges s n c = some t) : MemOk t := by
  unfold State.passEdges at ht
  obtain ⟨x, _, hx⟩ := List.exists_of_findSome?_eq_some ht
  split at hx
  · split at hx
    · cases hx; exact State.modCore_memOk _ _ _ oks
    · cases hx
  · cases hx

theorem State.dropRemote_memOk (s : State) (id : Nat) (oks : MemOk s) :
    MemOk (State.dropRemote s id) := by
  unfold State.dropRemote
  grind [MemOk]

theorem State.saveLanding_memOk (s : State) (n : Nat) (uid : Nat) (oks : MemOk s) : MemOk (State.saveLanding s n uid) := by
  unfold State.saveLanding
  split
  · exact State.saveRegions_memOk _ _ _ _ oks
  · exact oks

theorem State.landPart_memOk (s : State) (r : Remote) (landing : Nat) (data : List Byte) (st : DataStatus) (oks :
    MemOk s) :
    MemOk (State.landPart s r landing data st) :=
  State.saveLanding_memOk _ _ _ (State.modCore_memOk _ _ _ oks)

theorem State.copyPart_memOk (s : State) (r : Remote) (id : Nat) (a : Nat) (data : List Byte) (st : DataStatus) (oks
    : MemOk s) :
    MemOk (State.copyPart s r id a data st) := by
  unfold State.copyPart
  split
  · exact State.writeSpad_memOk _ _ _ oks
  · exact State.modCore_memOk _ _ _ (State.writeSpad_memOk _ _ _ oks)
  · exact State.modCore_memOk _ _ _ oks

theorem State.bufferPart_memOk (s : State) (r : Remote) (data : List Byte) (st : DataStatus) (oks : MemOk s) :
    MemOk (State.bufferPart s r data st) := by
  unfold State.bufferPart
  grind [MemOk, State.modCore_memOk]

theorem State.remoteData_memOk (s : State) (id : Nat) (r : Remote) (data : List Byte) (st : DataStatus) (oks : MemOk
    s) :
    MemOk (State.remoteData s id r data st) := by
  unfold State.remoteData
  grind [MemOk, State.dropRemote_memOk, State.landPart_memOk, State.copyPart_memOk, State.bufferPart_memOk]

theorem State.leaveRemote_memOk (s : State) (r : Remote) (oks : MemOk s) : MemOk (State.leaveRemote s r) :=
  memOk_ite oks (State.leaveCounter_memOk _ _ _ _ oks)

theorem State.remoteDone_memOk (s : State) (id : Nat) (r : Remote) (v : DWord) (oks : MemOk s) :
    MemOk (State.remoteDone s id r v) := by
  unfold State.remoteDone
  extract_lets s1 s2
  have h1 : MemOk s1 := State.dropRemote_memOk _ _ oks
  refine State.leaveRemote_memOk s2 r ?_
  show MemOk (match r.landing with | none => s1 | some l => _)
  cases r.landing with
  | none => exact h1
  | some l => exact State.saveLanding_memOk _ _ _ (State.modCore_memOk _ _ _ h1)

theorem State.arriveLine_memOk (s : State) (x : Arriving) (oks : MemOk s) : MemOk (State.arriveLine s x).1 := by
  unfold State.arriveLine
  split
  · exact State.remoteReadLine_memOk _ _ oks
  · exact memOk_foldl (fun _ _ h => State.monitorWrite_memOk _ _ _ h) _ _ (State.remotePieces_memOk _ _ _ oks)
  · exact oks

theorem State.arriveEnd_memOk (s : State) (x : Arriving) (oks : MemOk s) : MemOk (State.arriveEnd s x) := by
  unfold State.arriveEnd
  split
  · exact State.send_memOk _ _ oks
  · exact oks

theorem State.arriveOn_memOk (s : State) (id : Nat) (x : Arriving) (oks : MemOk s) : MemOk (State.arriveOn s id x) := by
  have h := State.arriveLine_memOk s x oks
  exact memOk_ite (State.arriveEnd_memOk _ _ h) h

theorem State.arriveWhole_memOk (s : State) (x : Arriving) (oks : MemOk s) : MemOk (State.arriveWhole s x) :=
  State.arriveEnd_memOk _ _ (memOk_foldl_fst (fun r _ h => State.arriveLine_memOk r.1 r.2 h) _ (s, x) oks)

theorem State.arrivePeer_memOk (s : State) (a : RemoteAccess) (oks : MemOk s) : MemOk (State.arrivePeer s a) :=
  State.arriveOn_memOk _ _ _ (State.takeId_memOk s oks)

theorem State.arriveAtomic_memOk (s : State) (m : Amo) (a : Nat) (oks : MemOk s) :
    MemOk (State.arriveAtomic s m a) :=
  State.send_memOk _ _ (State.monitorWrite_memOk _ _ _ (State.remoteWriteLine_memOk _ _ _ oks))

theorem State.fillAt_memOk (s : State) (n : Nat) (a2 : Ctx) (off : Nat) (oks : MemOk s)
    {t : State} (ht : State.fillAt s n a2 off = some t) : MemOk t := by
  unfold State.fillAt at ht
  obtain ⟨y, _, hx⟩ := Option.bind_eq_some_iff.mp ht
  dsimp only at hx
  split at hx
  · cases hx
  · cases hx; exact State.stashFillLine_memOk _ _ _ _ _ oks

theorem State.dataArrives_memOk (s : State) (n : Nat) (c : Nat) (addr : Nat) (data : List Byte) (st : DataStatus)
    (oks : MemOk s)
    {t : State} (ht : State.dataArrives s n c addr data st = some t) : MemOk t := by
  unfold State.dataArrives at ht
  split at ht
  · split at ht
    · cases ht
    · cases ht; exact State.remoteData_memOk _ _ _ _ _ oks
  · obtain ⟨x, _, hx⟩ := List.exists_of_findSome?_eq_some ht
    obtain ⟨l, _, rfl⟩ := Option.map_eq_some_iff.mp hx
    exact State.saveLanding_memOk _ _ _ (State.modCore_memOk _ _ _ oks)

theorem State.arriveAccess_memOk (s : State) (a1 : RemoteAccess) (oks : MemOk s) :
    MemOk (State.arriveAccess s a1) := by
  cases a1 with
  | load => exact State.arrivePeer_memOk _ _ oks
  | store => exact State.arrivePeer_memOk _ _ oks
  | atomic => exact State.arriveAtomic_memOk _ _ _ oks

theorem State.failRemote_memOk (s : State) (id : Nat) (r : Remote) (oks : MemOk s) :
    MemOk (State.failRemote s id r) := by
  unfold State.failRemote
  have h1 := State.dropRemote_memOk s id oks
  refine memOk_ite (State.leaveRemote_memOk _ _ (State.modCore_memOk _ _ _ ?_)) (State.remoteData_memOk _ _ _ _ _ oks)
  cases r.landing with
  | none => exact h1
  | some l => exact State.modCore_memOk _ _ _ h1

theorem State.endSuspended_memOk (s : State) (n : Nat) (e : Suspended) (oks : MemOk s) :
    MemOk (State.endSuspended s n e) := by
  unfold State.endSuspended
  extract_lets x s1 s2
  have h1 : MemOk s1 := memOk_ite (State.modCore_memOk _ _ _ (State.issueHeld_memOk _ _ _ _ oks)) oks
  exact State.dropHeld_memOk _ _ _ (State.modCore_memOk _ _ _ h1)

theorem State.endJob_memOk (s : State) (job : BitVec 32) (oks : MemOk s) :
    MemOk (State.endJob s job) :=
  memOk_foldl (fun _ (_ : Nat × Core) ht =>
    memOk_foldl (fun _ (_ : Nat × Suspended) hu => memOk_ite (State.endSuspended_memOk _ _ _ hu) hu) _ _
      (memOk_foldl (fun _ (_ : Nat × Ctx) hu => memOk_ite (State.endTask_memOk _ _ _ _ hu) hu) _ _ ht)) _ _ oks

theorem State.stopQueues_memOk (s : State) (job : BitVec 32) (oks : MemOk s) :
    MemOk (State.stopQueues s job) := by
  unfold State.stopQueues
  grind [MemOk, State.discardWork_memOk, State.setQueue_memOk, memOk_foldl, memOk_foldl_fst, memOk_bytes,
    Memory.setLine]

theorem State.putPage_memOk (s : State) (page : Nat) (data : SMap Byte) (oks : MemOk s) :
    MemOk (State.putPage s page data) := by
  have h (m : Memory) (hm : m.bytes = s.mem.bytes) (a : Nat) : mwf 0 ((m.putBlock a data).fit s.clock).bytes = true := by
    rw [Memory.fit_bytes]
    exact Memory.putBlock_mwf (hm ▸ oks.1) a data
  unfold State.putPage
  generalize List.range 1024 = l
  refine ⟨h _ ?_ _, oks.2⟩
  rfl

theorem State.putPages_memOk (s : State) (ps : SMap (SMap Byte)) (oks : MemOk s) : MemOk (State.putPages s ps) :=
  memOk_foldl (fun t (p : Nat × SMap Byte) ht => State.putPage_memOk t p.1 p.2 ht) _ _ oks

theorem State.putImage_memOk (s : State) (ds : PageSet) (pages : SMap (List (Nat × Byte))) (oks : MemOk s) :
    MemOk (State.putImage s ds pages) :=
  memOk_foldl (fun t p ht => State.putPage_memOk t p _ ht) _ _ oks

theorem State.rollback_memOk (s : State) (r : Nat) (pages : SMap (List (Nat × Byte))) (oks : MemOk s) :
    MemOk (State.rollback s r pages) := by
  unfold State.rollback
  extract_lets x k s1
  exact (memOk_ite (State.putImage_memOk _ _ _ oks)
    (memOk_ite (State.putPages_memOk _ _ (State.putPages_memOk _ _ oks)) (State.send_memOk _ _ oks)) : MemOk s1)

theorem State.becomeSpare_memOk (s : State) (node : Nat) (p : Recovery) (oks : MemOk s) :
    MemOk (State.becomeSpare s node p) :=
  State.putImage_memOk { s with fabric := { s.fabric with own := node } } _ _ oks

theorem State.setRecovering_memOk (s : State) (job : BitVec 32) (r : Option (Nat × Bool)) (oks : MemOk s) :
    MemOk (State.setRecovering s job r) := oks

theorem State.nodeUpAgain_memOk (s : State) (node : Nat) (oks : MemOk s) :
    MemOk (State.nodeUpAgain s node) := by
  unfold State.nodeUpAgain
  grind [MemOk]

theorem State.finishRecovery_memOk (s : State) (node : Nat) (p : Recovery) (oks : MemOk s) :
    MemOk (State.finishRecovery s node p) := by
  unfold State.finishRecovery
  extract_lets s1 s2 s3 s4
  have h2 : MemOk s2 := State.send_memOk _ _ (memOk_ite oks (State.rollback_memOk _ _ _ oks))
  have h3 : MemOk s3 := State.send_memOk _ _ (memOk_ite (State.becomeSpare_memOk _ _ _ h2) h2)
  refine State.setRecovering_memOk _ _ _ (State.send_memOk _ _ (State.nodeUpAgain_memOk _ _ (State.send_memOk s4 _ ?_)))
  show MemOk (match p.newReserve with | some a => _ | none => s3)
  cases p.newReserve with
  | none => exact h3
  | some a => exact memOk_ite h3 h3

theorem State.recover_memOk (s : State) (node : Nat) (p : Recovery) (oks : MemOk s)
    {t : State} (ht : State.recover s node p = some t) : MemOk t := by
  unfold State.recover at ht
  split at ht
  · cases ht
    have h := State.setRecovering_memOk _ p.jobtag (some (node, false))
      (State.send_memOk _ (.recovery 1) (State.endJob_memOk _ p.jobtag (State.stopQueues_memOk s p.jobtag oks)))
    exact memOk_ite (State.finishRecovery_memOk _ _ _ h) h
  · split at ht
    · cases ht
    · split at ht
      · cases ht; exact State.setRecovering_memOk _ _ _ (State.send_memOk _ _ oks)
      · split at ht
        · cases ht; exact State.finishRecovery_memOk _ _ _ oks
        · cases ht

theorem State.failNode_memOk (s : State) (node : Nat) (oks : MemOk s) :
    MemOk (State.failNode s node) := by
  unfold State.failNode
  grind [MemOk, State.failRemote_memOk, memOk_foldl, memOk_foldl_fst, memOk_bytes, Memory.setLine]

theorem State.commitCopy_memOk (s : State) (c : CkptCopy) (oks : MemOk s) :
    MemOk (State.commitCopy s c) := by
  unfold State.commitCopy
  grind [MemOk, State.serveBegins_memOk, State.leaveCounter_memOk]

theorem State.failCopy_memOk (s : State) (c : CkptCopy) (oks : MemOk s) :
    MemOk (State.failCopy s c) := by
  unfold State.failCopy
  grind [MemOk, State.modCore_memOk, State.serveBegins_memOk, State.leaveCounter_memOk]

theorem State.softRepair_memOk (s : State) (stack : Nat) (channel : Nat) (row : Nat) (oks : MemOk s) :
    MemOk (State.softRepair s stack channel row) := by
  unfold State.softRepair
  grind [MemOk, State.send_memOk]

theorem State.liftFrom_memOk (s : State) (y : Notice) (n : Nat) (oks : MemOk s) : MemOk (State.liftFrom s y n) :=
  memOk_ite oks (State.modCore_memOk { s with board := _ } _ _ oks)

theorem State.liftNotice_memOk (s : State) (job : Nat) (oks : MemOk s) :
    MemOk (State.liftNotice s job) := by
  unfold State.liftNotice
  split
  · exact oks
  · exact memOk_foldl (fun t n ht => State.liftFrom_memOk t _ n ht) _ _ oks

theorem State.takeNotice_memOk (s : State) (job : BitVec 32) (point : BitVec 8) (until_ : DWord) (oks : MemOk s) :
    MemOk (State.takeNotice s job point until_) := by
  unfold State.takeNotice
  grind [MemOk, State.liftNotice_memOk]

theorem State.overheat_memOk (s : State) (point : BitVec 8) (until_ : DWord) (oks : MemOk s) :
    MemOk (State.overheat s point until_) := by
  unfold State.overheat
  grind [MemOk, State.modCore_memOk, State.takeNotice_memOk, State.send_memOk, memOk_foldl, memOk_foldl_fst,
    memOk_bytes, Memory.setLine]

theorem State.resetPackage_memOk (s : State) (dead : SMap (BitVec 9)) (node : Nat) :
    MemOk (State.resetPackage s dead node) := ⟨mwf_nil 0, mwf_nil _⟩

theorem State.happen_memOk (s : State) (e : Event) (oks : MemOk s) :
    (State.happen s e).memOk := by
  unfold State.happen
  grind [MemOk, Prepared.memOk]

theorem State.prepareEngine_memOk (s : State) (n : Nat) (oks : MemOk s) :
    (State.prepareEngine s n).memOk := by
  unfold State.prepareEngine
  grind [MemOk, Prepared.memOk, State.modCore_memOk, State.routineError_memOk]

theorem State.idleTurn_memOk (s : State) (n : Nat) (oks : MemOk s) :
    (State.idleTurn s n).memOk := by
  unfold State.idleTurn
  grind [MemOk, Prepared.memOk, State.happen_memOk, State.prepareEngine_memOk]

theorem State.spend_memOk (s : State) (n : Nat) (oks : MemOk s) :
    MemOk (State.spend s n) := by
  unfold State.spend
  grind [MemOk, State.modCore_memOk]

theorem Bundle.run_memOk (b : Bundle) (n : Nat) (c : Nat) (s : State) (oks : MemOk s) :
    (Bundle.run b n c s).memOk := by
  unfold Bundle.run
  split
  · exact oks
  · exact memOk_ite (State.finish_memOk _ _ _ oks) oks

theorem State.block_memOk (s : State) (n : Nat) (c : Nat) (why : Wait) (oks : MemOk s) :
    MemOk (State.block s n c why) := by
  unfold State.block
  grind [MemOk, State.release_memOk, State.modCtx_memOk]

theorem State.issueRun_memOk (s : State) (n : Nat) (c : Nat) (b : Bundle) (fail : Option Nat) (oks : MemOk s) :
    (State.issueRun s n c b fail).memOk := by
  unfold State.issueRun
  grind [MemOk, Prepared.memOk, State.issueBundle_memOk, Bundle.run_memOk]

theorem State.prepareBundle_memOk (s : State) (n : Nat) (c : Nat) (oks : MemOk s) :
    (State.prepareBundle s n c).memOk := by
  unfold State.prepareBundle
  grind [MemOk, Prepared.memOk, State.spend_memOk, Bundle.run_memOk, State.idleTurn_memOk, State.block_memOk,
    State.modBundle_memOk, State.issueRun_memOk]

theorem State.prepareNext_memOk (s : State) (n : Nat) (c : Nat) (oks : MemOk s) :
    (State.prepareNext s n c).memOk := by
  unfold State.prepareNext
  grind [MemOk, Begun.memOk, Prepared.memOk, State.modCtx_memOk, State.happen_memOk, State.begin_memOk,
    State.trap_memOk, State.idleTurn_memOk, State.prepareBundle_memOk]

theorem State.passTime_memOk (s : State) (oks : MemOk s) :
    MemOk (State.passTime s) := by
  unfold State.passTime
  grind [MemOk]

theorem State.prepareOpen_memOk (s : State) (n : Nat) (c : Nat) (oks : MemOk s) :
    (State.prepareOpen s n c).memOk := by
  have h := State.openPhase_memOk s n c oks
  unfold State.prepareOpen
  dsimp only
  split
  · split
    · rename_i hr; rw [hr] at h; exact State.prepareNext_memOk _ _ _ h
    · rename_i hr; rw [hr] at h; exact State.block_memOk _ _ _ _ h
    · rename_i hr; rw [hr] at h; exact State.trapBefore_memOk _ _ _ _ _ _ h
  · exact State.prepareNext_memOk _ _ _ oks

theorem State.prepareRunning_memOk (s : State) (n : Nat) (c : Nat) (oks : MemOk s) :
    (State.prepareRunning s n c).memOk := by
  unfold State.prepareRunning
  grind [MemOk, Prepared.memOk, State.idleTurn_memOk, State.spend_memOk, State.setCtx_memOk, State.happen_memOk,
    State.prepareOpen_memOk, State.prepareBundle_memOk]

theorem State.reenter_memOk (s : State) (n : Nat) (oks : MemOk s) :
    MemOk (State.reenter s n) := by
  unfold State.reenter
  grind [MemOk, State.unpark_memOk, memOk_foldl, memOk_foldl_fst, memOk_bytes, Memory.setLine]

theorem State.wake_memOk (s : State) (n : Nat) (oks : MemOk s) : MemOk (State.wake s n) := State.modCore_memOk _ _ _ oks

theorem State.prepareCore_memOk (s : State) (n : Nat) (oks : MemOk s) :
    (State.prepareCore s n).memOk := by
  unfold State.prepareCore
  grind [MemOk, Prepared.memOk, State.reenter_memOk, State.happen_memOk, State.prepareRunning_memOk,
    State.spend_memOk, State.idleTurn_memOk, State.wake_memOk]

theorem State.prepare_memOk (s : State) (oks : MemOk s) :
    (State.prepare s).memOk := by
  unfold State.prepare
  grind [MemOk, Prepared.memOk, State.passTime_memOk, State.happen_memOk, State.prepareCore_memOk,
    State.prepareEngine_memOk]

theorem State.placed_memOk (s : State) (st : BitVec 7) (ws : List Word) (oks : MemOk s) :
    MemOk (State.placed s st ws) := by
  unfold State.placed
  exact ⟨mwf_writeBytes (mwf_writeBytes oks.1 _ _) _ _, mwf_mset oks.2 _ _⟩

theorem State.placedWord_memOk (s : State) (w : Word) (oks : MemOk s) :
    MemOk (State.placedWord s w) := by
  unfold State.placedWord
  grind [MemOk, State.placed_memOk]

theorem State.placedLast_memOk (s : State) (st : BitVec 7) (ws : List Word) (oks : MemOk s) :
    MemOk (State.placedLast s st ws) := by
  unfold State.placedLast
  grind [MemOk, State.placed_memOk, State.setCtx_memOk]

theorem State.withFetchWord_memOk (s : State) (nbits : Nat) (w : Nat) (oks : MemOk s) :
    MemOk (State.withFetchWord s nbits w) := by
  unfold State.withFetchWord
  grind [MemOk, State.placed_memOk, State.placedWord_memOk, State.placedLast_memOk, memOk_foldl, memOk_foldl_fst,
    memOk_bytes, Memory.setLine]

end Sys2Proof.Machine
end

