-- ==== Sys2Proof/Laws/PerInstr.lean ====
section
/-! SUPPORT. Decoding gives back what was encoded, instruction by instruction (R18 to R38). -/

namespace Sys2Proof.Laws.RoundTrip

open Sys2Proof.Machine

/-- A slot with a well-formed instruction is decoded from its own words, whatever words follow. -/
def Statement (i : Instr) : Prop :=
  ∀ (x : SlotWord) (ws : List Word), x.instr = i → i.wellFormed = true → (entry i).isSome = true →
    decodeSlot (encode x ++ ws) = .ok (x, ws)

theorem add (f : Fields) : Statement (.add f) := fun _ ws hx _ _ =>
  decodeSlot_encode (f := f) (by rw [hx]; rfl) (by decide) (by decide) (by rw [hx]; rfl) ws
theorem sub (f : Fields) : Statement (.sub f) := fun _ ws hx _ _ =>
  decodeSlot_encode (f := f) (by rw [hx]; rfl) (by decide) (by decide) (by rw [hx]; rfl) ws
theorem mul (f : Fields) : Statement (.mul f) := fun _ ws hx _ _ =>
  decodeSlot_encode (f := f) (by rw [hx]; rfl) (by decide) (by decide) (by rw [hx]; rfl) ws
theorem mulh (f : Fields) : Statement (.mulh f) := fun _ ws hx _ _ =>
  decodeSlot_encode (f := f) (by rw [hx]; rfl) (by decide) (by decide) (by rw [hx]; rfl) ws
theorem div (f : Fields) : Statement (.div f) := fun _ ws hx _ _ =>
  decodeSlot_encode (f := f) (by rw [hx]; rfl) (by decide) (by decide) (by rw [hx]; rfl) ws
theorem rem (f : Fields) : Statement (.rem f) := fun _ ws hx _ _ =>
  decodeSlot_encode (f := f) (by rw [hx]; rfl) (by decide) (by decide) (by rw [hx]; rfl) ws
theorem andS (f : Fields) : Statement (.andS f) := fun _ ws hx _ _ =>
  decodeSlot_encode (f := f) (by rw [hx]; rfl) (by decide) (by decide) (by rw [hx]; rfl) ws
theorem orS (f : Fields) : Statement (.orS f) := fun _ ws hx _ _ =>
  decodeSlot_encode (f := f) (by rw [hx]; rfl) (by decide) (by decide) (by rw [hx]; rfl) ws
theorem xorS (f : Fields) : Statement (.xorS f) := fun _ ws hx _ _ =>
  decodeSlot_encode (f := f) (by rw [hx]; rfl) (by decide) (by decide) (by rw [hx]; rfl) ws
theorem andn (f : Fields) : Statement (.andn f) := fun _ ws hx _ _ =>
  decodeSlot_encode (f := f) (by rw [hx]; rfl) (by decide) (by decide) (by rw [hx]; rfl) ws
theorem shl (f : Fields) : Statement (.shl f) := fun _ ws hx _ _ =>
  decodeSlot_encode (f := f) (by rw [hx]; rfl) (by decide) (by decide) (by rw [hx]; rfl) ws
theorem shr (f : Fields) : Statement (.shr f) := fun _ ws hx _ _ =>
  decodeSlot_encode (f := f) (by rw [hx]; rfl) (by decide) (by decide) (by rw [hx]; rfl) ws
theorem sar (f : Fields) : Statement (.sar f) := fun _ ws hx _ _ =>
  decodeSlot_encode (f := f) (by rw [hx]; rfl) (by decide) (by decide) (by rw [hx]; rfl) ws
theorem minS (f : Fields) : Statement (.minS f) := fun _ ws hx _ _ =>
  decodeSlot_encode (f := f) (by rw [hx]; rfl) (by decide) (by decide) (by rw [hx]; rfl) ws
theorem maxS (f : Fields) : Statement (.maxS f) := fun _ ws hx _ _ =>
  decodeSlot_encode (f := f) (by rw [hx]; rfl) (by decide) (by decide) (by rw [hx]; rfl) ws
theorem clz (f : Fields) : Statement (.clz f) := fun _ ws hx _ _ =>
  decodeSlot_encode (f := f) (by rw [hx]; rfl) (by decide) (by decide) (by rw [hx]; rfl) ws
theorem ctz (f : Fields) : Statement (.ctz f) := fun _ ws hx _ _ =>
  decodeSlot_encode (f := f) (by rw [hx]; rfl) (by decide) (by decide) (by rw [hx]; rfl) ws
theorem popc (f : Fields) : Statement (.popc f) := fun _ ws hx _ _ =>
  decodeSlot_encode (f := f) (by rw [hx]; rfl) (by decide) (by decide) (by rw [hx]; rfl) ws
theorem sext (f : Fields) : Statement (.sext f) := fun _ ws hx _ _ =>
  decodeSlot_encode (f := f) (by rw [hx]; rfl) (by decide) (by decide) (by rw [hx]; rfl) ws
theorem zext (f : Fields) : Statement (.zext f) := fun _ ws hx _ _ =>
  decodeSlot_encode (f := f) (by rw [hx]; rfl) (by decide) (by decide) (by rw [hx]; rfl) ws
theorem madd (f : Fields) : Statement (.madd f) := fun _ ws hx _ _ =>
  decodeSlot_encode (f := f) (by rw [hx]; rfl) (by decide) (by decide) (by rw [hx]; rfl) ws
theorem sel (f : Fields) : Statement (.sel f) := fun _ ws hx _ _ =>
  decodeSlot_encode (f := f) (by rw [hx]; rfl) (by decide) (by decide) (by rw [hx]; rfl) ws
theorem mov (f : Fields) : Statement (.mov f) := fun _ ws hx _ _ =>
  decodeSlot_encode (f := f) (by rw [hx]; rfl) (by decide) (by decide) (by rw [hx]; rfl) ws
theorem cmpEq (f : Fields) : Statement (.cmpEq f) := fun _ ws hx _ _ =>
  decodeSlot_encode (f := f) (by rw [hx]; rfl) (by decide) (by decide) (by rw [hx]; rfl) ws
theorem cmpNe (f : Fields) : Statement (.cmpNe f) := fun _ ws hx _ _ =>
  decodeSlot_encode (f := f) (by rw [hx]; rfl) (by decide) (by decide) (by rw [hx]; rfl) ws
theorem cmpLt (f : Fields) : Statement (.cmpLt f) := fun _ ws hx _ _ =>
  decodeSlot_encode (f := f) (by rw [hx]; rfl) (by decide) (by decide) (by rw [hx]; rfl) ws
theorem cmpLe (f : Fields) : Statement (.cmpLe f) := fun _ ws hx _ _ =>
  decodeSlot_encode (f := f) (by rw [hx]; rfl) (by decide) (by decide) (by rw [hx]; rfl) ws
theorem plogAnd (f : Fields) : Statement (.plogAnd f) := fun x ws hx hw _ =>
  decodeSlot_encode (f := f) (by rw [hx]; rfl) (by decide) (by decide)
    (by rw [hx]; have h : f.md = false := by simpa [mdOk] using wellFormed_md hw rfl
        change some (if f.md then _ else _) = _; rw [h]; rfl) ws
theorem plogAndn (f : Fields) : Statement (.plogAndn f) := fun x ws hx hw _ =>
  decodeSlot_encode (f := f) (by rw [hx]; rfl) (by decide) (by decide)
    (by rw [hx]; have h : f.md = true := by simpa [mdOk] using wellFormed_md hw rfl
        change some (if f.md then _ else _) = _; rw [h]; rfl) ws
theorem li (f : Fields) : Statement (.li f) := fun _ ws hx _ _ =>
  decodeSlot_encode (f := f) (by rw [hx]; rfl) (by decide) (by decide) (by rw [hx]; rfl) ws
theorem addi (f : Fields) : Statement (.addi f) := fun _ ws hx _ _ =>
  decodeSlot_encode (f := f) (by rw [hx]; rfl) (by decide) (by decide) (by rw [hx]; rfl) ws
theorem andi (f : Fields) : Statement (.andi f) := fun _ ws hx _ _ =>
  decodeSlot_encode (f := f) (by rw [hx]; rfl) (by decide) (by decide) (by rw [hx]; rfl) ws
theorem ori (f : Fields) : Statement (.ori f) := fun _ ws hx _ _ =>
  decodeSlot_encode (f := f) (by rw [hx]; rfl) (by decide) (by decide) (by rw [hx]; rfl) ws
theorem xori (f : Fields) : Statement (.xori f) := fun _ ws hx _ _ =>
  decodeSlot_encode (f := f) (by rw [hx]; rfl) (by decide) (by decide) (by rw [hx]; rfl) ws
theorem shli (f : Fields) : Statement (.shli f) := fun _ ws hx _ _ =>
  decodeSlot_encode (f := f) (by rw [hx]; rfl) (by decide) (by decide) (by rw [hx]; rfl) ws
theorem shri (f : Fields) : Statement (.shri f) := fun _ ws hx _ _ =>
  decodeSlot_encode (f := f) (by rw [hx]; rfl) (by decide) (by decide) (by rw [hx]; rfl) ws
theorem sari (f : Fields) : Statement (.sari f) := fun _ ws hx _ _ =>
  decodeSlot_encode (f := f) (by rw [hx]; rfl) (by decide) (by decide) (by rw [hx]; rfl) ws
theorem cmpiEq (f : Fields) : Statement (.cmpiEq f) := fun _ ws hx _ _ =>
  decodeSlot_encode (f := f) (by rw [hx]; rfl) (by decide) (by decide) (by rw [hx]; rfl) ws
theorem cmpiLt (f : Fields) : Statement (.cmpiLt f) := fun _ ws hx _ _ =>
  decodeSlot_encode (f := f) (by rw [hx]; rfl) (by decide) (by decide) (by rw [hx]; rfl) ws
theorem br (f : Fields) : Statement (.br f) := fun _ ws hx _ _ =>
  decodeSlot_encode (f := f) (by rw [hx]; rfl) (by decide) (by decide) (by rw [hx]; rfl) ws
theorem brr (f : Fields) : Statement (.brr f) := fun _ ws hx _ _ =>
  decodeSlot_encode (f := f) (by rw [hx]; rfl) (by decide) (by decide) (by rw [hx]; rfl) ws
theorem call (f : Fields) : Statement (.call f) := fun _ ws hx _ _ =>
  decodeSlot_encode (f := f) (by rw [hx]; rfl) (by decide) (by decide) (by rw [hx]; rfl) ws
theorem callr (f : Fields) : Statement (.callr f) := fun _ ws hx _ _ =>
  decodeSlot_encode (f := f) (by rw [hx]; rfl) (by decide) (by decide) (by rw [hx]; rfl) ws
theorem ret (f : Fields) : Statement (.ret f) := fun _ ws hx _ _ =>
  decodeSlot_encode (f := f) (by rw [hx]; rfl) (by decide) (by decide) (by rw [hx]; rfl) ws
theorem loop (f : Fields) : Statement (.loop f) := fun _ ws hx _ _ =>
  decodeSlot_encode (f := f) (by rw [hx]; rfl) (by decide) (by decide) (by rw [hx]; rfl) ws
theorem loopp (f : Fields) : Statement (.loopp f) := fun _ ws hx _ _ =>
  decodeSlot_encode (f := f) (by rw [hx]; rfl) (by decide) (by decide) (by rw [hx]; rfl) ws
theorem lexit (f : Fields) : Statement (.lexit f) := fun _ ws hx _ _ =>
  decodeSlot_encode (f := f) (by rw [hx]; rfl) (by decide) (by decide) (by rw [hx]; rfl) ws
theorem waitCnt (f : Fields) : Statement (.waitCnt f) := fun _ ws hx _ _ =>
  decodeSlot_encode (f := f) (by rw [hx]; rfl) (by decide) (by decide) (by rw [hx]; rfl) ws
theorem cmptrap (f : Fields) : Statement (.cmptrap f) := fun x ws hx hw _ =>
  decodeSlot_encode (f := f) (by rw [hx]; rfl) (by decide) (by decide)
    (by rw [hx]; have h : f.md = false := by simpa [mdOk] using wellFormed_md hw rfl
        change some (if f.md then _ else _) = _; rw [h]; rfl) ws
theorem cmptrapV (f : Fields) : Statement (.cmptrapV f) := fun x ws hx hw _ =>
  decodeSlot_encode (f := f) (by rw [hx]; rfl) (by decide) (by decide)
    (by rw [hx]; have h : f.md = true := by simpa [mdOk] using wellFormed_md hw rfl
        change some (if f.md then _ else _) = _; rw [h]; rfl) ws
theorem trap (f : Fields) : Statement (.trap f) := fun _ ws hx _ _ =>
  decodeSlot_encode (f := f) (by rw [hx]; rfl) (by decide) (by decide) (by rw [hx]; rfl) ws
theorem sys (f : Fields) : Statement (.sys f) := fun _ ws hx _ _ =>
  decodeSlot_encode (f := f) (by rw [hx]; rfl) (by decide) (by decide) (by rw [hx]; rfl) ws
theorem mfc (f : Fields) : Statement (.mfc f) := fun _ ws hx _ _ =>
  decodeSlot_encode (f := f) (by rw [hx]; rfl) (by decide) (by decide) (by rw [hx]; rfl) ws
theorem mtc (f : Fields) : Statement (.mtc f) := fun x ws hx hw _ =>
  decodeSlot_encode (f := f) (by rw [hx]; rfl) (by decide) (by decide) (by rw [hx]; exact congrArg some (wellFormed_plain hw)) ws
theorem mtcStatus (f : Fields) : Statement (.mtcStatus f) := fun x ws hx hw _ =>
  decodeSlot_encode (f := f) (by rw [hx]; rfl) (by decide) (by decide)
    (by rw [hx]; have h := wellFormed_reg hw rfl rfl; change some (mtcRow f) = _; simp [mtcRow, h]) ws
theorem mtcFflags (f : Fields) : Statement (.mtcFflags f) := fun x ws hx hw _ =>
  decodeSlot_encode (f := f) (by rw [hx]; rfl) (by decide) (by decide)
    (by rw [hx]; have h := wellFormed_reg hw rfl rfl; change some (mtcRow f) = _; simp [mtcRow, h]) ws
theorem mtcEmask (f : Fields) : Statement (.mtcEmask f) := fun x ws hx hw _ =>
  decodeSlot_encode (f := f) (by rw [hx]; rfl) (by decide) (by decide)
    (by rw [hx]; have h := wellFormed_reg hw rfl rfl; change some (mtcRow f) = _; simp [mtcRow, h]) ws
theorem mtcRngkey (f : Fields) : Statement (.mtcRngkey f) := fun x ws hx hw _ =>
  decodeSlot_encode (f := f) (by rw [hx]; rfl) (by decide) (by decide)
    (by rw [hx]; have h := wellFormed_reg hw rfl rfl; change some (mtcRow f) = _; simp [mtcRow, h]) ws
theorem mtcTbudget (f : Fields) : Statement (.mtcTbudget f) := fun x ws hx hw _ =>
  decodeSlot_encode (f := f) (by rw [hx]; rfl) (by decide) (by decide)
    (by rw [hx]; have h := wellFormed_reg hw rfl rfl; change some (mtcRow f) = _; simp [mtcRow, h]) ws
theorem mtcXcnt (f : Fields) : Statement (.mtcXcnt f) := fun x ws hx hw _ =>
  decodeSlot_encode (f := f) (by rw [hx]; rfl) (by decide) (by decide)
    (by rw [hx]; have h := wellFormed_reg hw rfl rfl; change some (mtcRow f) = _; simp [mtcRow, h]) ws
theorem mtcSlotmap (f : Fields) : Statement (.mtcSlotmap f) := fun x ws hx hw _ =>
  decodeSlot_encode (f := f) (by rw [hx]; rfl) (by decide) (by decide)
    (by rw [hx]; have h := wellFormed_reg hw rfl rfl; change some (mtcRow f) = _; simp [mtcRow, h]) ws
theorem opsel (f : Fields) : Statement (.opsel f) := fun _ ws hx _ _ =>
  decodeSlot_encode (f := f) (by rw [hx]; rfl) (by decide) (by decide) (by rw [hx]; rfl) ws
theorem gtime (f : Fields) : Statement (.gtime f) := fun _ ws hx _ _ =>
  decodeSlot_encode (f := f) (by rw [hx]; rfl) (by decide) (by decide) (by rw [hx]; rfl) ws
theorem ccyc (f : Fields) : Statement (.ccyc f) := fun _ ws hx _ _ =>
  decodeSlot_encode (f := f) (by rw [hx]; rfl) (by decide) (by decide) (by rw [hx]; rfl) ws
theorem evt (f : Fields) : Statement (.evt f) := fun x ws hx hw _ =>
  decodeSlot_encode (f := f) (by rw [hx]; rfl) (by decide) (by decide)
    (by rw [hx]; have h : f.md = false := by simpa [mdOk] using wellFormed_md hw rfl
        change some (if f.md then _ else _) = _; rw [h]; rfl) ws
theorem evtOff (f : Fields) : Statement (.evtOff f) := fun x ws hx hw _ =>
  decodeSlot_encode (f := f) (by rw [hx]; rfl) (by decide) (by decide)
    (by rw [hx]; have h : f.md = true := by simpa [mdOk] using wellFormed_md hw rfl
        change some (if f.md then _ else _) = _; rw [h]; rfl) ws
theorem tlaunch (f : Fields) : Statement (.tlaunch f) := fun _ ws hx _ _ =>
  decodeSlot_encode (f := f) (by rw [hx]; rfl) (by decide) (by decide) (by rw [hx]; rfl) ws
theorem bar (f : Fields) : Statement (.bar f) := fun _ ws hx _ _ =>
  decodeSlot_encode (f := f) (by rw [hx]; rfl) (by decide) (by decide) (by rw [hx]; rfl) ws
theorem phase (f : Fields) : Statement (.phase f) := fun _ ws hx _ _ =>
  decodeSlot_encode (f := f) (by rw [hx]; rfl) (by decide) (by decide) (by rw [hx]; rfl) ws
theorem bswap (f : Fields) : Statement (.bswap f) := fun _ ws hx _ _ =>
  decodeSlot_encode (f := f) (by rw [hx]; rfl) (by decide) (by decide) (by rw [hx]; rfl) ws
theorem shapeLd (f : Fields) : Statement (.shapeLd f) := fun _ ws hx _ _ =>
  decodeSlot_encode (f := f) (by rw [hx]; rfl) (by decide) (by decide) (by rw [hx]; rfl) ws
theorem heapPush (f : Fields) : Statement (.heapPush f) := fun _ ws hx _ _ =>
  decodeSlot_encode (f := f) (by rw [hx]; rfl) (by decide) (by decide) (by rw [hx]; rfl) ws
theorem heapPop (f : Fields) : Statement (.heapPop f) := fun _ ws hx _ _ =>
  decodeSlot_encode (f := f) (by rw [hx]; rfl) (by decide) (by decide) (by rw [hx]; rfl) ws
theorem heapPeek (f : Fields) : Statement (.heapPeek f) := fun x ws hx hw _ =>
  decodeSlot_encode (f := f) (by rw [hx]; rfl) (by decide) (by decide)
    (by rw [hx]; have h : f.md = false := by simpa [mdOk] using wellFormed_md hw rfl
        change some (if f.md then _ else _) = _; rw [h]; rfl) ws
theorem heapPeekDl (f : Fields) : Statement (.heapPeekDl f) := fun x ws hx hw _ =>
  decodeSlot_encode (f := f) (by rw [hx]; rfl) (by decide) (by decide)
    (by rw [hx]; have h : f.md = true := by simpa [mdOk] using wellFormed_md hw rfl
        change some (if f.md then _ else _) = _; rw [h]; rfl) ws
theorem budget (f : Fields) : Statement (.budget f) := fun _ ws hx _ _ =>
  decodeSlot_encode (f := f) (by rw [hx]; rfl) (by decide) (by decide) (by rw [hx]; rfl) ws
theorem erSet (f : Fields) : Statement (.erSet f) := fun _ ws hx _ _ =>
  decodeSlot_encode (f := f) (by rw [hx]; rfl) (by decide) (by decide) (by rw [hx]; rfl) ws
theorem erGet (f : Fields) : Statement (.erGet f) := fun x ws hx hw _ =>
  decodeSlot_encode (f := f) (by rw [hx]; rfl) (by decide) (by decide)
    (by rw [hx]; have h : f.md = false := by simpa [mdOk] using wellFormed_md hw rfl
        change some (if f.md then _ else _) = _; rw [h]; rfl) ws
theorem erGetS (f : Fields) : Statement (.erGetS f) := fun x ws hx hw _ =>
  decodeSlot_encode (f := f) (by rw [hx]; rfl) (by decide) (by decide)
    (by rw [hx]; have h : f.md = true := by simpa [mdOk] using wellFormed_md hw rfl
        change some (if f.md then _ else _) = _; rw [h]; rfl) ws
theorem erIdle (f : Fields) : Statement (.erIdle f) := fun _ ws hx _ _ =>
  decodeSlot_encode (f := f) (by rw [hx]; rfl) (by decide) (by decide) (by rw [hx]; rfl) ws
theorem ldI8 (f : Fields) : Statement (.ldI8 f) := fun _ ws hx _ _ =>
  decodeSlot_encode (f := f) (by rw [hx]; rfl) (by decide) (by decide) (by rw [hx]; rfl) ws
theorem ldN8 (f : Fields) : Statement (.ldN8 f) := fun _ ws hx _ _ =>
  decodeSlot_encode (f := f) (by rw [hx]; rfl) (by decide) (by decide) (by rw [hx]; rfl) ws
theorem ldI16 (f : Fields) : Statement (.ldI16 f) := fun _ ws hx _ _ =>
  decodeSlot_encode (f := f) (by rw [hx]; rfl) (by decide) (by decide) (by rw [hx]; rfl) ws
theorem ldN16 (f : Fields) : Statement (.ldN16 f) := fun _ ws hx _ _ =>
  decodeSlot_encode (f := f) (by rw [hx]; rfl) (by decide) (by decide) (by rw [hx]; rfl) ws
theorem ldI32 (f : Fields) : Statement (.ldI32 f) := fun _ ws hx _ _ =>
  decodeSlot_encode (f := f) (by rw [hx]; rfl) (by decide) (by decide) (by rw [hx]; rfl) ws
theorem ldN32 (f : Fields) : Statement (.ldN32 f) := fun _ ws hx _ _ =>
  decodeSlot_encode (f := f) (by rw [hx]; rfl) (by decide) (by decide) (by rw [hx]; rfl) ws
theorem ldI64 (f : Fields) : Statement (.ldI64 f) := fun _ ws hx _ _ =>
  decodeSlot_encode (f := f) (by rw [hx]; rfl) (by decide) (by decide) (by rw [hx]; rfl) ws
theorem st8 (f : Fields) : Statement (.st8 f) := fun _ ws hx _ _ =>
  decodeSlot_encode (f := f) (by rw [hx]; rfl) (by decide) (by decide) (by rw [hx]; rfl) ws
theorem st16 (f : Fields) : Statement (.st16 f) := fun _ ws hx _ _ =>
  decodeSlot_encode (f := f) (by rw [hx]; rfl) (by decide) (by decide) (by rw [hx]; rfl) ws
theorem st32 (f : Fields) : Statement (.st32 f) := fun _ ws hx _ _ =>
  decodeSlot_encode (f := f) (by rw [hx]; rfl) (by decide) (by decide) (by rw [hx]; rfl) ws
theorem st64 (f : Fields) : Statement (.st64 f) := fun _ ws hx _ _ =>
  decodeSlot_encode (f := f) (by rw [hx]; rfl) (by decide) (by decide) (by rw [hx]; rfl) ws
theorem ldV (f : Fields) : Statement (.ldV f) := fun _ ws hx _ _ =>
  decodeSlot_encode (f := f) (by rw [hx]; rfl) (by decide) (by decide) (by rw [hx]; rfl) ws
theorem stV (f : Fields) : Statement (.stV f) := fun _ ws hx _ _ =>
  decodeSlot_encode (f := f) (by rw [hx]; rfl) (by decide) (by decide) (by rw [hx]; rfl) ws
theorem pref (f : Fields) : Statement (.pref f) := fun _ ws hx _ _ =>
  decodeSlot_encode (f := f) (by rw [hx]; rfl) (by decide) (by decide) (by rw [hx]; rfl) ws
theorem tld (f : Fields) : Statement (.tld f) := fun _ ws hx _ _ =>
  decodeSlot_encode (f := f) (by rw [hx]; rfl) (by decide) (by decide) (by rw [hx]; rfl) ws
theorem tst (f : Fields) : Statement (.tst f) := fun _ ws hx _ _ =>
  decodeSlot_encode (f := f) (by rw [hx]; rfl) (by decide) (by decide) (by rw [hx]; rfl) ws
theorem gld (f : Fields) : Statement (.gld f) := fun _ ws hx _ _ =>
  decodeSlot_encode (f := f) (by rw [hx]; rfl) (by decide) (by decide) (by rw [hx]; rfl) ws
theorem gst (f : Fields) : Statement (.gst f) := fun _ ws hx _ _ =>
  decodeSlot_encode (f := f) (by rw [hx]; rfl) (by decide) (by decide) (by rw [hx]; rfl) ws
theorem stset (f : Fields) : Statement (.stset f) := fun _ ws hx _ _ =>
  decodeSlot_encode (f := f) (by rw [hx]; rfl) (by decide) (by decide) (by rw [hx]; rfl) ws
theorem stget (f : Fields) : Statement (.stget f) := fun _ ws hx _ _ =>
  decodeSlot_encode (f := f) (by rw [hx]; rfl) (by decide) (by decide) (by rw [hx]; rfl) ws
theorem radv (f : Fields) : Statement (.radv f) := fun x ws hx hw _ =>
  decodeSlot_encode (f := f) (by rw [hx]; rfl) (by decide) (by decide)
    (by rw [hx]; have h : f.md = false := by simpa [mdOk] using wellFormed_md hw rfl
        change some (if f.md then _ else _) = _; rw [h]; rfl) ws
theorem radvH (f : Fields) : Statement (.radvH f) := fun x ws hx hw _ =>
  decodeSlot_encode (f := f) (by rw [hx]; rfl) (by decide) (by decide)
    (by rw [hx]; have h : f.md = true := by simpa [mdOk] using wellFormed_md hw rfl
        change some (if f.md then _ else _) = _; rw [h]; rfl) ws
theorem padv (f : Fields) : Statement (.padv f) := fun _ ws hx _ _ =>
  decodeSlot_encode (f := f) (by rw [hx]; rfl) (by decide) (by decide) (by rw [hx]; rfl) ws
theorem pwait (f : Fields) : Statement (.pwait f) := fun _ ws hx _ _ =>
  decodeSlot_encode (f := f) (by rw [hx]; rfl) (by decide) (by decide) (by rw [hx]; rfl) ws
theorem amoAdd (f : Fields) : Statement (.amoAdd f) := fun _ ws hx _ _ =>
  decodeSlot_encode (f := f) (by rw [hx]; rfl) (by decide) (by decide) (by rw [hx]; rfl) ws
theorem amoAnd (f : Fields) : Statement (.amoAnd f) := fun _ ws hx _ _ =>
  decodeSlot_encode (f := f) (by rw [hx]; rfl) (by decide) (by decide) (by rw [hx]; rfl) ws
theorem amoOr (f : Fields) : Statement (.amoOr f) := fun _ ws hx _ _ =>
  decodeSlot_encode (f := f) (by rw [hx]; rfl) (by decide) (by decide) (by rw [hx]; rfl) ws
theorem amoXor (f : Fields) : Statement (.amoXor f) := fun _ ws hx _ _ =>
  decodeSlot_encode (f := f) (by rw [hx]; rfl) (by decide) (by decide) (by rw [hx]; rfl) ws
theorem amoMin (f : Fields) : Statement (.amoMin f) := fun _ ws hx _ _ =>
  decodeSlot_encode (f := f) (by rw [hx]; rfl) (by decide) (by decide) (by rw [hx]; rfl) ws
theorem amoMax (f : Fields) : Statement (.amoMax f) := fun _ ws hx _ _ =>
  decodeSlot_encode (f := f) (by rw [hx]; rfl) (by decide) (by decide) (by rw [hx]; rfl) ws
theorem amoXchg (f : Fields) : Statement (.amoXchg f) := fun _ ws hx _ _ =>
  decodeSlot_encode (f := f) (by rw [hx]; rfl) (by decide) (by decide) (by rw [hx]; rfl) ws
theorem amoCas (f : Fields) : Statement (.amoCas f) := fun _ ws hx _ _ =>
  decodeSlot_encode (f := f) (by rw [hx]; rfl) (by decide) (by decide) (by rw [hx]; rfl) ws
theorem amoFadd (f : Fields) : Statement (.amoFadd f) := fun _ ws hx _ _ =>
  decodeSlot_encode (f := f) (by rw [hx]; rfl) (by decide) (by decide) (by rw [hx]; rfl) ws
theorem stashMap (f : Fields) : Statement (.stashMap f) := fun _ ws hx _ _ =>
  decodeSlot_encode (f := f) (by rw [hx]; rfl) (by decide) (by decide) (by rw [hx]; rfl) ws
theorem stashUnmap (f : Fields) : Statement (.stashUnmap f) := fun _ ws hx _ _ =>
  decodeSlot_encode (f := f) (by rw [hx]; rfl) (by decide) (by decide) (by rw [hx]; rfl) ws
theorem stashFlush (f : Fields) : Statement (.stashFlush f) := fun _ ws hx _ _ =>
  decodeSlot_encode (f := f) (by rw [hx]; rfl) (by decide) (by decide) (by rw [hx]; rfl) ws
theorem slcOpen (f : Fields) : Statement (.slcOpen f) := fun _ ws hx _ _ =>
  decodeSlot_encode (f := f) (by rw [hx]; rfl) (by decide) (by decide) (by rw [hx]; rfl) ws
theorem slcClaim (f : Fields) : Statement (.slcClaim f) := fun x ws hx hw _ =>
  decodeSlot_encode (f := f) (by rw [hx]; rfl) (by decide) (by decide)
    (by rw [hx]; have h : f.md = false := by simpa [mdOk] using wellFormed_md hw rfl
        change some (if f.md then _ else _) = _; rw [h]; rfl) ws
theorem slcClaimC (f : Fields) : Statement (.slcClaimC f) := fun x ws hx hw _ =>
  decodeSlot_encode (f := f) (by rw [hx]; rfl) (by decide) (by decide)
    (by rw [hx]; have h : f.md = true := by simpa [mdOk] using wellFormed_md hw rfl
        change some (if f.md then _ else _) = _; rw [h]; rfl) ws
theorem slcStart (f : Fields) : Statement (.slcStart f) := fun _ ws hx _ _ =>
  decodeSlot_encode (f := f) (by rw [hx]; rfl) (by decide) (by decide) (by rw [hx]; rfl) ws
theorem slcJump (f : Fields) : Statement (.slcJump f) := fun _ ws hx _ _ =>
  decodeSlot_encode (f := f) (by rw [hx]; rfl) (by decide) (by decide) (by rw [hx]; rfl) ws
theorem slcAccept (f : Fields) : Statement (.slcAccept f) := fun _ ws hx _ _ =>
  decodeSlot_encode (f := f) (by rw [hx]; rfl) (by decide) (by decide) (by rw [hx]; rfl) ws
theorem slcWait (f : Fields) : Statement (.slcWait f) := fun _ ws hx _ _ =>
  decodeSlot_encode (f := f) (by rw [hx]; rfl) (by decide) (by decide) (by rw [hx]; rfl) ws
theorem slcStat (f : Fields) : Statement (.slcStat f) := fun x ws hx hw _ =>
  decodeSlot_encode (f := f) (by rw [hx]; rfl) (by decide) (by decide)
    (by rw [hx]; have h : f.md = false := by simpa [mdOk] using wellFormed_md hw rfl
        change some (if f.md then _ else _) = _; rw [h]; rfl) ws
theorem slcStatC (f : Fields) : Statement (.slcStatC f) := fun x ws hx hw _ =>
  decodeSlot_encode (f := f) (by rw [hx]; rfl) (by decide) (by decide)
    (by rw [hx]; have h : f.md = true := by simpa [mdOk] using wellFormed_md hw rfl
        change some (if f.md then _ else _) = _; rw [h]; rfl) ws
theorem slcRetire (f : Fields) : Statement (.slcRetire f) := fun _ ws hx _ _ =>
  decodeSlot_encode (f := f) (by rw [hx]; rfl) (by decide) (by decide) (by rw [hx]; rfl) ws
theorem slcRecycle (f : Fields) : Statement (.slcRecycle f) := fun _ ws hx _ _ =>
  decodeSlot_encode (f := f) (by rw [hx]; rfl) (by decide) (by decide) (by rw [hx]; rfl) ws
theorem slcFault (f : Fields) : Statement (.slcFault f) := fun x ws hx hw _ =>
  decodeSlot_encode (f := f) (by rw [hx]; rfl) (by decide) (by decide)
    (by rw [hx]; have h : f.md = false := by simpa [mdOk] using wellFormed_md hw rfl
        change some (if f.md then _ else _) = _; rw [h]; rfl) ws
theorem slcFaultClr (f : Fields) : Statement (.slcFaultClr f) := fun x ws hx hw _ =>
  decodeSlot_encode (f := f) (by rw [hx]; rfl) (by decide) (by decide)
    (by rw [hx]; have h : f.md = true := by simpa [mdOk] using wellFormed_md hw rfl
        change some (if f.md then _ else _) = _; rw [h]; rfl) ws
theorem slcPage (f : Fields) : Statement (.slcPage f) := fun _ ws hx _ _ =>
  decodeSlot_encode (f := f) (by rw [hx]; rfl) (by decide) (by decide) (by rw [hx]; rfl) ws
theorem slcClose (f : Fields) : Statement (.slcClose f) := fun _ ws hx _ _ =>
  decodeSlot_encode (f := f) (by rw [hx]; rfl) (by decide) (by decide) (by rw [hx]; rfl) ws
theorem ckptBegin (f : Fields) : Statement (.ckptBegin f) := fun _ ws hx _ _ =>
  decodeSlot_encode (f := f) (by rw [hx]; rfl) (by decide) (by decide) (by rw [hx]; rfl) ws
theorem ckptSeal (f : Fields) : Statement (.ckptSeal f) := fun _ ws hx _ _ =>
  decodeSlot_encode (f := f) (by rw [hx]; rfl) (by decide) (by decide) (by rw [hx]; rfl) ws
theorem ckptDiff (f : Fields) : Statement (.ckptDiff f) := fun _ ws hx _ _ =>
  decodeSlot_encode (f := f) (by rw [hx]; rfl) (by decide) (by decide) (by rw [hx]; rfl) ws
theorem vadd (f : Fields) : Statement (.vadd f) := fun _ ws hx _ _ =>
  decodeSlot_encode (f := f) (by rw [hx]; rfl) (by decide) (by decide) (by rw [hx]; rfl) ws
theorem vsub (f : Fields) : Statement (.vsub f) := fun _ ws hx _ _ =>
  decodeSlot_encode (f := f) (by rw [hx]; rfl) (by decide) (by decide) (by rw [hx]; rfl) ws
theorem vmul (f : Fields) : Statement (.vmul f) := fun _ ws hx _ _ =>
  decodeSlot_encode (f := f) (by rw [hx]; rfl) (by decide) (by decide) (by rw [hx]; rfl) ws
theorem vfma (f : Fields) : Statement (.vfma f) := fun _ ws hx _ _ =>
  decodeSlot_encode (f := f) (by rw [hx]; rfl) (by decide) (by decide) (by rw [hx]; rfl) ws
theorem vfms (f : Fields) : Statement (.vfms f) := fun _ ws hx _ _ =>
  decodeSlot_encode (f := f) (by rw [hx]; rfl) (by decide) (by decide) (by rw [hx]; rfl) ws
theorem vmin (f : Fields) : Statement (.vmin f) := fun _ ws hx _ _ =>
  decodeSlot_encode (f := f) (by rw [hx]; rfl) (by decide) (by decide) (by rw [hx]; rfl) ws
theorem vmax (f : Fields) : Statement (.vmax f) := fun _ ws hx _ _ =>
  decodeSlot_encode (f := f) (by rw [hx]; rfl) (by decide) (by decide) (by rw [hx]; rfl) ws
theorem vabs (f : Fields) : Statement (.vabs f) := fun _ ws hx _ _ =>
  decodeSlot_encode (f := f) (by rw [hx]; rfl) (by decide) (by decide) (by rw [hx]; rfl) ws
theorem vneg (f : Fields) : Statement (.vneg f) := fun _ ws hx _ _ =>
  decodeSlot_encode (f := f) (by rw [hx]; rfl) (by decide) (by decide) (by rw [hx]; rfl) ws
theorem vcmpEq (f : Fields) : Statement (.vcmpEq f) := fun _ ws hx _ _ =>
  decodeSlot_encode (f := f) (by rw [hx]; rfl) (by decide) (by decide) (by rw [hx]; rfl) ws
theorem vcmpLt (f : Fields) : Statement (.vcmpLt f) := fun _ ws hx _ _ =>
  decodeSlot_encode (f := f) (by rw [hx]; rfl) (by decide) (by decide) (by rw [hx]; rfl) ws
theorem vcmpLe (f : Fields) : Statement (.vcmpLe f) := fun _ ws hx _ _ =>
  decodeSlot_encode (f := f) (by rw [hx]; rfl) (by decide) (by decide) (by rw [hx]; rfl) ws
theorem vcmpUn (f : Fields) : Statement (.vcmpUn f) := fun _ ws hx _ _ =>
  decodeSlot_encode (f := f) (by rw [hx]; rfl) (by decide) (by decide) (by rw [hx]; rfl) ws
theorem vaddI32 (f : Fields) : Statement (.vaddI32 f) := fun _ ws hx _ _ =>
  decodeSlot_encode (f := f) (by rw [hx]; rfl) (by decide) (by decide) (by rw [hx]; rfl) ws
theorem vsubI32 (f : Fields) : Statement (.vsubI32 f) := fun _ ws hx _ _ =>
  decodeSlot_encode (f := f) (by rw [hx]; rfl) (by decide) (by decide) (by rw [hx]; rfl) ws
theorem vmulI32 (f : Fields) : Statement (.vmulI32 f) := fun _ ws hx _ _ =>
  decodeSlot_encode (f := f) (by rw [hx]; rfl) (by decide) (by decide) (by rw [hx]; rfl) ws
theorem vminI32 (f : Fields) : Statement (.vminI32 f) := fun _ ws hx _ _ =>
  decodeSlot_encode (f := f) (by rw [hx]; rfl) (by decide) (by decide) (by rw [hx]; rfl) ws
theorem vmaxI32 (f : Fields) : Statement (.vmaxI32 f) := fun _ ws hx _ _ =>
  decodeSlot_encode (f := f) (by rw [hx]; rfl) (by decide) (by decide) (by rw [hx]; rfl) ws
theorem vand (f : Fields) : Statement (.vand f) := fun _ ws hx _ _ =>
  decodeSlot_encode (f := f) (by rw [hx]; rfl) (by decide) (by decide) (by rw [hx]; rfl) ws
theorem vor (f : Fields) : Statement (.vor f) := fun _ ws hx _ _ =>
  decodeSlot_encode (f := f) (by rw [hx]; rfl) (by decide) (by decide) (by rw [hx]; rfl) ws
theorem vxor (f : Fields) : Statement (.vxor f) := fun _ ws hx _ _ =>
  decodeSlot_encode (f := f) (by rw [hx]; rfl) (by decide) (by decide) (by rw [hx]; rfl) ws
theorem vshl (f : Fields) : Statement (.vshl f) := fun _ ws hx _ _ =>
  decodeSlot_encode (f := f) (by rw [hx]; rfl) (by decide) (by decide) (by rw [hx]; rfl) ws
theorem vshr (f : Fields) : Statement (.vshr f) := fun _ ws hx _ _ =>
  decodeSlot_encode (f := f) (by rw [hx]; rfl) (by decide) (by decide) (by rw [hx]; rfl) ws
theorem vcmpiEq (f : Fields) : Statement (.vcmpiEq f) := fun _ ws hx _ _ =>
  decodeSlot_encode (f := f) (by rw [hx]; rfl) (by decide) (by decide) (by rw [hx]; rfl) ws
theorem vcmpiLt (f : Fields) : Statement (.vcmpiLt f) := fun _ ws hx _ _ =>
  decodeSlot_encode (f := f) (by rw [hx]; rfl) (by decide) (by decide) (by rw [hx]; rfl) ws
theorem vsel (f : Fields) : Statement (.vsel f) := fun _ ws hx _ _ =>
  decodeSlot_encode (f := f) (by rw [hx]; rfl) (by decide) (by decide) (by rw [hx]; rfl) ws
theorem vmov (f : Fields) : Statement (.vmov f) := fun _ ws hx _ _ =>
  decodeSlot_encode (f := f) (by rw [hx]; rfl) (by decide) (by decide) (by rw [hx]; rfl) ws
theorem vsplat (f : Fields) : Statement (.vsplat f) := fun _ ws hx _ _ =>
  decodeSlot_encode (f := f) (by rw [hx]; rfl) (by decide) (by decide) (by rw [hx]; rfl) ws
theorem vext (f : Fields) : Statement (.vext f) := fun _ ws hx _ _ =>
  decodeSlot_encode (f := f) (by rw [hx]; rfl) (by decide) (by decide) (by rw [hx]; rfl) ws
theorem vins (f : Fields) : Statement (.vins f) := fun _ ws hx _ _ =>
  decodeSlot_encode (f := f) (by rw [hx]; rfl) (by decide) (by decide) (by rw [hx]; rfl) ws
theorem vrotR (f : Fields) : Statement (.vrotR f) := fun _ ws hx _ _ =>
  decodeSlot_encode (f := f) (by rw [hx]; rfl) (by decide) (by decide) (by rw [hx]; rfl) ws
theorem vrotC (f : Fields) : Statement (.vrotC f) := fun _ ws hx _ _ =>
  decodeSlot_encode (f := f) (by rw [hx]; rfl) (by decide) (by decide) (by rw [hx]; rfl) ws
theorem vbcR (f : Fields) : Statement (.vbcR f) := fun _ ws hx _ _ =>
  decodeSlot_encode (f := f) (by rw [hx]; rfl) (by decide) (by decide) (by rw [hx]; rfl) ws
theorem vbcC (f : Fields) : Statement (.vbcC f) := fun _ ws hx _ _ =>
  decodeSlot_encode (f := f) (by rw [hx]; rfl) (by decide) (by decide) (by rw [hx]; rfl) ws
theorem vsumR (f : Fields) : Statement (.vsumR f) := fun _ ws hx _ _ =>
  decodeSlot_encode (f := f) (by rw [hx]; rfl) (by decide) (by decide) (by rw [hx]; rfl) ws
theorem vmaxR (f : Fields) : Statement (.vmaxR f) := fun _ ws hx _ _ =>
  decodeSlot_encode (f := f) (by rw [hx]; rfl) (by decide) (by decide) (by rw [hx]; rfl) ws
theorem vminR (f : Fields) : Statement (.vminR f) := fun _ ws hx _ _ =>
  decodeSlot_encode (f := f) (by rw [hx]; rfl) (by decide) (by decide) (by rw [hx]; rfl) ws
theorem vsumC (f : Fields) : Statement (.vsumC f) := fun _ ws hx _ _ =>
  decodeSlot_encode (f := f) (by rw [hx]; rfl) (by decide) (by decide) (by rw [hx]; rfl) ws
theorem vmaxC (f : Fields) : Statement (.vmaxC f) := fun _ ws hx _ _ =>
  decodeSlot_encode (f := f) (by rw [hx]; rfl) (by decide) (by decide) (by rw [hx]; rfl) ws
theorem vminC (f : Fields) : Statement (.vminC f) := fun _ ws hx _ _ =>
  decodeSlot_encode (f := f) (by rw [hx]; rfl) (by decide) (by decide) (by rw [hx]; rfl) ws
theorem vperm (f : Fields) : Statement (.vperm f) := fun _ ws hx _ _ =>
  decodeSlot_encode (f := f) (by rw [hx]; rfl) (by decide) (by decide) (by rw [hx]; rfl) ws
theorem vtrn (f : Fields) : Statement (.vtrn f) := fun _ ws hx _ _ =>
  decodeSlot_encode (f := f) (by rw [hx]; rfl) (by decide) (by decide) (by rw [hx]; rfl) ws
theorem vcvt (f : Fields) : Statement (.vcvt f) := fun _ ws hx _ _ =>
  decodeSlot_encode (f := f) (by rw [hx]; rfl) (by change 1 < 5; decide) (by change 64 < 128; decide) (by rw [hx]; rfl) ws
theorem vquant (f : Fields) : Statement (.vquant f) := fun _ ws hx _ _ =>
  decodeSlot_encode (f := f) (by rw [hx]; rfl) (by decide) (by decide) (by rw [hx]; rfl) ws
theorem vdeq (f : Fields) : Statement (.vdeq f) := fun _ ws hx _ _ =>
  decodeSlot_encode (f := f) (by rw [hx]; rfl) (by decide) (by decide) (by rw [hx]; rfl) ws
theorem vsplit3 (f : Fields) : Statement (.vsplit3 f) := fun _ ws hx _ _ =>
  decodeSlot_encode (f := f) (by rw [hx]; rfl) (by decide) (by decide) (by rw [hx]; rfl) ws
theorem vround (f : Fields) : Statement (.vround f) := fun _ ws hx _ _ =>
  decodeSlot_encode (f := f) (by rw [hx]; rfl) (by decide) (by decide) (by rw [hx]; rfl) ws
theorem vcorr (f : Fields) : Statement (.vcorr f) := fun _ ws hx _ _ =>
  decodeSlot_encode (f := f) (by rw [hx]; rfl) (by decide) (by decide) (by rw [hx]; rfl) ws
theorem mand (f : Fields) : Statement (.mand f) := fun _ ws hx _ _ =>
  decodeSlot_encode (f := f) (by rw [hx]; rfl) (by decide) (by decide) (by rw [hx]; rfl) ws
theorem mor (f : Fields) : Statement (.mor f) := fun _ ws hx _ _ =>
  decodeSlot_encode (f := f) (by rw [hx]; rfl) (by decide) (by decide) (by rw [hx]; rfl) ws
theorem mxor (f : Fields) : Statement (.mxor f) := fun _ ws hx _ _ =>
  decodeSlot_encode (f := f) (by rw [hx]; rfl) (by decide) (by decide) (by rw [hx]; rfl) ws
theorem mnot (f : Fields) : Statement (.mnot f) := fun _ ws hx _ _ =>
  decodeSlot_encode (f := f) (by rw [hx]; rfl) (by decide) (by decide) (by rw [hx]; rfl) ws
theorem mcnt (f : Fields) : Statement (.mcnt f) := fun _ ws hx _ _ =>
  decodeSlot_encode (f := f) (by rw [hx]; rfl) (by decide) (by decide) (by rw [hx]; rfl) ws
theorem mfirst (f : Fields) : Statement (.mfirst f) := fun x ws hx hw _ =>
  decodeSlot_encode (f := f) (by rw [hx]; rfl) (by decide) (by decide)
    (by rw [hx]; have h : f.md = false := by simpa [mdOk] using wellFormed_md hw rfl
        change some (if f.md then _ else _) = _; rw [h]; rfl) ws
theorem mfirstM (f : Fields) : Statement (.mfirstM f) := fun x ws hx hw _ =>
  decodeSlot_encode (f := f) (by rw [hx]; rfl) (by decide) (by decide)
    (by rw [hx]; have h : f.md = true := by simpa [mdOk] using wellFormed_md hw rfl
        change some (if f.md then _ else _) = _; rw [h]; rfl) ws
theorem mset (f : Fields) : Statement (.mset f) := fun _ ws hx _ _ =>
  decodeSlot_encode (f := f) (by rw [hx]; rfl) (by decide) (by decide) (by rw [hx]; rfl) ws
theorem mact (f : Fields) : Statement (.mact f) := fun _ ws hx _ _ =>
  decodeSlot_encode (f := f) (by rw [hx]; rfl) (by decide) (by decide) (by rw [hx]; rfl) ws
theorem vexp2 (f : Fields) : Statement (.vexp2 f) := fun _ ws hx _ _ =>
  decodeSlot_encode (f := f) (by rw [hx]; rfl) (by decide) (by decide) (by rw [hx]; rfl) ws
theorem vlog2 (f : Fields) : Statement (.vlog2 f) := fun _ ws hx _ _ =>
  decodeSlot_encode (f := f) (by rw [hx]; rfl) (by decide) (by decide) (by rw [hx]; rfl) ws
theorem vrcp (f : Fields) : Statement (.vrcp f) := fun _ ws hx _ _ =>
  decodeSlot_encode (f := f) (by rw [hx]; rfl) (by decide) (by decide) (by rw [hx]; rfl) ws
theorem vrsq (f : Fields) : Statement (.vrsq f) := fun _ ws hx _ _ =>
  decodeSlot_encode (f := f) (by rw [hx]; rfl) (by decide) (by decide) (by rw [hx]; rfl) ws
theorem vsqrt (f : Fields) : Statement (.vsqrt f) := fun _ ws hx _ _ =>
  decodeSlot_encode (f := f) (by rw [hx]; rfl) (by decide) (by decide) (by rw [hx]; rfl) ws
theorem vtanh (f : Fields) : Statement (.vtanh f) := fun _ ws hx _ _ =>
  decodeSlot_encode (f := f) (by rw [hx]; rfl) (by decide) (by decide) (by rw [hx]; rfl) ws
theorem vsig (f : Fields) : Statement (.vsig f) := fun _ ws hx _ _ =>
  decodeSlot_encode (f := f) (by rw [hx]; rfl) (by decide) (by decide) (by rw [hx]; rfl) ws
theorem vsincos (f : Fields) : Statement (.vsincos f) := fun _ ws hx _ _ =>
  decodeSlot_encode (f := f) (by rw [hx]; rfl) (by decide) (by decide) (by rw [hx]; rfl) ws
theorem cfMerge (f : Fields) : Statement (.cfMerge f) := fun x ws hx hw _ =>
  decodeSlot_encode (f := f) (by rw [hx]; rfl) (by decide) (by decide)
    (by rw [hx]; have h : f.md = false := by simpa [mdOk] using wellFormed_md hw rfl
        change some (if f.md then _ else _) = _; rw [h]; rfl) ws
theorem cfMergeP (f : Fields) : Statement (.cfMergeP f) := fun x ws hx hw _ =>
  decodeSlot_encode (f := f) (by rw [hx]; rfl) (by decide) (by decide)
    (by rw [hx]; have h : f.md = true := by simpa [mdOk] using wellFormed_md hw rfl
        change some (if f.md then _ else _) = _; rw [h]; rfl) ws
theorem cfNorm (f : Fields) : Statement (.cfNorm f) := fun x ws hx hw _ =>
  decodeSlot_encode (f := f) (by rw [hx]; rfl) (by decide) (by decide)
    (by rw [hx]; have h : f.md = false := by simpa [mdOk] using wellFormed_md hw rfl
        change some (if f.md then _ else _) = _; rw [h]; rfl) ws
theorem cfNormD (f : Fields) : Statement (.cfNormD f) := fun x ws hx hw _ =>
  decodeSlot_encode (f := f) (by rw [hx]; rfl) (by decide) (by decide)
    (by rw [hx]; have h : f.md = true := by simpa [mdOk] using wellFormed_md hw rfl
        change some (if f.md then _ else _) = _; rw [h]; rfl) ws
theorem cfLabel (f : Fields) : Statement (.cfLabel f) := fun _ ws hx _ _ =>
  decodeSlot_encode (f := f) (by rw [hx]; rfl) (by decide) (by decide) (by rw [hx]; rfl) ws
theorem cfRead (f : Fields) : Statement (.cfRead f) := fun _ ws hx _ _ =>
  decodeSlot_encode (f := f) (by rw [hx]; rfl) (by decide) (by decide) (by rw [hx]; rfl) ws
theorem cfXmerge (f : Fields) : Statement (.cfXmerge f) := fun _ ws hx _ _ =>
  decodeSlot_encode (f := f) (by rw [hx]; rfl) (by decide) (by decide) (by rw [hx]; rfl) ws
theorem cfTopp (f : Fields) : Statement (.cfTopp f) := fun x ws hx hw _ =>
  decodeSlot_encode (f := f) (by rw [hx]; rfl) (by decide) (by decide)
    (by rw [hx]; have h : f.md = false := by simpa [mdOk] using wellFormed_md hw rfl
        change some (if f.md then _ else _) = _; rw [h]; rfl) ws
theorem cfToppSet (f : Fields) : Statement (.cfToppSet f) := fun x ws hx hw _ =>
  decodeSlot_encode (f := f) (by rw [hx]; rfl) (by decide) (by decide)
    (by rw [hx]; have h : f.md = true := by simpa [mdOk] using wellFormed_md hw rfl
        change some (if f.md then _ else _) = _; rw [h]; rfl) ws
theorem cfRace (f : Fields) : Statement (.cfRace f) := fun _ ws hx _ _ =>
  decodeSlot_encode (f := f) (by rw [hx]; rfl) (by decide) (by decide) (by rw [hx]; rfl) ws
theorem cfMask (f : Fields) : Statement (.cfMask f) := fun x ws hx hw _ =>
  decodeSlot_encode (f := f) (by rw [hx]; rfl) (by decide) (by decide)
    (by rw [hx]; have h : f.md = false := by simpa [mdOk] using wellFormed_md hw rfl
        change some (if f.md then _ else _) = _; rw [h]; rfl) ws
theorem cfSpill (f : Fields) : Statement (.cfSpill f) := fun _ ws hx _ _ =>
  decodeSlot_encode (f := f) (by rw [hx]; rfl) (by decide) (by decide) (by rw [hx]; rfl) ws
theorem rngKey (f : Fields) : Statement (.rngKey f) := fun _ ws hx _ _ =>
  decodeSlot_encode (f := f) (by rw [hx]; rfl) (by decide) (by decide) (by rw [hx]; rfl) ws
theorem rngPos (f : Fields) : Statement (.rngPos f) := fun x ws hx hw _ =>
  decodeSlot_encode (f := f) (by rw [hx]; rfl) (by decide) (by decide)
    (by rw [hx]; have h : f.md = false := by simpa [mdOk] using wellFormed_md hw rfl
        change some (if f.md then _ else _) = _; rw [h]; rfl) ws
theorem rngPosR (f : Fields) : Statement (.rngPosR f) := fun x ws hx hw _ =>
  decodeSlot_encode (f := f) (by rw [hx]; rfl) (by decide) (by decide)
    (by rw [hx]; have h : f.md = true := by simpa [mdOk] using wellFormed_md hw rfl
        change some (if f.md then _ else _) = _; rw [h]; rfl) ws
theorem xaInit (f : Fields) : Statement (.xaInit f) := fun _ ws hx _ _ =>
  decodeSlot_encode (f := f) (by rw [hx]; rfl) (by decide) (by decide) (by rw [hx]; rfl) ws
theorem xaPush (f : Fields) : Statement (.xaPush f) := fun _ ws hx _ _ =>
  decodeSlot_encode (f := f) (by rw [hx]; rfl) (by decide) (by decide) (by rw [hx]; rfl) ws
theorem xaEst (f : Fields) : Statement (.xaEst f) := fun _ ws hx _ _ =>
  decodeSlot_encode (f := f) (by rw [hx]; rfl) (by decide) (by decide) (by rw [hx]; rfl) ws
theorem xaStat (f : Fields) : Statement (.xaStat f) := fun _ ws hx _ _ =>
  decodeSlot_encode (f := f) (by rw [hx]; rfl) (by decide) (by decide) (by rw [hx]; rfl) ws
theorem tmma (f : Fields) : Statement (.tmma f) := fun x ws hx hw _ =>
  decodeSlot_encode (f := f) (by rw [hx]; rfl) (by decide) (by decide)
    (by rw [hx]; have h : f.md = false := by simpa [mdOk] using wellFormed_md hw rfl
        change some (if f.md then _ else _) = _; rw [h]; rfl) ws
theorem tmmaCell (f : Fields) : Statement (.tmmaCell f) := fun x ws hx hw _ =>
  decodeSlot_encode (f := f) (by rw [hx]; rfl) (by decide) (by decide)
    (by rw [hx]; have h : f.md = true := by simpa [mdOk] using wellFormed_md hw rfl
        change some (if f.md then _ else _) = _; rw [h]; rfl) ws
theorem tspmma (f : Fields) : Statement (.tspmma f) := fun x ws hx hw _ =>
  decodeSlot_encode (f := f) (by rw [hx]; rfl) (by decide) (by decide)
    (by rw [hx]; have h : f.md = false := by simpa [mdOk] using wellFormed_md hw rfl
        change some (if f.md then _ else _) = _; rw [h]; rfl) ws
theorem tspmma48 (f : Fields) : Statement (.tspmma48 f) := fun x ws hx hw _ =>
  decodeSlot_encode (f := f) (by rw [hx]; rfl) (by decide) (by decide)
    (by rw [hx]; have h : f.md = true := by simpa [mdOk] using wellFormed_md hw rfl
        change some (if f.md then _ else _) = _; rw [h]; rfl) ws
theorem tcomp (f : Fields) : Statement (.tcomp f) := fun x ws hx hw _ =>
  decodeSlot_encode (f := f) (by rw [hx]; rfl) (by decide) (by decide)
    (by rw [hx]; have h : f.md = false := by simpa [mdOk] using wellFormed_md hw rfl
        change some (if f.md then _ else _) = _; rw [h]; rfl) ws
theorem tcomp48 (f : Fields) : Statement (.tcomp48 f) := fun x ws hx hw _ =>
  decodeSlot_encode (f := f) (by rw [hx]; rfl) (by decide) (by decide)
    (by rw [hx]; have h : f.md = true := by simpa [mdOk] using wellFormed_md hw rfl
        change some (if f.md then _ else _) = _; rw [h]; rfl) ws
theorem tzero (f : Fields) : Statement (.tzero f) := fun _ ws hx _ _ =>
  decodeSlot_encode (f := f) (by rw [hx]; rfl) (by decide) (by decide) (by rw [hx]; rfl) ws
theorem tdrain (f : Fields) : Statement (.tdrain f) := fun _ ws hx _ _ =>
  decodeSlot_encode (f := f) (by rw [hx]; rfl) (by decide) (by decide) (by rw [hx]; rfl) ws
theorem tdacc (f : Fields) : Statement (.tdacc f) := fun x ws hx hw _ =>
  decodeSlot_encode (f := f) (by rw [hx]; rfl) (by decide) (by decide)
    (by rw [hx]; have h : f.md = false := by simpa [mdOk] using wellFormed_md hw rfl
        change some (if f.md then _ else _) = _; rw [h]; rfl) ws
theorem tdaccClamp (f : Fields) : Statement (.tdaccClamp f) := fun x ws hx hw _ =>
  decodeSlot_encode (f := f) (by rw [hx]; rfl) (by decide) (by decide)
    (by rw [hx]; have h : f.md = true := by simpa [mdOk] using wellFormed_md hw rfl
        change some (if f.md then _ else _) = _; rw [h]; rfl) ws
theorem tread (f : Fields) : Statement (.tread f) := fun _ ws hx _ _ =>
  decodeSlot_encode (f := f) (by rw [hx]; rfl) (by decide) (by decide) (by rw [hx]; rfl) ws
theorem tcellp (f : Fields) : Statement (.tcellp f) := fun _ ws hx _ _ =>
  decodeSlot_encode (f := f) (by rw [hx]; rfl) (by decide) (by decide) (by rw [hx]; rfl) ws
theorem epiSet (f : Fields) : Statement (.epiSet f) := fun _ ws hx _ _ =>
  decodeSlot_encode (f := f) (by rw [hx]; rfl) (by decide) (by decide) (by rw [hx]; rfl) ws
theorem mpset (f : Fields) : Statement (.mpset f) := fun x ws hx hw _ =>
  decodeSlot_encode (f := f) (by rw [hx]; rfl) (by decide) (by decide)
    (by rw [hx]; have h : f.md = false := by simpa [mdOk] using wellFormed_md hw rfl
        change some (if f.md then _ else _) = _; rw [h]; rfl) ws
theorem mpsetAdd (f : Fields) : Statement (.mpsetAdd f) := fun x ws hx hw _ =>
  decodeSlot_encode (f := f) (by rw [hx]; rfl) (by decide) (by decide)
    (by rw [hx]; have h : f.md = true := by simpa [mdOk] using wellFormed_md hw rfl
        change some (if f.md then _ else _) = _; rw [h]; rfl) ws
theorem tcall (f : Fields) : Statement (.tcall f) := fun _ ws hx _ _ =>
  decodeSlot_encode (f := f) (by rw [hx]; rfl) (by decide) (by decide) (by rw [hx]; rfl) ws
theorem tloop (f : Fields) : Statement (.tloop f) := fun _ ws hx _ _ =>
  decodeSlot_encode (f := f) (by rw [hx]; rfl) (by decide) (by decide) (by rw [hx]; rfl) ws
theorem tvproj (f : Fields) : Statement (.tvproj f) := fun x ws hx hw _ =>
  decodeSlot_encode (f := f) (by rw [hx]; rfl) (by decide) (by decide)
    (by rw [hx]; have h : f.md = false := by simpa [mdOk] using wellFormed_md hw rfl
        change some (if f.md then _ else _) = _; rw [h]; rfl) ws
theorem tvprojR (f : Fields) : Statement (.tvprojR f) := fun x ws hx hw _ =>
  decodeSlot_encode (f := f) (by rw [hx]; rfl) (by decide) (by decide)
    (by rw [hx]; have h : f.md = true := by simpa [mdOk] using wellFormed_md hw rfl
        change some (if f.md then _ else _) = _; rw [h]; rfl) ws
theorem tvprojPair (f : Fields) : Statement (.tvprojPair f) := fun x ws hx hw _ =>
  decodeSlot_encode (f := f) (by rw [hx]; rfl) (by decide) (by decide)
    (by rw [hx]; have h : f.md = false := by simpa [mdOk] using wellFormed_md hw rfl
        change some (if f.md then _ else _) = _; rw [h]; rfl) ws
theorem tvprojPairR (f : Fields) : Statement (.tvprojPairR f) := fun x ws hx hw _ =>
  decodeSlot_encode (f := f) (by rw [hx]; rfl) (by decide) (by decide)
    (by rw [hx]; have h : f.md = true := by simpa [mdOk] using wellFormed_md hw rfl
        change some (if f.md then _ else _) = _; rw [h]; rfl) ws
theorem rstLoad (f : Fields) : Statement (.rstLoad f) := fun _ ws hx _ _ =>
  decodeSlot_encode (f := f) (by rw [hx]; rfl) (by decide) (by decide) (by rw [hx]; rfl) ws
theorem mtcFmode (f : Fields) : Statement (.mtcFmode f) := fun x ws hx hw _ =>
  decodeSlot_encode (f := f) (by rw [hx]; rfl) (by decide) (by decide)
    (by rw [hx]; have h := wellFormed_reg hw rfl rfl; change some (mtcRow f) = _; simp [mtcRow, h]) ws
theorem mtcRngsrc (f : Fields) : Statement (.mtcRngsrc f) := fun x ws hx hw _ =>
  decodeSlot_encode (f := f) (by rw [hx]; rfl) (by decide) (by decide)
    (by rw [hx]; have h := wellFormed_reg hw rfl rfl; change some (mtcRow f) = _; simp [mtcRow, h]) ws
theorem nop : Statement .nop := fun _ ws hx _ _ =>
  decodeSlot_encode (by rw [hx]; rfl) (by decide) (by decide) (by rw [hx]; rfl) ws
theorem yield : Statement .yield := fun _ ws hx _ _ =>
  decodeSlot_encode (by rw [hx]; rfl) (by decide) (by decide) (by rw [hx]; rfl) ws
theorem exit : Statement .exit := fun _ ws hx _ _ =>
  decodeSlot_encode (by rw [hx]; rfl) (by decide) (by decide) (by rw [hx]; rfl) ws
theorem rfe : Statement .rfe := fun _ ws hx _ _ =>
  decodeSlot_encode (by rw [hx]; rfl) (by decide) (by decide) (by rw [hx]; rfl) ws
theorem rfu : Statement .rfu := fun _ ws hx _ _ =>
  decodeSlot_encode (by rw [hx]; rfl) (by decide) (by decide) (by rw [hx]; rfl) ws
theorem yieldEr : Statement .yieldEr := fun _ ws hx _ _ =>
  decodeSlot_encode (by rw [hx]; rfl) (by decide) (by decide) (by rw [hx]; rfl) ws
theorem cfClear : Statement .cfClear := fun _ ws hx _ _ =>
  decodeSlot_encode (by rw [hx]; rfl) (by decide) (by decide) (by rw [hx]; rfl) ws
theorem cfClearAll : Statement .cfClearAll := fun _ ws hx _ _ =>
  decodeSlot_encode (by rw [hx]; rfl) (by decide) (by decide) (by rw [hx]; rfl) ws
theorem cfMaskOff : Statement .cfMaskOff := fun _ ws hx _ _ =>
  decodeSlot_encode (by rw [hx]; rfl) (by decide) (by decide) (by rw [hx]; rfl) ws
theorem tret : Statement .tret := fun _ ws hx _ _ =>
  decodeSlot_encode (by rw [hx]; rfl) (by decide) (by decide) (by rw [hx]; rfl) ws
theorem tstep : Statement .tstep := fun _ ws hx _ _ =>
  decodeSlot_encode (by rw [hx]; rfl) (by decide) (by decide) (by rw [hx]; rfl) ws
theorem hostRmaWrite : Statement .hostRmaWrite := fun _ _ _ _ he => by cases he
theorem hostRmaRead : Statement .hostRmaRead := fun _ _ _ _ he => by cases he
theorem recordTimeout : Statement .recordTimeout := fun _ _ _ _ he => by cases he
theorem onChipRingRefill : Statement .onChipRingRefill := fun _ _ _ _ he => by cases he
theorem queueEnable : Statement .queueEnable := fun _ _ _ _ he => by cases he
theorem queueDisable : Statement .queueDisable := fun _ _ _ _ he => by cases he
theorem queueSetQsize : Statement .queueSetQsize := fun _ _ _ _ he => by cases he
theorem queueSettings : Statement .queueSettings := fun _ _ _ _ he => by cases he
theorem dispatchHead : Statement .dispatchHead := fun _ _ _ _ he => by cases he
theorem placementRetry : Statement .placementRetry := fun _ _ _ _ he => by cases he
theorem contextFree : Statement .contextFree := fun _ _ _ _ he => by cases he
theorem barrierRelease : Statement .barrierRelease := fun _ _ _ _ he => by cases he
theorem barD5Exchange : Statement .barD5Exchange := fun _ _ _ _ he => by cases he
theorem dispatchAnswer : Statement .dispatchAnswer := fun _ _ _ _ he => by cases he
theorem contextReady : Statement .contextReady := fun _ _ _ _ he => by cases he
theorem legLimitReached : Statement .legLimitReached := fun _ _ _ _ he => by cases he
theorem graceExpiry : Statement .graceExpiry := fun _ _ _ _ he => by cases he
theorem taskResumption : Statement .taskResumption := fun _ _ _ _ he => by cases he
theorem registerMissMicrotrap : Statement .registerMissMicrotrap := fun _ _ _ _ he => by cases he
theorem energyQuotaExhausted : Statement .energyQuotaExhausted := fun _ _ _ _ he => by cases he
theorem quotaGrant : Statement .quotaGrant := fun _ _ _ _ he => by cases he
theorem loadDataArrival : Statement .loadDataArrival := fun _ _ _ _ he => by cases he
theorem deferredTrap : Statement .deferredTrap := fun _ _ _ _ he => by cases he
theorem userEventDelivery : Statement .userEventDelivery := fun _ _ _ _ he => by cases he
theorem storePerform : Statement .storePerform := fun _ _ _ _ he => by cases he
theorem atomicPerform : Statement .atomicPerform := fun _ _ _ _ he => by cases he
theorem homeAccess : Statement .homeAccess := fun _ _ _ _ he => by cases he
theorem stashFill : Statement .stashFill := fun _ _ _ _ he => by cases he
theorem l2Eviction : Statement .l2Eviction := fun _ _ _ _ he => by cases he
theorem logicalTimeTick : Statement .logicalTimeTick := fun _ _ _ _ he => by cases he
theorem remoteAccessArrival : Statement .remoteAccessArrival := fun _ _ _ _ he => by cases he
theorem remoteCompletion : Statement .remoteCompletion := fun _ _ _ _ he => by cases he
theorem matrixEntryExecute : Statement .matrixEntryExecute := fun _ _ _ _ he => by cases he
theorem matrixEntryRetire : Statement .matrixEntryRetire := fun _ _ _ _ he => by cases he
theorem tileLoadComplete : Statement .tileLoadComplete := fun _ _ _ _ he => by cases he
theorem tileStorePerform : Statement .tileStorePerform := fun _ _ _ _ he => by cases he
theorem bswapCopyComplete : Statement .bswapCopyComplete := fun _ _ _ _ he => by cases he
theorem phaseCancel : Statement .phaseCancel := fun _ _ _ _ he => by cases he
theorem opselSettleEnd : Statement .opselSettleEnd := fun _ _ _ _ he => by cases he
theorem rngQueueFill : Statement .rngQueueFill := fun _ _ _ _ he => by cases he
theorem walkStart : Statement .walkStart := fun _ _ _ _ he => by cases he
theorem edgeIdlePass : Statement .edgeIdlePass := fun _ _ _ _ he => by cases he
theorem fabricTimeout : Statement .fabricTimeout := fun _ _ _ _ he => by cases he
theorem ftimeoutSet : Statement .ftimeoutSet := fun _ _ _ _ he => by cases he
theorem nodeRecovery : Statement .nodeRecovery := fun _ _ _ _ he => by cases he
theorem checkpointSettings : Statement .checkpointSettings := fun _ _ _ _ he => by cases he
theorem reserveAssign : Statement .reserveAssign := fun _ _ _ _ he => by cases he
theorem ckptPageCopied : Statement .ckptPageCopied := fun _ _ _ _ he => by cases he
theorem ckptCopyComplete : Statement .ckptCopyComplete := fun _ _ _ _ he => by cases he
theorem ckptCopyFail : Statement .ckptCopyFail := fun _ _ _ _ he => by cases he
theorem tlbInvalidate : Statement .tlbInvalidate := fun _ _ _ _ he => by cases he
theorem tlbInvalidateComplete : Statement .tlbInvalidateComplete := fun _ _ _ _ he => by cases he
theorem plimitSet : Statement .plimitSet := fun _ _ _ _ he => by cases he
theorem powerOverBound : Statement .powerOverBound := fun _ _ _ _ he => by cases he
theorem capLower : Statement .capLower := fun _ _ _ _ he => by cases he
theorem capRaise : Statement .capRaise := fun _ _ _ _ he => by cases he
theorem thermalThreshold : Statement .thermalThreshold := fun _ _ _ _ he => by cases he
theorem slowdownNotice : Statement .slowdownNotice := fun _ _ _ _ he => by cases he
theorem slowdownTimer : Statement .slowdownTimer := fun _ _ _ _ he => by cases he
theorem slowdownLapse : Statement .slowdownLapse := fun _ _ _ _ he => by cases he
theorem hbmSoftRepair : Statement .hbmSoftRepair := fun _ _ _ _ he => by cases he
theorem softRepairEnd : Statement .softRepairEnd := fun _ _ _ _ he => by cases he
theorem flitCheckFailure : Statement .flitCheckFailure := fun _ _ _ _ he => by cases he
theorem blockCheckFailure : Statement .blockCheckFailure := fun _ _ _ _ he => by cases he
theorem packageReset : Statement .packageReset := fun _ _ _ _ he => by cases he
theorem firmwareInstall : Statement .firmwareInstall := fun _ _ _ _ he => by cases he
theorem attestationRequest : Statement .attestationRequest := fun _ _ _ _ he => by cases he
theorem unlistedOpcode : Statement .unlistedOpcode := fun _ _ _ _ he => by cases he

end Sys2Proof.Laws.RoundTrip
end

