-- ==== Sys2Proof/Laws/Slots.lean ====
section
/-! SUPPORT. What the running of a slot comes to, one lemma for each shape. -/

namespace Sys2Proof.Machine

theorem Runs.asking {s : State} {e : Env} (h : Runs s e) : e.asking = false := by
  simp [Env.asking, h.issued]

theorem Asks.asks {s : State} {e : Env} (h : Asks s e) : e.asking = true := by
  simp [Env.asking, h.asking]

/-- A slot whose guard is false has no effect (R20). -/
theorem runSlot_off {s : State} {e : Env} (body : Env → State → SlotRes) (h : s.env = some e)
    (g : e.b.latch.guard e.p.word = false) : runSlot s body = .next (s.advance e) := by
  simp [runSlot, h, g]

/-- The outcome of a slot that acts, by what its meaning comes to. -/
def SlotRes.outcome (s : State) (e : Env) : SlotRes → State
  | .done t => t.advance e
  | .trap cause taddr => s.slotTrap e e.p.pos cause (taddr.getD e.slotAddr)
  | .trapDone t cause taddr => t.slotTrap e e.resumeAfter cause taddr
  | .trapSet t cause taddr => t.slotTrap e e.p.pos cause taddr
  | .block why t => (t.modCtx e.n e.c fun x => { x with run := .blocked why }).release e.n e.c
  | .stall => s.modCtx e.n e.c fun x => { x with stalled := true }

theorem runSlot_runs {s : State} {e : Env} (body : Env → State → SlotRes) (h : Runs s e) :
    runSlot s body = .next ((body e s).outcome s e) := by
  have ha := h.asking
  simp only [runSlot, h.env, h.guard, ha, h.served]
  cases body e s <;> simp [SlotRes.outcome]

/-- The outcome of a request, by what its sending comes to (R82). -/
def SlotRes.sent (s : State) (e : Env) : SlotRes → State
  | .done t => t.advance e
  | .trap cause taddr => s.refuse e cause taddr
  | .trapDone t cause taddr => t.slotTrap e e.resumeAfter cause taddr
  | .trapSet t cause taddr => t.refuse e cause (some taddr)
  | .block why t => (t.modCtx e.n e.c fun x => { x with run := .blocked why }).release e.n e.c
  | .stall => s.modCtx e.n e.c fun x => { x with stalled := true }

theorem runSlot_asks {s : State} {e : Env} (body : Env → State → SlotRes) (h : Asks s e) :
    runSlot s body = .next ((body e s).sent s e) := by
  have ha := h.asks
  simp only [runSlot, h.env, h.guard, ha]
  cases body e s <;> simp [SlotRes.sent]

theorem runLocal_runs {s : State} {e : Env} (g : Env → Ctx) (h : Runs s e) :
    runLocal s g = .next ((s.setCtx e.n e.c (g e)).advance e) := runSlot_runs _ h

theorem runScalar_runs {s : State} {e : Env} (f : Fields) (l : Nat) (g : Env → DWord) (h : Runs s e) :
    runScalar s f l g = .next ((s.setCtx e.n e.c (e.x.putS e.b.latch f.d l (g e))).advance e) := runLocal_runs _ h

theorem runPred_runs {s : State} {e : Env} (f : Fields) (g : Env → Bool) (h : Runs s e) :
    runPred s f g = .next ((s.setCtx e.n e.c (e.x.putP f.d 1 (g e))).advance e) := runLocal_runs _ h

theorem runCreg_runs {s : State} {e : Env} (f : Fields) (g : Ctl → DWord → Ctl) (h : Runs s e) :
    runCreg s f g = .next ((s.setCtx e.n e.c { e.x with ctl := g e.x.ctl (e.sA f) }).advance e) := runLocal_runs _ h

/-- A slot that uses the answer of a unit (R82). -/
theorem runRequest_commit {s : State} {e : Env} {v : DWord} (ask : Env → State → SlotRes)
    (commit : Env → State → DWord → State) (h : Runs s e) (a : e.answer = .value v) :
    runRequest s ask commit = .next ((commit e s v).advance e) := by
  have ha := h.asking
  rw [runRequest, runAnswered, runSlot_runs _ h]
  simp [ha, a, SlotRes.outcome]

theorem runRequest_sends {s : State} {e : Env} (ask : Env → State → SlotRes) (commit : Env → State → DWord → State)
    (h : Asks s e) : runRequest s ask commit = .next ((ask e s).sent s e) := by
  have ha := h.asks
  rw [runRequest, runAnswered, runSlot_asks _ h]
  simp [ha]

theorem runAtEnd_runs {s : State} {e : Env} (a : EndAct) (h : Runs s e) :
    runAtEnd s a = .next ((s.modBundle e.n e.c fun b => { b with acts := b.acts ++ [a] }).advance e) := runSlot_runs _ h

theorem runTransfer_first {s : State} {e : Env} (g : Env → State → SlotRes) (h : Runs s e) (ht : e.b.transfer = none) :
    runTransfer s g = .next ((g e s).outcome s e) := by
  simp [runTransfer, runSlot_runs _ h, ht]

/-- A transfer slot after one that acted (R102). -/
theorem runTransfer_later {s : State} {e : Env} (g : Env → State → SlotRes) (h : Runs s e) (ht : e.b.transfer ≠ none) :
    runTransfer s g = .next (s.advance e) := by
  have : e.b.transfer.isSome = true := Option.isSome_iff_ne_none.mpr ht
  simp [runTransfer, runSlot_runs _ h, this, SlotRes.outcome]

/-! ### What the acting slot says of the state -/

/-- The context and the bundle of the acting slot. -/
theorem env_ctx {s : State} {e : Env} (h : s.env = some e) :
    s.ctx? e.n e.c = some e.x ∧ e.x.bundle = some e.b ∧ (s.core e.n).running = some e.c := by
  unfold State.env at h
  split at h
  · cases h
  · split at h
    · cases h
    · split at h
      · cases h
      · split at h
        · cases h
        · split at h
          · cases h
          · cases h
            exact ⟨‹_›, ‹_›, ‹_›⟩

theorem env_here {s : State} {e : Env} (h : s.env = some e) : e.b.here = some e.p := by
  unfold State.env at h
  split at h
  · cases h
  · split at h
    · cases h
    · split at h
      · cases h
      · split at h
        · cases h
        · split at h
          · cases h
          · cases h
            assumption

/-- A slot with slots after it leaves its bundle in progress. -/
theorem advance_mid {e : Env} (h : e.mid) (t : State) : t.advance e = t.modBundle e.n e.c fun b => { b with cur := e.b.cur + 1 } := by
  unfold State.advance
  rw [h.1]
  simp [h.2]

theorem advance_asking {e : Env} (h : e.b.stage ≠ .issued) (t : State) :
    t.advance e = t.modBundle e.n e.c fun b => { b with ask := e.b.ask + 1 } := by
  unfold State.advance
  cases hs : e.b.stage <;> first | rfl | exact absurd hs h

/-- A write of one context changes nothing else. -/
theorem setCtx_only (s : State) (n c : Nat) (x : Ctx) : OnlyCtx n c s (s.setCtx n c x) where
  package := rfl
  cores _ h := State.core_setCtx_ne s c x h
  core := by rw [State.core_setCtx]
  ctxs _ h := State.ctx?_setCtx_ne s x (.inr h)
  bytes _ := rfl

end Sys2Proof.Machine
end

