-- ==== Sys2Proof/Tests/Slice0.lean ====
section
/-! SUPPORT. The tests: WellFormed, decoding, one step of each kind of instruction, and, for every statement with hypotheses, a state and
operands that meet them. -/

open Sys2Proof Sys2Proof.Machine

namespace Sys2Proof.Tests

set_option Elab.async false

/-- The package with the lone task of log 17 on context 0 of core 0, whose registers `g` sets, standing at the first slot of a bundle of
the given instructions, which has issued or asks. Its DMR is 0, since the number of the chip is a free value (log 10). -/
def stateAt (stage : Stage) (st : BitVec 7) (is : List Instr) (g : Ctx → Ctx) : State :=
  let s := State.reset.placed st []
  let x := s.ctx 0 0
  let x := g { x with ctl := { x.ctl with dmr := 0 } }
  let slots := is.zipIdx.map fun w => (⟨w.2, ⟨false, false, false, 0, w.1⟩⟩ : Placed)
  let b : Bundle :=
    { addr := BitVec.ofNat 64 codeAt, size := max 4 is.length, slots := slots, stage := stage, latch := x.latch (s.core 0) }
  s.setCtx 0 0 { x with bundle := some b }

/-- A bundle of one instruction and a `nop` that has issued, in user privilege. -/
def issued (i : Instr) (g : Ctx → Ctx := id) : State := stateAt .issued 0 [i, .nop] g

/-- A bundle of one request that asks. -/
def asking (i : Instr) (g : Ctx → Ctx := id) : State := stateAt .asking 0 [i, .nop] g

/-- The acting slot of a state. -/
def envOf (s : State) : Env := s.env.getD ⟨0, 0, {}, { addr := 0, size := 0, slots := [] }, ⟨0, ⟨false, false, false, 0, .nop⟩⟩⟩

def runs (s : State) : Bool :=
  s.env.isSome && decide ((envOf s).b.stage = .issued) && (envOf s).b.latch.guard (envOf s).p.word
    && decide ((envOf s).b.pipeFail ≠ some (envOf s).p.pos)

def asks (s : State) : Bool :=
  s.env.isSome && decide ((envOf s).b.stage ≠ .issued) && (envOf s).b.latch.guard (envOf s).p.word

theorem env_envOf {s : State} (h : s.env.isSome = true) : s.env = some (envOf s) := by
  obtain ⟨e, he⟩ := Option.isSome_iff_exists.mp h
  simp [envOf, he]

theorem runs_envOf {s : State} (h : runs s = true) : Runs s (envOf s) := by
  simp only [runs, Bool.and_eq_true, decide_eq_true_eq] at h
  exact ⟨env_envOf h.1.1.1, h.1.1.2, h.1.2, h.2⟩

theorem asks_envOf {s : State} (h : asks s = true) : Asks s (envOf s) := by
  simp only [asks, Bool.and_eq_true, decide_eq_true_eq] at h
  exact ⟨env_envOf h.1.1, h.1.2, h.2⟩

/-- The fields of a word without an EXT word. -/
def fields (d a b : BitVec 5) (md : Bool := false) : Fields := ⟨d, a, b, md, none⟩

/-- A context with a scalar register set. -/
def withS (n : Nat) (v : DWord) (x : Ctx) : Ctx := { x with regs := { x.regs with s := mset 0 x.regs.s n v } }

/-! ### Well-formedness: each check refuses a term -/

theorem test_wf_legal : (Instr.add (fields 5 3 4)).wellFormed = true := by decide
theorem test_wf_md_of_add : (Instr.add (fields 5 3 4 true)).wellFormed = false := by decide
theorem test_wf_unused_b : (Instr.clz (fields 5 3 1)).wellFormed = false := by decide
theorem test_wf_predicate_16 : (Instr.cmpEq (fields 16 3 4)).wellFormed = false := by decide
theorem test_wf_vector_source_22 : (Instr.vadd (fields 5 22 4)).wellFormed = false := by decide
theorem test_wf_vector_destination_16 : (Instr.vadd (fields 16 3 4)).wellFormed = false := by decide
theorem test_wf_vector_register_18 : (Instr.cfRead (fields 18 3 0)).wellFormed = false := by decide
theorem test_wf_span_of_vsplit3 : (Instr.vsplit3 (fields 14 1 2)).wellFormed = false := by decide
theorem test_wf_streams_of_tspmma : (Instr.tspmma (fields 0 15 2)).wellFormed = false := by decide
theorem test_wf_mask_8 : (Instr.mand (fields 8 1 2)).wellFormed = false := by decide
theorem test_wf_parameter_8 : (Instr.mpset (fields 8 1 0)).wellFormed = false := by decide
theorem test_wf_loop_counter_4 : (Instr.loop (fields 4 3 1)).wellFormed = false := by decide
theorem test_wf_accumulator_4 : (Instr.tzero (fields 4 0 0)).wellFormed = false := by decide
theorem test_wf_pipe_4 : (Instr.padv (fields 4 3 0)).wellFormed = false := by decide
theorem test_wf_odd_pair : (Instr.tvprojPair (fields 1 0 3)).wellFormed = false := by decide
theorem test_wf_control_register_25 : (Instr.mfc (fields 5 25 0)).wellFormed = false := by decide
theorem test_wf_counter_3 : (Instr.evt (fields 3 4 0)).wellFormed = false := by decide
theorem test_wf_domain_6 : (Instr.bar (fields 6 0 0)).wellFormed = false := by decide
theorem test_wf_barrier_4 : (Instr.bar (fields 1 4 0)).wellFormed = false := by decide
theorem test_wf_tloop_of_none : (Instr.tloop (fields 0 1 0)).wellFormed = false := by decide
theorem test_wf_vround_format_7 : (Instr.vround (fields 5 1 7)).wellFormed = false := by decide
theorem test_wf_loop_backwards : (Instr.loop (fields 0 3 0)).wellFormed = false := by decide
theorem test_wf_vcvt_part : (Instr.vcvt (fields 5 1 1)).wellFormed = false := by decide
theorem test_wf_mtc_row : (Instr.mtcStatus (fields 1 3 0)).wellFormed = false := by decide
theorem test_wf_plain_mtc_of_status : (Instr.mtc (fields 0 3 0)).wellFormed = false := by decide
theorem test_wf_repeat_beyond_v15 : (Instr.vadd ⟨15, 1, 2, false, some 0x0000011⟩).wellFormed = false := by decide
theorem test_wf_repeat_reserved : (Instr.vadd ⟨5, 1, 2, false, some 0x0010000⟩).wellFormed = false := by decide
theorem test_wf_ext_of_clz : (Instr.clz ⟨5, 3, 0, false, some 0⟩).wellFormed = false := by decide
theorem test_wf_unlisted : Instr.unlistedOpcode.wellFormed = false := by decide

/-! ### Decoding: words written out bit by bit from R18, R24 to R28 and the class maps (S, CL, OP, N BK GN, D, A, B, MD) -/

/-- The one instruction that words stand for. -/
def decoded (ws : List Word) : Option Instr :=
  match decodeSlot ws with
  | .ok (x, []) => some x.instr
  | _ => none

-- the integer family: `mulh s1, s2, s3`, unsigned
theorem test_decode_mulh : decoded [0b0_000_0000100_0_0_000_00001_00010_00011_1#32] = some (.mulh (fields 1 2 3 true)) := by decide
-- an immediate form: `li s7, -1`
theorem test_decode_li : decoded [0b0_000_0011101_0_0_000_00111_11111_11111_1#32] = some (.li (fields 7 31 31 true)) := by decide
-- control transfers: `callr s31, s4`
theorem test_decode_callr : decoded [0b0_000_1000011_0_0_000_11111_00100_00000_0#32] = some (.callr (fields 31 4 0)) := by decide
-- system: `mfc s5, creg 0x0C`
theorem test_decode_mfc : decoded [0b0_000_1010000_0_0_000_00101_01100_00000_0#32] = some (.mfc (fields 5 12 0)) := by decide
-- an `mtc` of a register with a row of its own: STATUS
theorem test_decode_mtc_status : decoded [0b0_000_1010001_0_0_000_00000_00011_00000_0#32] = some (.mtcStatus (fields 0 3 0)) := by
  decide
-- launch: `bar d2`
theorem test_decode_bar : decoded [0b0_000_1011001_0_0_000_00010_00000_00000_0#32] = some (.bar (fields 2 0 0)) := by decide
-- edges: `er.get s5, s6`
theorem test_decode_er_get : decoded [0b0_000_1100101_0_0_000_00101_00110_00000_0#32] = some (.erGet (fields 5 6 0)) := by decide
-- a scalar store of class M: `st.8 [s2], s4`
theorem test_decode_st8 : decoded [0b0_011_0001000_0_0_000_00000_00010_00100_0#32] = some (.st8 (fields 0 2 4)) := by decide
-- an atomic: `amo.add.32`
theorem test_decode_amo_add : decoded [0b0_011_0100000_0_0_000_00101_00010_00100_1#32] = some (.amoAdd (fields 5 2 4 true)) := by decide
-- streams: `radv.h st2, s3`
theorem test_decode_radv_h : decoded [0b0_011_0010110_0_0_000_00010_00011_00000_1#32] = some (.radvH (fields 2 3 0 true)) := by decide
-- stash windows: `stash.map s5, s2, s3`
theorem test_decode_stash_map : decoded [0b0_011_0101100_0_0_000_00101_00010_00011_0#32] = some (.stashMap (fields 5 2 3)) := by decide
-- slices: `slc.fault s5, s2, 1`
theorem test_decode_slc_fault : decoded [0b0_011_0111001_0_0_000_00101_00010_00001_0#32] = some (.slcFault (fields 5 2 1)) := by decide
-- a vector operation, guard q3, two bf16 in each lane
theorem test_decode_vmul : decodeSlot [0b0_001_0000010_0_1_011_00101_00001_00010_1#32]
    = .ok (⟨false, false, true, 3, .vmul (fields 5 1 2 true)⟩, []) := by decide
-- masks: `mset m3, s1, s2`
theorem test_decode_mset : decoded [0b0_001_1010110_0_0_000_00011_00001_00010_0#32] = some (.mset (fields 3 1 2)) := by decide
-- special functions: `vtanh v1, v2`
theorem test_decode_vtanh : decoded [0b0_010_0000101_0_0_000_00001_00010_00000_0#32] = some (.vtanh (fields 1 2 0)) := by decide
-- a word whose EXT gives a repetition of two with steps of 1 in D and A
theorem test_decode_repeat : decoded [0x50000111, 0b0_001_0000000_0_0_000_00101_00001_00010_0#32]
    = some (.vadd ⟨5, 1, 2, false, some 0x0000111⟩) := by decide
-- the matrix class: `tmma acc1, st2, st3`
theorem test_decode_tmma : decoded [0b0_100_0000000_0_0_000_00001_00010_00011_0#32] = some (.tmma (fields 1 2 3)) := by decide

/-! ### Words that stand for nothing (R19, R25, R33) -/

theorem test_reject_unlisted_opcode : decodeWord none 0x03C00000 = .error .unlistedOpcode := by decide
theorem test_reject_reserved_class : decodeWord none 0x60000000 = .error .reservedClass := by decide
theorem test_table_word : decodeTableWord 32 0x00202946 = some (.add (fields 5 5 3)) := by decide

/-! ### One step of single instructions; the expected values are worked out by hand from the rule named -/

/-- The pending writes that a step leaves, with the bundle at which each becomes visible. -/
def writes (o : Host.Outcome State Fault Refusal) : List (Nat × RegWrite) :=
  match o with
  | .next t => (t.ctx 0 0).pend.map fun w => (w.due, w.dest)
  | _ => []

/-- The context after a step, that of reset where there is none. -/
def after (o : Host.Outcome State Fault Refusal) : Ctx :=
  match o with
  | .next t => t.ctx 0 0
  | _ => {}

/-- A slot of sA and sB with the given values in s3 and s4. -/
def onS (i : Instr) (a b : DWord) : State := issued i fun x => withS 3 a (withS 4 b x)

/-- A slot of vA and vB with the given values in lane 0 of v1 and v2; only lane 0 is active. -/
def onV (i : Instr) (a b : Word) : State := issued i fun x => { x with
  regs := { x.regs with v := [(1, [(0, a)]), (2, [(0, b)])], m := [(1, 1)] }
  ctl := { x.ctl with emask := 1 } }

-- R97
theorem test_add_wraps : writes (exec (.add (fields 5 3 4)) (onS (.add (fields 5 3 4)) 0xFFFFFFFFFFFFFFFF 2)) = [(1, .s 5 1)] := by
  decide
theorem test_mulh_signed : writes (exec (.mulh (fields 5 3 4)) (onS (.mulh (fields 5 3 4)) 0xFFFFFFFFFFFFFFFF 1))
    = [(3, .s 5 0xFFFFFFFFFFFFFFFF)] := by decide
theorem test_mulh_unsigned : writes (exec (.mulh (fields 5 3 4 true)) (onS (.mulh (fields 5 3 4 true)) 0xFFFFFFFFFFFFFFFF 2))
    = [(3, .s 5 1)] := by decide
theorem test_sar_by_65 : writes (exec (.sar (fields 5 3 4)) (onS (.sar (fields 5 3 4)) 0x8000000000000000 65))
    = [(1, .s 5 0xC000000000000000)] := by decide
theorem test_sext_of_a_byte : writes (exec (.sext (fields 5 3 4)) (onS (.sext (fields 5 3 4)) 0x180 7))
    = [(1, .s 5 0xFFFFFFFFFFFFFF80)] := by decide
theorem test_clz_of_zero : writes (exec (.clz (fields 5 3 0)) (onS (.clz (fields 5 3 0)) 0 0)) = [(1, .s 5 64)] := by decide
theorem test_write_to_s0_is_discarded : writes (exec (.add (fields 0 3 4)) (onS (.add (fields 0 3 4)) 1 2)) = [] := by decide
-- R98
theorem test_div_of_least_by_minus_1 :
    writes (exec (.div (fields 5 3 4)) (onS (.div (fields 5 3 4)) 0x8000000000000000 0xFFFFFFFFFFFFFFFF))
      = [(20, .s 5 0x8000000000000000)] := by decide
theorem test_rem_has_the_sign_of_a : writes (exec (.rem (fields 5 3 4)) (onS (.rem (fields 5 3 4)) 0xFFFFFFFFFFFFFFF9 2))
    = [(20, .s 5 0xFFFFFFFFFFFFFFFF)] := by decide
theorem test_div_by_0_raises_div0 : exec (.div (fields 5 3 4)) (onS (.div (fields 5 3 4)) 1 0)
    = .next ((onS (.div (fields 5 3 4)) 1 0).slotTrap (envOf (onS (.div (fields 5 3 4)) 1 0)) 0 0x11
        (envOf (onS (.div (fields 5 3 4)) 1 0)).x.ctl.taddr) := by
  have h := runs_envOf (s := onS (.div (fields 5 3 4)) 1 0) (by decide)
  have hb : (envOf (onS (.div (fields 5 3 4)) 1 0)).sB (fields 5 3 4) = 0 := by decide +kernel
  simp only [exec, execDiv, runDivision, runSlot_runs _ h, hb]
  rfl
-- R99, R100
theorem test_cmp_lt_signed : writes (exec (.cmpLt (fields 9 3 4)) (onS (.cmpLt (fields 9 3 4)) 0xFFFFFFFFFFFFFFFF 0))
    = [(1, .q 1 true)] := by decide
theorem test_cmp_lt_unsigned : writes (exec (.cmpLt (fields 2 3 4 true)) (onS (.cmpLt (fields 2 3 4 true)) 0xFFFFFFFFFFFFFFFF 0))
    = [(1, .p 2 false)] := by decide
theorem test_addi_of_minus_1 : writes (exec (.addi (fields 5 3 31 true)) (onS (.addi (fields 5 3 31 true)) 0 0))
    = [(1, .s 5 0xFFFFFFFFFFFFFFFF)] := by decide
-- R101: the link is the address after the bundle of four words at 0x1000
theorem test_call_links : writes (exec (.call (fields 0 0 4)) (onS (.call (fields 0 0 4)) 0 0)) = [(1, .s 31 0x1010)] := by decide
theorem test_br_target : (after (exec (.br (fields 0 0 4)) (onS (.br (fields 0 0 4)) 0 0))).bundle.bind (·.transfer)
    = some (.at 0x1020) := by decide
-- R93: a value with bit 63 set writes 0
theorem test_tbudget_clamps : (after (exec (.mtcTbudget (fields 17 3 0)) (onS (.mtcTbudget (fields 17 3 0)) 0x8000000000000000 0))).ctl.tbudget
    = 0 := by decide
-- R119: the condition already holds
theorem test_evt_fires_at_once : (after (exec (.evt (fields 0 3 0)) (onS (.evt (fields 0 3 0)) 0 0))).cnt.fired.getLsbD 0 = true := by
  decide
-- R108, R109: bytes 0x80 and 0x12 at 0x2000, landing 4 bundles on
def twoBytes (s : State) : State := { s with mem := { s.mem with bytes := writeBytes s.mem.bytes 0x2000 [0x80, 0x12] } }
theorem test_ld_i8_extends_the_sign : writes (exec (.ldI8 (fields 5 3 0)) (twoBytes (onS (.ldI8 (fields 5 3 0)) 0x2000 0)))
    = [(4, .s 5 0xFFFFFFFFFFFFFF80)] := by decide +kernel
theorem test_ld_n16_is_little_endian : writes (exec (.ldN16 (fields 5 3 0)) (twoBytes (onS (.ldN16 (fields 5 3 0)) 0x2000 0)))
    = [(4, .s 5 0x1280)] := by decide +kernel
-- R112
theorem test_st_16_counts : (after (exec (.st16 (fields 0 3 4)) (onS (.st16 (fields 0 3 4)) 0x2000 0xABCD))).cnt.st = 1 := by
  decide +kernel
-- R115
theorem test_amo_min_is_signed : (Amo.new ⟨.min, true, 1, 0⟩ 0xFFFFFFFF).setWidth 32 = (0xFFFFFFFF : Word) := by decide
theorem test_amo_add_gives_the_old_value : Amo.result ⟨.add, true, 1, 0⟩ 0xFFFFFFFF = 0xFFFFFFFFFFFFFFFF := by decide
-- R162, R164: 1.0 + 1.0 = 2.0
theorem test_vadd : writes (exec (.vadd (fields 5 1 2)) (onV (.vadd (fields 5 1 2)) 0x3F800000 0x3F800000))
    = [(4, .v 5 1 [(0, 0x40000000)])] := by decide +kernel
-- R165: the lesser of -1 and 1
theorem test_vmin_i32 : writes (exec (.vminI32 (fields 5 1 2)) (onV (.vminI32 (fields 5 1 2)) 0xFFFFFFFF 1))
    = [(2, .v 5 1 [(0, 0xFFFFFFFF)])] := by decide +kernel
-- R167
theorem test_vcmpi_lt : writes (exec (.vcmpiLt (fields 3 1 2)) (onV (.vcmpiLt (fields 3 1 2)) 0xFFFFFFFF 1))
    = [(2, .m 3 1 1)] := by decide +kernel
-- R178
theorem test_mfirst_of_none : writes (exec (.mfirst (fields 5 2 0)) (onS (.mfirst (fields 5 2 0)) 0 0)) = [(1, .s 5 1024)] := by
  decide +kernel
-- R179: 1 / 4
theorem test_vrcp : writes (exec (.vrcp (fields 5 1 0)) (onV (.vrcp (fields 5 1 0)) 0x40800000 0))
    = [(8, .v 5 1 [(0, 0x3E800000)])] := by decide +kernel
-- R90: the least deadline first, then the least id
theorem test_heap_order : (heapInsert ⟨5, 1, 0⟩ [⟨4, 9, 0⟩, ⟨5, 2, 0⟩]).map (·.id) = [9, 1, 2] := by decide
-- R203: cell code 3 has no meaning
theorem test_tcellp_sets : (after (exec (.tcellp (fields 0 3 4)) (onS (.tcellp (fields 0 3 4)) 2 0))).units.cell = 2 := by decide +kernel
-- R12, R31: a step of the machine runs the instruction at the program counter
theorem test_step_runs_the_first_slot :
    writes (step (State.reset.withFetchWord 32 0x00202946)) = [(1, .s 5 0)] := by decide +kernel

/-- Two conversions into the halves of a lane become visible at one bundle, and both are kept (R173, R41). -/
theorem test_packed_halves_join :
    let x : Ctx := { pend := [{ due := 0, dest := .vBits 4 0xFFFF 1 [(0, 0x1111)] }, { due := 0, dest := .vBits 4 0xFFFF0000 1 [(0, 0x22220000)] }] }
    lane (mget [] x.settle.regs.v 4) 0 = 0x22221111 := by decide +kernel

/-! ### Witnesses: for every statement with hypotheses, a state and operands that meet them -/

theorem witness_DecodingInvertsEncoding :
    (∃ x : SlotWord, x.instr.wellFormed = true ∧ isSlot x.instr = true) ∧
    ∃ (x : SlotWord) (ws rest : List Word), decodeSlot ws = .ok (x, rest) :=
  ⟨⟨⟨true, true, true, 7, .addi ⟨31, 31, 31, true, some 0xFFFFFFF⟩⟩, by decide +kernel⟩, _, [0x80000000, 0], [0], rfl⟩

theorem witness_OpcodesAreThoseListed :
    (∃ r : RawSlot, wordClass r.word < 5 ∧ isListed (wordClass r.word) (wordOp r.word) = false) ∧
    (∃ w x, decodeWord none w = .ok x) ∧ isListed 4 0x10 = true ∧ 6 ≤ wordClass 0x60000000 :=
  ⟨⟨⟨0, none, 0x03C00000⟩, by decide +kernel⟩, ⟨0, _, rfl⟩, by decide +kernel⟩

/-- The bundle of a state. -/
def bundleIn (s : State) : Bundle := (s.ctx 0 0).bundle.getD { addr := 0, size := 0, slots := [] }

/-- The slot at which the bundle of a state stands. -/
def slotIn (s : State) : Placed := (bundleIn s).here.getD ⟨0, ⟨false, false, false, 0, .nop⟩⟩

theorem witness_StepRunsTheDecodedInstruction_slot : ∃ (s : State) (n : Nat) (c : Nat) (b : Bundle) (p : Placed), s.agenda = [] ∧ s.actor = .core n ∧ GoesOn (turnOf s n) n c ∧
    ((turnOf s n).ctx n c).bundle = some b ∧ b.stage = .issued ∧ b.here = some p :=
  ⟨issued .nop, 0, 0, bundleIn (issued .nop), slotIn (issued .nop), by decide +kernel, by decide +kernel,
    ⟨by decide +kernel, by decide +kernel, by decide +kernel, by decide +kernel, by decide +kernel⟩, by decide +kernel, by decide +kernel, by decide +kernel⟩

theorem witness_StepRunsTheDecodedInstruction_bundle : ∃ (s : State) (n : Nat) (c : Nat) (b : Bundle) (p : Placed) (ps : _), s.agenda = [] ∧ s.actor = .core n ∧
    GoesOn (turnOf s n) n c ∧ ((turnOf s n).ctx n c).bundle = some b ∧
    (turnOf s n).boundaryEvent n c ((turnOf s n).ctx n c) = none ∧ b.stage = .asking ∧ b.slots = p :: ps ∧ b.cur = 0 ∧
    ((turnOf s n).spend n).verdict n c b = .issue none ∧ b.nextAsk none = none ∧ b.blocksFirst = false :=
  ⟨asking .nop, 0, 0, bundleIn (asking .nop), slotIn (asking .nop), (bundleIn (asking .nop)).slots.drop 1, by decide +kernel, by decide +kernel,
    ⟨by decide +kernel, by decide +kernel, by decide +kernel, by decide +kernel, by decide +kernel⟩, by decide +kernel⟩

/-- The state that has read the words at the program counter. -/
def reads (s : State) : Option (State × List Word) :=
  match State.fetchWords 0 0 8 s (BitVec.ofNat 64 codeAt) [] with
  | .words u ws => some (u, ws)
  | _ => none

theorem words_of {s u : State} {ws : List Word} (h : reads s = some (u, ws)) :
    State.fetchWords 0 0 8 s (BitVec.ofNat 64 codeAt) [] = .words u ws := by
  unfold reads at h
  split at h <;> simp_all

/-- What a check answers when it passes. -/
def passes {α : Type} (x : Except (BitVec 8 × Nat) (List α)) : List α := match x with | .ok ps => ps | .error _ => []

theorem passes_of {α : Type} {x : Except (BitVec 8 × Nat) (List α)} (h : (passes x).length ≠ 0) : x = .ok (passes x) := by
  cases x <;> simp_all [passes]

/-- The package whose next bundle is one `add`. -/
def atAdd : State := State.reset.placed 0 (bundleOf [0x00202946])

theorem witness_StepRunsTheDecodedInstruction_fetch : ∃ (s : State) (u : _) (n : Nat) (c : Nat) (a : _) (ws : _) (ps : _), (s.ctx n c).pc = .at a ∧ a.toNat % 4 = 0 ∧
    State.fetchWords n c 8 s a [] = .words u ws ∧ checkBundle (u.ctx n c).task.hdr (u.ctx n c).ctl ws = .ok ps ∧
    ((u.ctx n c).missing (wordInstrs ws)).none = true ∧ (u.ctx n c).frozen = false := by
  obtain ⟨⟨u, ws⟩, h⟩ := Option.isSome_iff_exists.mp (show (reads atAdd).isSome = true by decide +kernel)
  have hu : ∀ p, reads atAdd = some p → (passes (checkBundle (p.1.ctx 0 0).task.hdr (p.1.ctx 0 0).ctl p.2)).length ≠ 0 ∧
      ((p.1.ctx 0 0).missing (wordInstrs p.2)).none = true ∧
      (p.1.ctx 0 0).frozen = false := by decide +kernel
  obtain ⟨a, b, c⟩ := hu _ h
  exact ⟨atAdd, u, 0, 0, BitVec.ofNat 64 codeAt, ws, _, by decide +kernel, by decide +kernel, words_of h, passes_of a, b, c⟩

theorem witness_BundleChecksHold : ∃ h c ws ps, checkBundle h c ws = .ok ps ∧ c.priv = false ∧ ps ≠ [] :=
  ⟨fullHeader, {}, bundleOf [0x00202946], _, rfl, by decide +kernel, by decide +kernel⟩

/-- The guard of the acting slot is `!p0`. -/
def guardOff (s : State) : State := s.modBundle 0 0 fun b => { b with slots := [⟨0, ⟨false, true, false, 0, .nop⟩⟩] }

theorem witness_FalseGuardHasNoEffect : ∃ (i : Instr) (s : State) (e : Env), isSlot i = true ∧ s.env = some e ∧ e.b.latch.guard e.p.word = false :=
  ⟨.add (fields 5 3 4), guardOff (issued .nop), envOf (guardOff (issued .nop)), by decide +kernel, env_envOf (by decide +kernel), by decide +kernel⟩

theorem witness_DueWritesBecomeVisible : ∃ (s : State) (n : Nat) (c : Nat) (x : Ctx) (b : Bundle), s.ctx? n c = some x ∧ x.bundle = some b ∧ b.acts = [] ∧ b.transfer = none ∧
    x.actionDue = false ∧ x.leg.draining = false ∧ x.loops.lastAt b.addr = none :=
  ⟨issued .nop, 0, 0, (issued .nop).ctx 0 0, bundleIn (issued .nop), by decide +kernel⟩

/-- A slot of two scalars that acts. -/
def sums : State := onS (.add (fields 5 3 4)) 7 8

theorem witness_IntegerResults :
    (∃ (i : Instr) (s : State) (e : Env) (f : Fields) (l : _) (v : _), Runs s e ∧ integerRow e i = some (f, l, v)) ∧ ∃ (i : Instr) (s : State) (e : Env) (f : Fields) (v : _), Runs s e ∧ immediateRow e i = some (f, v) :=
  ⟨⟨.add (fields 5 3 4), sums, envOf sums, fields 5 3 4, 1, 15, runs_envOf (by decide +kernel), by decide +kernel⟩,
    .cmpiLt (fields 1 3 0), sums, envOf sums, fields 1 3 0, false, runs_envOf (by decide +kernel), by decide +kernel⟩

theorem witness_DivisionResults : (∃ (s : State) (e : Env), Runs s e ∧ e.sB (fields 5 3 0) = 0) ∧
    ∃ (s : State) (e : Env), Runs s e ∧ e.sB (fields 5 3 4) ≠ 0 ∧ e.sA (fields 5 3 4) = 0x8000000000000000 :=
  ⟨⟨sums, envOf sums, runs_envOf (by decide +kernel), by decide +kernel⟩,
    onS .nop 0x8000000000000000 0xFFFFFFFFFFFFFFFF, envOf (onS .nop 0x8000000000000000 0xFFFFFFFFFFFFFFFF), runs_envOf (by decide +kernel),
    by decide +kernel⟩

theorem witness_ComparesAndPredicates : ∃ (i : Instr) (s : State) (e : Env) (f : Fields) (op : _) (v : _), predicateRow e i = some (f, op, v) ∧ fieldsOk i = true ∧ Runs s e :=
  ⟨.plogAndn (fields 15 15 1 true), sums, envOf sums, fields 15 15 1 true, 0x1C, false, by decide +kernel, by decide +kernel, runs_envOf (by decide +kernel)⟩

theorem witness_HardwiredRegistersAndDestinations :
    (∃ d : BitVec 5, d ≠ 0 ∧ 28 ≤ d.toNat) ∧ (∃ d : BitVec 5, d.toNat < 16 ∧ d.toNat % 8 ≠ 0) ∧
    ∃ (s : State) (e : Env) (v : _) (p : _), s.ctx? e.n e.c ≠ none ∧ 22 ≤ v ∧ tget (s.ctx e.n e.c).task.pushEnd (v - 22) = some p :=
  ⟨⟨31, by decide +kernel⟩, ⟨15, by decide +kernel⟩, sums, envOf sums, 25, 3, by decide +kernel⟩

theorem witness_SlotFrames :
    (∃ (i : Instr) (s : State) (e : Env) (t : _), Runs s e ∧ e.mid ∧ isRegisterSlot e i = true ∧ (∀ f, i = .div f ∨ i = .rem f → e.sB f ≠ 0) ∧ exec i s = .next t) ∧
    ∃ (i : Instr) (s : State) (e : Env) (f : Fields) (o : _) (t : _), Runs s e ∧ e.mid ∧ entry i = some (f, o) ∧ (o.cls = 1 ∨ o.cls = 2) ∧ fieldsOk i = true ∧
      slotPushes ⟨0, ⟨false, false, false, 0, i⟩⟩ = [] ∧ e.b.latch.ctl.te = 0 ∧
      (∀ g, i = .vquant g ∨ i = .vdeq g → quantOk (e.sB g) = true) ∧ (∀ g, i ≠ .xaInit g) ∧ exec i s = .next t :=
  ⟨⟨.div (fields 5 3 4), sums, envOf sums, _, runs_envOf (by decide +kernel), ⟨by decide +kernel, by decide +kernel⟩, by decide +kernel,
      fun f h => by rcases h with h | h <;> cases h; decide, rfl⟩,
    .vadd (fields 5 1 2), onV (.vadd (fields 5 1 2)) 0 0, envOf (onV (.vadd (fields 5 1 2)) 0 0), fields 5 1 2, _, _,
    runs_envOf (by decide +kernel), ⟨by decide +kernel, by decide +kernel⟩, rfl, by decide +kernel, by decide +kernel, by decide +kernel, by decide +kernel,
    fun g h => (by rcases h with h | h <;> cases h), fun g h => (by cases h), rfl⟩

theorem witness_BranchesTransfer : (∃ (s : State) (e : Env), Runs s e ∧ e.b.transfer = none ∧ (e.sA (fields 0 3 0)).toNat % 4 = 0) ∧
    ∃ (s : State) (e : Env), Runs s e ∧ e.b.transfer = none ∧ (e.sA (fields 0 3 0)).toNat % 4 ≠ 0 :=
  ⟨⟨onS .nop 8 0, envOf (onS .nop 8 0), runs_envOf (by decide +kernel), by decide +kernel⟩, sums, envOf sums, runs_envOf (by decide +kernel), by decide +kernel⟩

/-- A loop on counter 1 is active, with body end 0x1000, one pass left, pipelined or not. -/
def looping (pipe : Bool) : Loops := { lc := [(1, 1)], state := [(1, { start := 0x800, stop := 0x1000, pipe := pipe, active := true })] }

theorem witness_HardwareLoops :
    (∃ (s : State) (e : Env), Runs s e ∧ e.b.transfer = none ∧ stagesOf (e.sA (fields 0 3 0)) ≠ 0 ∧ (e.x.loops.get 1).active = true ∧
      (e.x.loops.get 0).active = false) ∧
    (∃ (s : State) (e : Env), Runs s e ∧ e.b.transfer = none ∧ stagesOf (e.sA (fields 0 3 0)) = 0) ∧
    (∃ (l : Loops) (n N S : Nat), n < 4 ∧ countOf (l.counter n) = N ∧ stagesOf (l.counter n) = S ∧ 1 ≤ S ∧ (l.get n).q = 0 ∧
      (l.get n).drain = false) ∧
    ∃ (l : Loops) (n : Nat) (a : DWord), n < 4 ∧ (l.get n).active = true ∧ (l.get n).pipe = false ∧ (l.get n).stop = a ∧
      (∀ m, m ≠ n → ¬((l.get m).active = true ∧ (l.get m).stop = a)) ∧ countOf (l.counter n) = 1 := by
  refine ⟨⟨issued .nop fun x => withS 3 0xFFFFFFFFFFFFFFFF { x with loops := looping false }, _, runs_envOf (by decide +kernel), by decide +kernel⟩,
    ⟨onS .nop 0 0, envOf (onS .nop 0 0), runs_envOf (by decide +kernel), by decide +kernel⟩,
    ⟨{ lc := [(1, 0xFFFFFFFFFFFFFFFF)] }, 1, _, _, by decide +kernel, rfl, rfl, by decide +kernel⟩,
    looping false, 1, 0x1000, by decide +kernel, by decide +kernel, by decide +kernel, by decide +kernel, fun m h => ?_, by decide +kernel⟩
  simp [Loops.get, looping, mget, tget, Ne.symm h]

/-- A branch of the bundle has acted. -/
def branched (s : State) : State := s.modBundle 0 0 fun b => { b with transfer := some (.at 0x2000) }

theorem witness_OnlyTheFirstTransferActs : (∃ (s : State) (e : Env), Runs s e ∧ e.b.transfer ≠ none) ∧
    ∃ (s : State) (n : Nat) (c : Nat) (x : Ctx) (b : Bundle) (p : NextPc), s.ctx? n c = some x ∧ x.bundle = some b ∧ b.transfer = some p ∧
      EndAct.rfe ∉ b.acts ∧ EndAct.rfu ∉ b.acts ∧ b.acts = [] :=
  ⟨⟨branched sums, envOf (branched sums), runs_envOf (by decide +kernel), by decide +kernel⟩,
    branched sums, 0, 0, (branched sums).ctx 0 0, bundleIn (branched sums), .at 0x2000, by decide +kernel⟩

/-- A trap frame is live. -/
def framed (x : Ctx) : Ctx := { x with frame := some { noissue := true, next := .at 0x1010 } }

theorem witness_TrapAndSysRaise : (∃ (s : State) (e : Env), Runs s e) ∧ ∃ (s : State) (n : Nat) (c : Nat), (s.ctx n c).frame ≠ none :=
  ⟨⟨sums, envOf sums, runs_envOf (by decide +kernel)⟩, issued .nop framed, 0, 0, by decide +kernel⟩

/-- A `wait.cnt` waits for an operation of the engines. -/
def pending : State := issued (.waitCnt (fields 2 0 0)) fun x => { x with cnt := { x.cnt with as := 1 } }

theorem witness_ChecksPassOrTrap :
    (∃ (s : State) (e : Env), Runs s e ∧ e.sA (fields 0 3 3) = e.sB (fields 0 3 3) ∧ e.sA (fields 0 3 4) ≠ e.sB (fields 0 3 4) ∧
      e.vecA (fields 0 1 1) = e.vecB (fields 0 1 1) ∧ e.x.cnt.loss = none) ∧
    (∃ (s : State) (e : Env), Runs s e ∧ e.vecA (fields 0 1 2) ≠ e.vecB (fields 0 1 2)) ∧ (∃ (s : State) (e : Env) (a : _), Runs s e ∧ e.x.cnt.loss = some a) ∧
    ∃ (s : State) (n : Nat) (c : Nat) (b : Bundle) (p : Placed) (f : Fields), b.reentry = false ∧ p ∈ b.slots ∧ b.latch.guard p.word = true ∧ p.word.instr = .waitCnt f ∧ f.d.toNat ≤ 2 ∧
      max 0 (b.latch.s f.a + riValue f).toInt < ((State.ctx s n c).cnt.get f.d.toNat : Int) := by
  exact ⟨⟨sums, envOf sums, runs_envOf (by decide +kernel), by decide +kernel⟩,
    ⟨onV .nop 1 2, envOf (onV .nop 1 2), runs_envOf (by decide +kernel), by decide +kernel⟩,
    ⟨issued .nop fun x => { x with cnt := { x.cnt with loss := some 0x40 } }, _, 0x40, runs_envOf (by decide +kernel), by decide +kernel⟩,
    pending, 0, 0, bundleIn pending, slotIn pending, fields 2 0 0, by decide +kernel⟩

/-- A trap of slot 0 that has not issued. -/
def someTrap : TrapInfo := { slot := 0, resume := 0, noissue := true, tbun := 0x1000, cause := 0x10, taddr := 0, word := none }

/-- The save area of the context names a handler. -/
def handled (s : State) : State := { s with mem := { s.mem with bytes := writeBytes s.mem.bytes ((s.ctx 0 0).saveAt 0) [0, 0x40] } }

theorem witness_TrapEntry : ∃ (s : State) (n : Nat) (c : Nat) (x : Ctx) (t : TrapInfo), s.ctx? n c = some x ∧ t.slot < 8 ∧ t.word = none ∧ x.frame = none ∧
    (leWord 64 ((s.placeAll n).peek (x.saveAt 0) 8) : DWord) ≠ 0 ∧ x.ctl.savebase.toNat % 2 ^ 22 = 0 ∧
    ∀ b, b < 2 ^ 22 → s.ckpt.page (x.saveAt b) = none ∧ s.mem.missing (x.saveAt b) = false :=
  ⟨handled sums, 0, 0, (handled sums).ctx 0 0, someTrap, by decide +kernel, by decide +kernel, by decide +kernel, by decide +kernel,
    by decide +kernel, by decide +kernel, fun b _ => ⟨if_neg fun h => absurd h.2 (by
      have : (handled sums).ckpt.cfg.ckbase + (handled sums).ckpt.cfg.cklen = 0 := rfl; omega), rfl⟩⟩

theorem witness_TrapEntry_double : ∃ (s : State) (n : Nat) (c : Nat) (x : Ctx) (t : TrapInfo), s.ctx? n c = some x ∧ t.slot < 8 ∧ t.word = none ∧ x.frame ≠ none :=
  ⟨issued .nop framed, 0, 0, (issued .nop framed).ctx 0 0, someTrap, by decide +kernel⟩

/-- A frame whose bundle had issued, at 0x1000, with its save area. -/
def returning : State :=
  let b := bundleIn sums
  let s := issued .nop fun x => { x with frame := some { bundle := some b, next := .at 0x1010 } }
  { s with mem := { s.mem with bytes := writeBytes s.mem.bytes ((s.ctx 0 0).saveAt 32) [0, 0x10, 0, 0, 0, 0, 0, 0, 1] } }

theorem witness_TrapReturn : (∃ (s : State) (n : Nat) (c : Nat) (x : Ctx), s.ctx? n c = some x ∧ x.frame = none) ∧
    (∃ (s : State) (n : Nat) (c : Nat) (x : Ctx) (fr : Frame), s.ctx? n c = some x ∧ x.frame = some fr ∧ fr.noissue = true) ∧
    ∃ (s : State) (n : Nat) (c : Nat) (x : Ctx) (fr : Frame) (b : Bundle) (k : Nat), s.ctx? n c = some x ∧ x.frame = some fr ∧ fr.noissue = false ∧ fr.bundle = some b ∧
      b.cur < b.slots.length ∧ (leWord 64 ((s.placeAll n).peek (x.saveAt 32) 8) : DWord) = b.addr ∧
      (((s.placeAll n).peek (x.saveAt 40) 1).getD 0 0).toNat = 1 ∧ (∃ p, b.slots[k]? = some p ∧ 1 ≤ p.pos) ∧
      ∀ j, j < k → ∀ p, b.slots[j]? = some p → p.pos < 1 := by
  refine ⟨⟨sums, 0, 0, sums.ctx 0 0, by decide +kernel⟩,
    ⟨issued .nop framed, 0, 0, (issued .nop framed).ctx 0 0, { noissue := true, next := .at 0x1010 }, by decide +kernel⟩,
    returning, 0, 0, returning.ctx 0 0, { bundle := some (bundleIn sums), next := .at 0x1010 }, bundleIn sums, 1, by decide +kernel, by decide +kernel,
    rfl, rfl, by decide +kernel, by decide +kernel, by decide +kernel, ⟨_, rfl, by decide +kernel⟩, fun j h p hp => ?_⟩
  obtain rfl : j = 0 := by omega
  cases hp
  decide

/-- The bundle of a state is to do something when it ends. -/
def ending (as : List EndAct) (s : State) : State := s.modBundle 0 0 fun b => { b with acts := as }

theorem witness_EndsOfBundlesAndTasks : (∃ (s : State) (e : Env), Runs s e) ∧
    (∃ (s : State) (n c : Nat) (x : Ctx) (b : Bundle), s.ctx? n c = some x ∧ x.bundle = some b ∧ b.acts = [.yieldEr, .erIdle 3] ∧
      x.task.gslot.isSome = true ∧ x.actionDue = false ∧ (s.core n).running = some c) ∧
    ∃ (s : State) (n : Nat) (c : Nat) (x : Ctx) (b : Bundle), s.ctx? n c = some x ∧ x.bundle = some b ∧ b.acts = [.rfu] ∧ x.pend.all PWrite.ready = true ∧
      x.actionDue = false ∧ (s.core n).running = some c :=
  let s : State := ending [.yieldEr, .erIdle 3] (issued .nop fun x => { x with task := { x.task with gslot := some 1 } })
  ⟨⟨sums, envOf sums, runs_envOf (by decide +kernel)⟩, ⟨s, 0, 0, s.ctx 0 0, bundleIn s, by decide +kernel⟩,
    ending [.rfu] sums, 0, 0, (ending [.rfu] sums).ctx 0 0, bundleIn (ending [.rfu] sums), by decide +kernel⟩

theorem witness_UserEventsAndReturn : (∃ (s : State) (n c src : Nat) (x : Ctx), s.ctx? n c = some x ∧ 1 ≤ src ∧ src ≤ 3) ∧
    ∃ (s : State) (n : Nat) (c : Nat) (x : Ctx) (fr : EventFrame), s.ctx? n c = some x ∧ x.eframe = some fr ∧
      x.pend ≠ [] ∧ ∀ w ∈ x.pend, w.failed = false :=
  ⟨⟨sums, 0, 0, 3, sums.ctx 0 0, by decide +kernel⟩,
    issued .nop fun x => { x with eframe := some {}, pend := [{ due := 30, dest := .es 1 5 }, { due := 9, dest := .es 1 6 }] }, 0, 0, _, {},
    rfl, rfl, by decide +kernel, by decide +kernel⟩

/-- A slot of sA in system privilege. -/
def inSystem : State := stateAt .issued 0x10 [.nop, .nop] (withS 3 0x400)

theorem witness_ControlRegisterWrites :
    (∃ (s : State) (e : Env), Runs s e ∧ e.b.latch.ctl.priv = true ∧ (e.sA (fields 0 3 0)).toNat < 2 ^ 11 ∧ (e.sA (fields 0 3 0)).getLsbD 3 = false ∧
      (e.sA (fields 0 3 0)).toNat % 8 ≤ 4) ∧
    (∃ (s : State) (e : Env), Runs s e ∧ e.b.latch.ctl.priv = false ∧ slotmapOk ((e.sA (fields 0 3 0)).setWidth 9) = false ∧
      rngsrcOk (e.sA (fields 0 3 0)) = true) ∧
    (∃ (s : State) (e : Env), Runs s e ∧ slotmapOk ((e.sA (fields 0 3 0)).setWidth 9) = true ∧ 2 ^ 11 ≤ (e.sA (fields 0 3 0)).toNat) ∧
    (∃ (s : State) (e : Env), Runs s e ∧ rngsrcOk (e.sA (fields 0 3 0)) = false) ∧ ∃ c, plainWrite {} 0x10 5 = some c :=
  ⟨⟨inSystem, envOf inSystem, runs_envOf (by decide +kernel), by decide +kernel⟩, ⟨onS .nop 0 0, envOf (onS .nop 0 0), runs_envOf (by decide +kernel), by decide +kernel⟩,
    ⟨onS .nop 0xFFF 0, envOf (onS .nop 0xFFF 0), runs_envOf (by decide +kernel), by decide +kernel⟩,
    ⟨onS .nop 0xFFFFFFFFFFFFFFFF 0, envOf (onS .nop 0xFFFFFFFFFFFFFFFF 0), runs_envOf (by decide +kernel), by decide +kernel⟩, _, rfl⟩

/-- The operating point of the core. -/
def atPoint (o : BitVec 10) (s : State) : State := s.modCore 0 fun k => { k with oppt := o }

theorem witness_ReadsAndRequestsOfTheCore :
    (∃ (s : State) (e : Env), Runs s e ∧ (s.core e.n).oppt.getLsbD 6 = true) ∧
    (∃ (s : State) (e : Env), Runs s e ∧ (s.core e.n).oppt.getLsbD 6 = false ∧
      max ((e.sA (fields 5 3 0)).toNat % 8) ((s.core e.n).oppt.extractLsb' 7 3).toNat = ((s.core e.n).oppt.extractLsb' 0 3).toNat) ∧
    (∃ (s : State) (e : Env), Runs s e ∧ (s.core e.n).oppt.getLsbD 6 = false ∧
      max ((e.sA (fields 5 3 0)).toNat % 8) ((s.core e.n).oppt.extractLsb' 7 3).toNat ≠ ((s.core e.n).oppt.extractLsb' 0 3).toNat) ∧
    (fields 2 3 0).d.toNat ≤ 2 :=
  ⟨⟨atPoint 0x40 sums, envOf (atPoint 0x40 sums), runs_envOf (by decide +kernel), by decide +kernel⟩,
    ⟨atPoint 7 sums, envOf (atPoint 7 sums), runs_envOf (by decide +kernel), by decide +kernel⟩,
    ⟨sums, envOf sums, runs_envOf (by decide +kernel), by decide +kernel⟩, by decide +kernel⟩

/-! #### Memory, vectors and units -/

/-- An answer that is not an error. -/
theorem ok_of {ε α : Type} {x : Except ε α} (h : x.toBool = true) : ∃ a, x = .ok a := by
  cases x with
  | ok a => exact ⟨a, rfl⟩
  | error e => simp [Except.toBool] at h

theorem error_of {ε α : Type} {x : Except ε α} (h : x.toBool = false) : ∃ a, x = .error a := by
  cases x with
  | ok a => simp [Except.toBool] at h
  | error e => exact ⟨e, rfl⟩

/-- The lone task may also name bytes of node 3, from virtual address 1 GiB on. -/
def withPeer (s : State) : State :=
  { s with mem := { s.mem with bytes := writeBytes s.mem.bytes (rootAt + 8) [0x1E, 0, 0, 0, 0, 0x03, 0x08] } }

/-- A slot whose address register s3 holds `a`. -/
def at3 (a : DWord) : State := withPeer (onS .nop a 5)

/-- All ports of the package are down. -/
def portsDown (s : State) : State := { s with fabric := { s.fabric with portsDown := 0xFFFF } }

/-- What the translation of an access answers, where it is no error. -/
def places_ok (s : State) (kind : AccessKind) (a : DWord) (P : State → List (Place × Nat) → Bool) : Bool :=
  match s.places 0 (envOf s).px kind a 8 with
  | .ok (t, ps) => P t ps
  | .error _ => false

theorem places_of {s : State} {kind : AccessKind} {a : DWord} {P : State → List (Place × Nat) → Bool} (h : places_ok s kind a P = true) :
    ∃ t ps, s.places 0 (envOf s).px kind a 8 = .ok (t, ps) ∧ P t ps = true := by
  unfold places_ok at h
  split at h
  · exact ⟨_, _, by assumption, h⟩
  · cases h

/-- An access may go at once, or one to some bytes of a peer waits for an earlier one. -/
def goes (store busy : Bool) (s t : State) (ps : List (Place × Nat)) : Bool :=
  !(t.core 0).placesBusy store ps && t.peersBusy (envOf s).x.task.uid ps == busy

/-- A store of the task to offset 0x40 of node 3 is outstanding. -/
def withStore (s : State) : State := { s with fabric := { s.fabric with remotes := [(9,
  { core := 0, ctx := 0, uid := 1, node := 3, addr := 0x40000044, len := 4, landing := none, counts := true, spans := [(0x44, 4)], issued := 0 })] } }

theorem witness_LoadsLand :
    (∃ (s : State) (e : Env) (r : LoadRow), Runs s e ∧ loadRow e (.ldI64 (fields 5 3 0)) = some r ∧ r.addr.toNat % r.align ≠ 0) ∧
    (∃ (s : State) (e : Env) (r : LoadRow), Runs s e ∧ loadRow e (.ldI64 (fields 5 3 0)) = some r ∧ r.addr.toNat % r.align = 0 ∧
      ∃ g, s.places e.n e.px .load r.addr r.size = .error g) ∧
    (∃ (s : State) (e : Env) (r : LoadRow), Runs s e ∧ loadRow e (.ldI64 (fields 5 3 0)) = some r ∧ r.addr.toNat % r.align = 0 ∧
      (∃ t ps, s.places e.n e.px .load r.addr r.size = .ok (t, ps) ∧ goes false false s t ps = true) ∧ r.dest ≠ none ∧
      e.x.landings < 32) ∧
    (∃ (s : State) (e : Env) (r : LoadRow), Runs s e ∧ loadRow e (.ldI64 (fields 0 3 0)) = some r ∧ r.addr.toNat % r.align = 0 ∧
      (∃ t ps, s.places e.n e.px .load r.addr r.size = .ok (t, ps) ∧ goes false false s t ps = true) ∧ r.dest = none) ∧
    ∃ (s : State) (e : Env) (r : LoadRow), Runs s e ∧ loadRow e (.ldI64 (fields 0 3 0)) = some r ∧ r.addr.toNat % r.align = 0 ∧
      ∃ t ps, s.places e.n e.px .load r.addr r.size = .ok (t, ps) ∧ goes false true s t ps = true :=
  ⟨⟨at3 0x2001, envOf (at3 0x2001), _, runs_envOf (by decide), rfl, by decide⟩,
    ⟨at3 0x1000000000000, envOf (at3 0x1000000000000), _, runs_envOf (by decide), rfl, by decide, error_of (by decide +kernel)⟩,
    ⟨at3 0x2000, envOf (at3 0x2000), _, runs_envOf (by decide), rfl, by decide, places_of (by decide +kernel), by decide, by decide⟩,
    ⟨at3 0x2000, envOf (at3 0x2000), _, runs_envOf (by decide), rfl, by decide, places_of (by decide +kernel), by decide⟩,
    withStore (at3 0x40000040), envOf (withStore (at3 0x40000040)), _, runs_envOf (by decide), rfl, by decide,
    places_of (by decide +kernel)⟩

/-- Core 0 holds a copy of a line, at its logical time. -/
def withCopy (s : State) : State := s.modCore 0 fun k => { k with l1 := [(128, ⟨List.replicate 64 0, 0, 40⟩)], t := 1 }

theorem witness_LinesByLogicalTime :
    (∃ (s : State) (n l : Nat) (k : L1Line), tget (s.core n).l1 l = some k ∧ k.w < (s.core n).t ∧ (s.core n).t ≤ k.e) ∧
    (∃ (s : State) (n l : Nat), ∀ k, tget (s.core n).l1 l = some k → ¬(k.w < (s.core n).t ∧ (s.core n).t ≤ k.e)) ∧
    ∃ (a l : Nat) (bs : List Byte), lineOf a = l ∧ a % 64 + bs.length ≤ 64 :=
  ⟨⟨withCopy sums, 0, 128, ⟨List.replicate 64 0, 0, 40⟩, by decide⟩, ⟨sums, 0, 128, fun k h => (by cases h)⟩,
    0x203F, 128, [1], by decide⟩

theorem witness_MemoryReadsAndWrites :
    (∃ (s : State) (n a len : Nat), 0 < len ∧ ∀ b, a ≤ b → b < a + len → (s.mem.line (lineOf b)).own = none ∧
      tget (s.core n).l1 (lineOf b) = none) ∧
    ∃ (s : State) (e : Env), Runs s e ∧ (∀ l, (s.mem.line l).own = none) ∧ (s.core e.n).outq.all (·.placed) = true :=
  ⟨⟨State.reset, 0, 0x2000, 8, by decide, fun _ _ _ => ⟨rfl, rfl⟩⟩, sums, envOf sums, runs_envOf (by decide), fun _ => rfl,
    by decide +kernel⟩

/-- The places of eight bytes, by whether there is one run of them at a given place. -/
def placeIs (a : DWord) (kind : AccessKind) (p : Place) : Bool :=
  match (at3 a).places 0 (envOf (at3 a)).px kind a 8 with
  | .ok (_, [(q, 8)]) => q = p
  | _ => false

theorem place_of {a : DWord} {kind : AccessKind} {p : Place} (h : placeIs a kind p = true) :
    ∃ t, (at3 a).places 0 (envOf (at3 a)).px kind a 8 = .ok (t, [(p, 8)]) := by
  unfold placeIs at h
  split at h
  · rename_i t q hq
    exact ⟨t, by simp_all⟩
  · cases h

theorem witness_StoresComplete :
    (∃ (s : State) (e : Env) (a : DWord) (pieces : List (Nat × List Byte)), Runs s e ∧
      storeRow e (.st64 (fields 0 3 4)) = some (a, 8, 8, pieces) ∧ a.toNat % 8 ≠ 0) ∧
    (∃ (s : State) (e : Env) (a : DWord) (pieces : List (Nat × List Byte)), Runs s e ∧
      storeRow e (.st64 (fields 0 3 4)) = some (a, 8, 8, pieces) ∧ a.toNat % 8 = 0 ∧ ∃ g, s.places e.n e.px .store a 8 = .error g) ∧
    (∃ (s : State) (e : Env) (a : DWord) (pieces : List (Nat × List Byte)) (t : State) (pa : Nat), Runs s e ∧
      storeRow e (.st64 (fields 0 3 4)) = some (a, 8, 8, pieces) ∧ a.toNat % 8 = 0 ∧
      s.places e.n e.px .store a 8 = .ok (t, [(.mem pa, 8)]) ∧ pa % 8 = 0) ∧
    (∀ busy ∈ [false, true], ∃ (s : State) (e : Env) (a : DWord) (pieces : List (Nat × List Byte)) (t : State) (ps : List (Place × Nat)),
      Runs s e ∧ storeRow e (.st64 (fields 0 3 4)) = some (a, 8, 8, pieces) ∧ a.toNat % 8 = 0 ∧
      s.places e.n e.px .store a 8 = .ok (t, ps) ∧ goes true busy s t ps = true) ∧
    (∃ (s t : State) (e : Env) (a : DWord) (b : Nat), s.env = some e ∧ s.places e.n e.px .store a 8 = .ok (t, [(.spad b, 8)])) ∧
    ∃ (s t : State) (e : Env) (a : DWord) (node off : Nat), s.env = some e ∧
      s.places e.n e.px .store a 8 = .ok (t, [(.peer node off, 8)]) ∧ s.nodeUp node = true ∧ (portsDown s).nodeUp node = false :=
  ⟨⟨at3 0x2001, envOf (at3 0x2001), _, _, runs_envOf (by decide), rfl, by decide⟩,
    ⟨at3 0x1000000000000, envOf (at3 0x1000000000000), _, _, runs_envOf (by decide), rfl, by decide, error_of (by decide +kernel)⟩,
    let ⟨t, h⟩ := place_of (a := 0x2000) (kind := .store) (p := .mem 0x2000) (by decide +kernel)
    ⟨at3 0x2000, envOf (at3 0x2000), _, _, t, 0x2000, runs_envOf (by decide), rfl, by decide, h, by decide⟩,
    List.forall_mem_cons.mpr ⟨
      let ⟨t, ps, h, g⟩ := places_of (s := at3 0x40000040) (kind := .store) (P := goes true false (at3 0x40000040)) (by decide +kernel)
      ⟨at3 0x40000040, envOf (at3 0x40000040), 0x40000040, _, t, ps, runs_envOf (by decide), rfl, by decide, h, g⟩,
    List.forall_mem_cons.mpr ⟨
      let ⟨t, ps, h, g⟩ := places_of (s := withStore (at3 0x40000040)) (kind := .store) (P := goes true true (withStore (at3 0x40000040)))
        (by decide +kernel)
      ⟨withStore (at3 0x40000040), envOf (withStore (at3 0x40000040)), 0x40000040, _, t, ps, runs_envOf (by decide), rfl, by decide, h, g⟩,
    nofun⟩⟩,
    let ⟨t, h⟩ := place_of (a := 0xFFFFFFFFFFC00000) (kind := .store) (p := .spad 4194304) (by decide +kernel)
    ⟨at3 0xFFFFFFFFFFC00000, t, envOf (at3 0xFFFFFFFFFFC00000), _, 4194304, env_envOf (by decide), h⟩,
    let ⟨t, h⟩ := place_of (a := 0x40000040) (kind := .store) (p := .peer 3 0x40) (by decide +kernel)
    ⟨at3 0x40000040, t, envOf (at3 0x40000040), _, 3, 0x40, env_envOf (by decide), h, by decide, by decide⟩⟩

/-- An access of the core waits for its place. -/
def queuedAt (a : Access) : State := sums.modCore 0 fun k => { k with outq := [a] }

theorem witness_AtomicsPerform :
    (∃ (s : State) (e : Env) (f : Fields) (op : AmoOp), Runs s e ∧ atomicRow (.amoAdd f) = some (f, op) ∧
      (e.sA f + ldOffset false f).toNat % 8 ≠ 0) ∧
    (∃ (s : State) (e : Env) (f : Fields) (op : AmoOp) (t : State) (pa : Nat), Runs s e ∧ atomicRow (.amoAdd f) = some (f, op) ∧
      (e.sA f + ldOffset false f).toNat % 8 = 0 ∧
      s.places e.n e.px .atomic (e.sA f + ldOffset false f) 8 = .ok (t, [(.mem pa, 8)]) ∧ e.x.landings < 32) ∧
    (∃ (s : State) (e : Env) (f : Fields) (op : AmoOp) (t : State) (node off : Nat), Runs s e ∧ atomicRow (.amoAdd f) = some (f, op) ∧
      s.places e.n e.px .atomic (e.sA f + ldOffset false f) 8 = .ok (t, [(.peer node off, 8)]) ∧ e.landDest f.d = none) ∧
    (∀ busy ∈ [false, true], ∃ (s t : State) (e : Env) (f : Fields) (ps : List (Place × Nat)), Runs s e ∧
      (e.sA f + ldOffset false f).toNat % 8 = 0 ∧
      s.places e.n e.px .atomic (e.sA f + ldOffset false f) 8 = .ok (t, ps) ∧ goes false busy s t ps = true) ∧
    (∃ (s : State) (n : Nat) (a : Access) (pa : Nat), (s.core n).outq.find? (fun b => !b.placed) = some a ∧
      pa + 8 ≤ Config.windowBase ∧ pa % 64 + 8 ≤ 64 ∧ (s.mem.line (lineOf pa)).own = none ∧ a.amo = none ∧
      a.pieces = [(pa, [1, 2, 3, 4, 5, 6, 7, 8])]) ∧
    ∃ (s : State) (n : Nat) (a : Access) (m : Amo), (s.core n).outq.find? (fun b => !b.placed) = some a ∧ a.amo = some m ∧
      a.pieces = [(0x2038, [])] :=
  ⟨⟨at3 0x2001, envOf (at3 0x2001), fields 5 3 4, .add, runs_envOf (by decide), rfl, by decide⟩,
    let ⟨t, h⟩ := place_of (a := 0x2000) (kind := .atomic) (p := .mem 0x2000) (by decide +kernel)
    ⟨at3 0x2000, envOf (at3 0x2000), fields 5 3 4, .add, t, 0x2000, runs_envOf (by decide), rfl, by decide, h, by decide⟩,
    let ⟨t, h⟩ := place_of (a := 0x40000040) (kind := .atomic) (p := .peer 3 0x40) (by decide +kernel)
    ⟨at3 0x40000040, envOf (at3 0x40000040), fields 0 3 4, .add, t, 3, 0x40, runs_envOf (by decide), rfl, h, by decide⟩,
    List.forall_mem_cons.mpr ⟨
      let ⟨t, ps, h, g⟩ := places_of (s := at3 0x40000040) (kind := .atomic) (a := 0x40000040) (P := goes false false (at3 0x40000040))
        (by decide +kernel)
      ⟨at3 0x40000040, t, envOf (at3 0x40000040), fields 0 3 4, ps, runs_envOf (by decide), by decide, h, g⟩,
    List.forall_mem_cons.mpr ⟨
      let ⟨t, ps, h, g⟩ := places_of (s := withStore (at3 0x40000040)) (kind := .atomic) (a := 0x40000040)
        (P := goes false true (withStore (at3 0x40000040))) (by decide +kernel)
      ⟨withStore (at3 0x40000040), t, envOf (withStore (at3 0x40000040)), fields 0 3 4, ps, runs_envOf (by decide), by decide, h, g⟩,
    nofun⟩⟩,
    ⟨queuedAt ⟨9, 1, 0, [(0x2038, [1, 2, 3, 4, 5, 6, 7, 8])], none, false⟩, 0,
      ⟨9, 1, 0, [(0x2038, [1, 2, 3, 4, 5, 6, 7, 8])], none, false⟩, 0x2038, by decide⟩,
    queuedAt ⟨9, 1, 0, [(0x2038, [])], some ⟨.cas, false, 1, 2⟩, false⟩, 0,
      ⟨9, 1, 0, [(0x2038, [])], some ⟨.cas, false, 1, 2⟩, false⟩, ⟨.cas, false, 1, 2⟩, by decide⟩

/-- A vector slot in whose lane 0 stand 1 and a NaN. -/
def onNan : State := onV .nop 0x3F800000 0x7F800001

theorem witness_VectorResults : ∃ (i : Instr) (s : State) (e : Env) (f : Fields) (o : OpInfo) (l : Nat) (g : LaneFn), Runs s e ∧
    entry i = some (f, o) ∧ laneRow e i = some (l, g) :=
  ⟨.vadd ⟨5, 1, 2, true, some 0x0000111⟩, onNan, envOf onNan, _, _, _, _, runs_envOf (by decide), rfl, rfl⟩

theorem witness_MaskResults : (∃ (i : Instr) (s : State) (e : Env) (f : Fields) (l : Nat) (g : Nat → Bool), Runs s e ∧
      compareRow e i = some (f, l, g)) ∧
    ∃ (i : Instr) (s : State) (e : Env) (f : Fields) (g : Nat → Bool), Runs s e ∧ maskRow e i = some (f, g) :=
  ⟨⟨.vcmpUn (fields 3 1 2), onNan, envOf onNan, _, _, _, runs_envOf (by decide), rfl⟩,
    .mfirstM (fields 3 1 0), onNan, envOf onNan, _, _, runs_envOf (by decide), rfl⟩

theorem witness_LanesAndPlanes : (∃ (s : State) (e : Env), Runs s e ∧ e.b.latch.ctl.te = 0 ∧ quantOk (e.sB (fields 5 1 3)) = true) ∧
    ∃ (s : State) (e : Env), Runs s e ∧ quantOk (e.sB (fields 5 1 3)) = false :=
  ⟨⟨onS .nop 8 0, envOf (onS .nop 8 0), runs_envOf (by decide), by decide +kernel⟩,
    onS .nop 3 0, envOf (onS .nop 3 0), runs_envOf (by decide), by decide +kernel⟩

theorem witness_RandomAndExtrapolation : (∃ (s : State) (e : Env), Runs s e) ∧
    (∃ a : Nat, (decide (2 ≤ a % 16 ∧ a % 16 ≤ 8 ∧ a < 32) && toleranceOk 0 && toleranceOk 0) = true) ∧
    ∃ a : Nat, (decide (2 ≤ a % 16 ∧ a % 16 ≤ 8 ∧ a < 32) && toleranceOk 0 && toleranceOk 0) = false :=
  ⟨⟨sums, envOf sums, runs_envOf (by decide)⟩, ⟨24, by decide⟩, 9, by decide⟩

theorem witness_RoundingOfFractions : ∃ n d : Nat, 0 < d ∧ n % d ≠ 0 ∧ (2 * n = 2 * (2 * d) + d) := ⟨5, 2, by decide⟩

/-! #### The matrix engine, the candidate file, slices and requests -/

/-- The data that a blocking read answers. -/
def dataOf : ReadRes → Option (State × List Byte)
  | .data t bs => some (t, bs)
  | _ => none

theorem data_of {r : ReadRes} (h : (dataOf r).isSome = true) : ∃ t bs, r = .data t bs := by
  cases r with
  | data t bs => exact ⟨t, bs, rfl⟩
  | trap => cases h
  | wait => cases h

/-- A data answer of which a check holds. -/
theorem data_and {r : ReadRes} {P : State → List Byte → Bool} (h : (dataOf r).any (fun q => P q.1 q.2) = true) :
    ∃ t bs, r = .data t bs ∧ P t bs = true := by
  cases r with
  | data t bs => exact ⟨t, bs, rfl, by simpa [dataOf] using h⟩
  | trap => cases h
  | wait => cases h

/-- What a latched pass answers. -/
def passOf : Latched → Option (State × PassLatch)
  | .pass t p => some (t, p)
  | _ => none

theorem pass_and {r : Latched} {P : State → PassLatch → Bool} (h : (passOf r).any (fun q => P q.1 q.2) = true) :
    ∃ t p, r = .pass t p ∧ P t p = true := by
  cases r with
  | pass t p => exact ⟨t, p, rfl, by simpa [passOf] using h⟩
  | trap => cases h
  | wait => cases h

/-- A stream of two tiles of a format, full or empty. -/
def ring (fmtw : BitVec 32) (n : Nat) (base : BitVec 32) : Stream := { base := base, size := 32768, fmtw := fmtw, cnt := n }

/-- Streams 0 to 3 hold tiles, 4 is compressed and full, 5 compressed and empty, 6 an empty ring. -/
def withTiles (x : Ctx) : Ctx := { x with units := { x.units with
  st := [(0, ring 0 2 0), (1, ring 0 2 32768), (2, ring 0 2 65536), (3, ring 0 2 98304), (4, ring 16 2 131072), (5, ring 16 0 163840),
    (6, ring 5 0 196608)] } }

/-- A slot with tiles, s3 and s4. -/
def onT (a b : DWord) (g : Ctx → Ctx := id) : State := issued .nop fun x => g (withTiles (withS 3 a (withS 4 b x)))

/-- A claim of one tile. -/
def claimOne (s : State) (n : Nat) : Option (Ctx × List Tile) := (envOf s).x.claimTiles s.clock n s.fresh 1

/-- The epilogue sends its result to registers, to ring 6 as FP8, or to the candidate path. -/
def epilogue (qt dest : Byte) (x : Ctx) : Ctx := { x with units := { x.units with epi := byteTable [0, qt, dest, 0, if dest = 1 then 6 else 0] } }

theorem witness_MatrixSlotsQueue_products :
    (∃ (s : State) (e : Env), Runs s e ∧ tget e.b.answers e.p.pos = none ∧ pairOk (e.x.stream s.clock 0) (e.x.stream s.clock 5) = false ∧
      pairOk (e.x.stream s.clock 0) (e.x.stream s.clock 1) = true ∧ (e.x.claimTiles s.clock 7 s.fresh 1) = none) ∧
    (∃ (s : State) (e : Env) (y z : Ctx) (t v : Tile), Runs s e ∧ tget e.b.answers e.p.pos = none ∧
      pairOk (e.x.stream s.clock 0) (e.x.stream s.clock 1) = true ∧ e.x.claimTiles s.clock 0 s.fresh 1 = some (y, [t]) ∧
      y.claimTiles s.clock 1 s.fresh 1 = some (z, [v]) ∧ (s.core e.n).foreignRange z (t.ranges ++ v.ranges) = none) ∧
    (∃ (s : State) (e : Env) (y z : Ctx) (t v w : Tile), Runs s e ∧ tget e.b.answers e.p.pos = none ∧ (e.x.stream s.clock 4).cmp = true ∧
      e.x.claimTiles s.clock 4 s.fresh 1 = some (y, [t]) ∧ y.claimTiles s.clock 3 s.fresh 2 = some (z, [v, w]) ∧
      (s.core e.n).foreignRange z (t.ranges ++ v.ranges ++ w.ranges) = none) ∧
    ∃ (s : State) (e : Env) (y : Ctx) (t v o : Tile) (x' : Stream), Runs s e ∧ tget e.b.answers e.p.pos = none ∧
      e.x.claimTiles s.clock 0 s.fresh 2 = some (y, [t, v]) ∧ (e.x.stream s.clock 5).takeTail y.task 5 1 = .tiles x' [o] ∧
      (s.core e.n).foreignRange (y.setStream s.clock 5 x') ((t.ranges ++ v.ranges) ++ o.ranges) = none :=
  ⟨⟨onT 0 0, envOf (onT 0 0), runs_envOf (by decide), by decide +kernel⟩,
    ⟨onT 0 0, envOf (onT 0 0), _, _, _, _, runs_envOf (by decide), by decide, by decide +kernel, rfl, rfl, by decide +kernel⟩,
    ⟨onT 0 0, envOf (onT 0 0), _, _, _, _, _, runs_envOf (by decide), by decide, by decide +kernel, rfl, rfl, by decide +kernel⟩,
    onT 0 0, envOf (onT 0 0), _, _, _, _, _, runs_envOf (by decide), by decide, rfl, rfl, by decide +kernel⟩

/-- Rows of a `tdacc` in the aperture. -/
def daccAt : State := onT 0xFFFFFFFFFFC00000 512

theorem witness_MatrixSlotsQueue_drains :
    (∃ (s : State) (e : Env) (t : State) (rows : List RowPlace), Runs s e ∧ (e.sA (fields 0 3 4)).toNat % 512 = 0 ∧
      (e.sB (fields 0 3 4)).toNat % 512 = 0 ∧
      ({ s with fresh := s.fresh + 1 } : State).daccRows e.n e.px (e.sA (fields 0 3 4)) (e.sB (fields 0 3 4)) = .ok (t, rows) ∧
      (s.core e.n).foreignRange e.x ((rows.filterMap fun r => match r with | .spad x => some (x, 512) | _ => none) ++
        rows.filterMap fun r => match r with | .spad x => some (x, 512) | _ => none) = none) ∧
    (∃ (s : State) (e : Env), Runs s e ∧ epiDest e.x.units.epi = 0 ∧ (e.sA (fields 0 3 0)).toNat < 2 ^ 15 ∧
      (e.sA (fields 0 3 0)).toNat % 16 + ((e.sA (fields 0 3 0)).toNat / 16 % 16 + 1) ≤ 16) ∧
    (∃ (s : State) (e : Env) (y : Stream) (ts : List Tile), Runs s e ∧ epiDest e.x.units.epi = 1 ∧ e.sA (fields 0 3 0) = 0 ∧
      epiField e.x.units.epi 4 1 = 6 ∧ (e.x.stream s.clock 6).fmt = ringFmt (epiQt e.x.units.epi) ∧
      (e.x.stream s.clock 6).fill = 0 ∧ (e.x.stream s.clock 6).takeTail e.x.task 6 2 = .tiles y ts ∧
      (s.core e.n).foreignRange (e.x.setStream s.clock 6 y) (ts.flatMap Tile.ranges) = none) ∧
    ∃ (s : State) (e : Env) (k : Block) (g : Bool) (t : State) (p : PassLatch), Runs s e ∧ 2 ≤ epiDest e.x.units.epi ∧
      e.sA (fields 0 3 0) = 0 ∧ e.x.task.hdr.cf = true ∧ controlBlock e.x.units.cand.path 128 128 = some (k, g) ∧
      ({ s with fresh := s.fresh + 1 } : State).latchPass e k true [] = .pass t p := by
  refine ⟨?_, ⟨onT 0x70 0, envOf (onT 0x70 0), runs_envOf (by decide), by decide +kernel⟩,
    ⟨onT 0 0 (epilogue 1 1), envOf (onT 0 0 (epilogue 1 1)), _, _, runs_envOf (by decide), by decide +kernel, by decide +kernel,
      by decide +kernel, by decide +kernel, by decide +kernel, rfl, by decide +kernel⟩, ?_⟩
  · have h : (match ({ daccAt with fresh := daccAt.fresh + 1 } : State).daccRows 0 (envOf daccAt).px 0xFFFFFFFFFFC00000 512 with
        | .ok (_, rows) => ((daccAt.core 0).foreignRange (envOf daccAt).x
            ((rows.filterMap fun r => match r with | .spad x => some (x, 512) | _ => none) ++
              rows.filterMap fun r => match r with | .spad x => some (x, 512) | _ => none)).isNone
        | .error _ => false) = true := by decide +kernel
    split at h
    · rename_i t rows hr
      exact ⟨daccAt, envOf daccAt, t, rows, runs_envOf (by decide), by decide +kernel, by decide +kernel, hr, Option.isNone_iff_eq_none.mp h⟩
    · cases h
  · obtain ⟨t, p, h, -⟩ := pass_and (P := fun _ _ => true) (r := ({ onT 0 0 (epilogue 0 2) with fresh := 4 } : State).latchPass
      (envOf (onT 0 0 (epilogue 0 2))) { r0 := 0, v0 := 0, rows := 1, toks := 1 } true []) (by decide +kernel)
    exact ⟨onT 0 0 (epilogue 0 2), envOf (onT 0 0 (epilogue 0 2)), _, _, t, p, runs_envOf (by decide), by decide +kernel,
      by decide +kernel, by decide +kernel, rfl, h⟩

/-- The tiles of a projection over streams are claimed after its pass is latched in a state. -/
def projects (sts : List Nat) (t : State) : Bool :=
  (t.clock == (onT 0 0).clock) &&
    ((t.ctx 0 0).claimEach t.clock 3 sts).any fun r => ((t.core 0).foreignRange r.1 (r.2.flatMap Tile.ranges)).isNone

theorem witness_MatrixSlotsQueue_projections (sts : List Nat) (ex : List (DWord × Nat))
    (h : (sts = [0, 1] ∧ ex = []) ∨ (sts = [0, 1, 2, 3] ∧ ex = replayRange (envOf (onT 0 0)).b.latch.ctl.rngsrc (projBlock 0).rows)) :
    ∃ (s : State) (e : Env) (t : State) (x : Ctx) (ts : List Tile) (p : PassLatch), Runs s e ∧ projOk 0 true = true ∧
      projOk 0 false = true ∧ pairOk (e.x.stream s.clock 0) (e.x.stream s.clock 1) = true ∧
      pairOk (e.x.stream s.clock 2) (e.x.stream s.clock 3) = true ∧ e.x.task.hdr.cf = true ∧ t.clock = s.clock ∧
      ({ s with fresh := s.fresh + 1 } : State).latchPass e (projBlock 0) true ex = .pass t p ∧
      (t.ctx e.n e.c).claimEach t.clock 3 sts = some (x, ts) ∧ (t.core e.n).foreignRange x (ts.flatMap Tile.ranges) = none := by
  have hp : (passOf (({ onT 0 0 with fresh := 4 } : State).latchPass (envOf (onT 0 0)) (projBlock 0) true ex)).any
      (fun q => projects sts q.1) = true := by rcases h with ⟨rfl, rfl⟩ | ⟨rfl, rfl⟩ <;> decide +kernel
  obtain ⟨t, p, ht, hc⟩ := pass_and (P := fun t _ => projects sts t) hp
  simp only [projects, Bool.and_eq_true, beq_iff_eq] at hc
  obtain ⟨hk, hc⟩ := hc
  cases hx : (t.ctx 0 0).claimEach t.clock 3 sts with
  | none => simp [hx] at hc
  | some r =>
    simp only [hx, Option.any_some] at hc
    exact ⟨onT 0 0, envOf (onT 0 0), t, r.1, r.2, p, runs_envOf (by decide), by decide, by decide, by decide +kernel, by decide +kernel,
      by decide +kernel, hk, ht, hx, Option.isNone_iff_eq_none.mp hc⟩

/-- The entry of an operation whose slot waits for it. -/
def waits : State := sums.modBundle 0 0 fun b => { b with answers := [(0, .value 9)] }

theorem witness_MatrixSlotsQueue_waits :
    (∃ (s : State) (e : Env) (v : DWord), Runs s e ∧ tget e.b.answers e.p.pos = some (.value v) ∧
      ∀ m ∈ (s.core e.n).entriesOf e.x, m.id ≠ v.toNat) ∧
    ∃ (s : State) (e : Env) (v : DWord), Runs s e ∧ tget e.b.answers e.p.pos = some (.value v) ∧
      ∃ m ∈ (s.core e.n).entriesOf e.x, m.id = v.toNat :=
  ⟨⟨waits, envOf waits, 9, runs_envOf (by decide), by decide +kernel⟩,
    waits.modCore 0 (fun k => { k with queue := [{ id := 9, uid := 1, ctx := 0, op := .zero 0 }] }), _, 9, runs_envOf (by decide),
    by decide +kernel⟩

/-- A legal epilogue block at 0x2000. -/
def epiAt : State := { onS .nop 0x2000 0x2001 with mem := { (onS .nop 0x2000 0x2001).mem with
  bytes := writeBytes (onS .nop 0x2000 0x2001).mem.bytes 0x2000 [0] } }

theorem witness_MatrixSlotsAct :
    (∃ (s : State) (e : Env), Runs s e ∧ (s.core e.n).accBusy e.x 0 = false ∧ (s.core e.n).ownRoutine e.x = false ∧
      (∀ j, j < 64 → ¬((e.sB (fields 0 3 4) ++ e.sA (fields 0 3 4) : BitVec 128).getLsbD (2 * j) = true ∧
        (e.sB (fields 0 3 4) ++ e.sA (fields 0 3 4) : BitVec 128).getLsbD (2 * j + 1) = true))) ∧
    (∃ (s : State) (e : Env), Runs s e ∧
      ∃ j, j < 64 ∧ (e.sB (fields 0 3 4) ++ e.sA (fields 0 3 4) : BitVec 128).getLsbD (2 * j) = true ∧
        (e.sB (fields 0 3 4) ++ e.sA (fields 0 3 4) : BitVec 128).getLsbD (2 * j + 1) = true) ∧
    (∃ (s : State) (e : Env) (t : State) (bs : List Byte), Runs s e ∧ (e.sA (fields 0 3 0)).toNat % 256 = 0 ∧
      s.readBlocking e (e.sA (fields 0 3 0)) 256 = .data t bs ∧
      (epiOk (byteTable bs) && epiFits (byteTable bs) e.x.task.spSize) = true) ∧
    ∃ (s : State) (e : Env) (t : State) (bs : List Byte), Runs s e ∧ (e.sB (fields 0 3 4)).toNat / 4096 = 2 ∧
      (e.sB (fields 0 3 4)).toNat % 4096 = 1 ∧ (s.core e.n).routine = none ∧
      (∀ x ∈ (s.core e.n).tasks, x.parkedRoutine = none) ∧ s.readBlocking e (e.sA (fields 0 3 4)) 8 = .data t bs ∧
      (decide (bs.length = 8) && (t.ctx? e.n e.c).isSome) = true := by
  refine ⟨⟨onS .nop 2 1, envOf (onS .nop 2 1), runs_envOf (by decide), by decide +kernel⟩,
    ⟨onS .nop 0xC000000000000000 0, envOf (onS .nop 0xC000000000000000 0), runs_envOf (by decide), 31, by decide +kernel⟩, ?_, ?_⟩
  · obtain ⟨t, bs, h, hp⟩ := data_and (r := epiAt.readBlocking (envOf epiAt) 0x2000 256)
      (P := fun _ bs => epiOk (byteTable bs) && epiFits (byteTable bs) (envOf epiAt).x.task.spSize) (by decide +kernel)
    exact ⟨epiAt, envOf epiAt, t, bs, runs_envOf (by decide), by decide +kernel, h, hp⟩
  · obtain ⟨t, bs, h, hp⟩ := data_and (r := epiAt.readBlocking (envOf epiAt) 0x2000 8)
      (P := fun t bs => decide (bs.length = 8) && (t.ctx? 0 0).isSome) (by decide +kernel)
    exact ⟨epiAt, envOf epiAt, t, bs, runs_envOf (by decide), by decide +kernel, by decide +kernel, by decide +kernel,
      by decide +kernel, h, hp⟩

/-- A routine of the lone task runs on the engine of core 0. -/
def routineAt (ls : List RLoop) (mp : SMap DWord) : State :=
  let s := issued .nop fun x => { x with regs := { x.regs with mp := mp } }
  { s.modCore 0 (fun k => { k with routine := some { uid := 1, entry := 3, word := 7, loops := ls } }) with actor := .engine 0 }

/-- The acting routine of a state. -/
def routineOf (s : State) : RoutineEnv := s.routineEnv.getD ⟨0, { uid := 0, entry := 0, word := 0 }, {}⟩

/-- A routine of the lone task runs, and the task has reached its leg limit, or its energy quota too. -/
def dueRoutine (energy : Bool) : State :=
  (routineAt [] []).modCtx 0 0 fun x => { x with leg := { x.leg with request := some 3, energy := energy } }

/-- A routine runs, and a check holds of it. -/
theorem witness_RoutinesRun :
    (∃ (s : State) (v : RoutineEnv), EngineRuns s v ∧ v.r.loops.length = 3 ∧ (mget 0 v.x.regs.mp 1).toNat % 2 ^ 32 = 5 ∧
      (mget 0 v.x.regs.mp 0).toNat % 2 ^ 32 = 0 ∧
      (s.core v.n).ctxs.find? (fun e => e.2.task.uid = v.r.uid) = some (0, v.x) ∧ v.x.actionDue = false) ∧
    (∃ (s : State) (v : RoutineEnv), EngineRuns s v ∧ v.r.loops.length = 4 ∧ (mget 0 v.x.regs.mp 1).toNat % 2 ^ 32 ≠ 0) ∧
    (∀ energy : Bool, ∃ (s : State) (v : RoutineEnv), EngineRuns s v ∧
      (s.core v.n).ctxs.find? (fun e => e.2.task.uid = v.r.uid) = some (0, s.ctx v.n 0) ∧ v.x.actionDue = true ∧
      v.x.leg.draining = false ∧ v.x.leg.energy = energy ∧ (s.core v.n).otherReady 0 = false ∧ s.taskWaits v.n 0 = false) ∧
    ∃ (r : Routine) (w : Nat) (l : RLoop) (ls : List RLoop), r.loops.length ≤ 4 ∧ r.loops = l :: ls ∧ l.stop ≤ w ∧ l.left ≤ 1 :=
  ⟨⟨routineAt (List.replicate 3 ⟨1, 20, 2⟩) [(1, 0x100000005)], routineOf (routineAt (List.replicate 3 ⟨1, 20, 2⟩) [(1, 0x100000005)]),
      ⟨by decide +kernel, by decide +kernel, by decide +kernel⟩, by decide +kernel, by decide +kernel, by decide +kernel, rfl,
      by decide +kernel⟩,
    ⟨routineAt (List.replicate 4 ⟨1, 20, 2⟩) [(1, 5)], routineOf (routineAt (List.replicate 4 ⟨1, 20, 2⟩) [(1, 5)]),
      ⟨by decide +kernel, by decide +kernel, by decide +kernel⟩, by decide +kernel⟩,
    fun energy => ⟨dueRoutine energy, routineOf (dueRoutine energy),
      by cases energy <;> exact ⟨by decide +kernel, by decide +kernel, by decide +kernel⟩, by cases energy <;> decide +kernel⟩,
    { uid := 1, entry := 3, word := 7, loops := [⟨1, 9, 1⟩] }, 9, ⟨1, 9, 1⟩, [], by decide, rfl, by decide, by decide⟩

/-- An operation is at the head of the queue of core 0. -/
def headed (op : MatOp) (done : Bool) (i : Input) : State :=
  { sums.modCore 0 (fun k => { k with queue := [{ id := 9, uid := 1, ctx := 0, op := op, done := done }] }) with input := i }

theorem witness_EntriesExecuteAndRetire (op : MatOp) (done : Bool) (i : Input)
    (h : (op = .zero 1 ∧ done = false ∧ i = .matrixEntryExecute 0) ∨
      (op = .mma 1 ⟨0, 0, 0, 0, false⟩ ⟨1, 0, 0, 0, false⟩ none ∧ done = false ∧ i = .matrixEntryExecute 0) ∨
      (op = .call 3 0 ∧ done = false ∧ i = .matrixEntryExecute 0) ∨ (op = .zero 1 ∧ done = true ∧ i = .matrixEntryRetire 0)) :
    ∃ (s : State) (n c : Nat) (m : MatEntry) (ms : List MatEntry) (x : Ctx), (s.core n).queue = m :: ms ∧ s.ctx? n c = some x ∧
      (s.core n).findTask m.uid = some x ∧ (∀ e ∈ (s.core n).tasks, e.task.uid = m.uid → e = x) ∧ (∀ m' ∈ ms, m'.id ≠ m.id) ∧
      m.op = op ∧ m.done = done ∧ (s.core n).routine = none ∧ (s.core n).holds m.id m.reads m.writes = false ∧ (s.core n).routineHeld m = false ∧
      s.input = i ∧ x.parkedRoutine = none := by
  rcases h with ⟨rfl, rfl, rfl⟩ | ⟨rfl, rfl, rfl⟩ | ⟨rfl, rfl, rfl⟩ | ⟨rfl, rfl, rfl⟩
  · exact ⟨headed (.zero 1) false (.matrixEntryExecute 0), 0, 0, _, [], sums.ctx 0 0, rfl, by decide +kernel⟩
  · exact ⟨headed (.mma 1 ⟨0, 0, 0, 0, false⟩ ⟨1, 0, 0, 0, false⟩ none) false (.matrixEntryExecute 0), 0, 0, _, [], sums.ctx 0 0, rfl,
      by decide +kernel⟩
  · exact ⟨headed (.call 3 0) false (.matrixEntryExecute 0), 0, 0, _, [], sums.ctx 0 0, rfl, by decide +kernel⟩
  · exact ⟨headed (.zero 1) true (.matrixEntryRetire 0), 0, 0, _, [], sums.ctx 0 0, rfl, by decide +kernel⟩

theorem witness_CandidateFileIsWritten :
    (∃ (s : State) (e : Env), Runs s e ∧ (e.sA (fields 0 3 4)).toNat = 1919 ∧ (e.sB (fields 0 3 4)).toNat < 2 ^ 32) ∧
    (∃ (s : State) (e : Env), Runs s e ∧ 2048 ≤ (e.sA (fields 0 3 4)).toNat ∧ (e.sA (fields 0 3 4)).toNat % 8 = 0 ∧
      (e.sB (fields 0 3 4)).toNat = 8) ∧
    (∃ (s : State) (e : Env), Runs s e ∧ (e.sA (fields 0 3 4)).toNat = 127 ∧
      ((e.sB (fields 0 3 4)).extractLsb' 0 32 = (0xFF800000 : Word) ∧ (e.sB (fields 0 3 4)).extractLsb' 32 32 = (0 : Word))) ∧
    (∃ (s : State) (e : Env), Runs s e ∧ (e.sA (fields 0 3 4)).toNat = 127 ∧
      ((f32 ((e.sB (fields 0 3 4)).extractLsb' 0 32)).isFinite = true ∧ (f32 ((e.sB (fields 0 3 4)).extractLsb' 32 32)).isFinite = true ∧
        (f32 ((e.sB (fields 0 3 4)).extractLsb' 32 32)).lt (f32 0x3F800000) = false)) ∧
    (∃ b : Nat, b < 2 ^ 56 ∧ b / 2 ^ 47 % 2 = 0 ∧ b / 2 ^ 39 % 2 = 0 ∧ b / 2 ^ 48 % 128 + b / 2 ^ 32 % 128 < 128 ∧
      b % 2 ^ 32 + b / 2 ^ 40 % 128 < 2 ^ 32) ∧ ∃ b : Nat, 2 ^ 56 ≤ b :=
  ⟨⟨onS .nop 1919 0, envOf (onS .nop 1919 0), runs_envOf (by decide), by decide⟩,
    ⟨onS .nop 2048 8, envOf (onS .nop 2048 8), runs_envOf (by decide), by decide⟩,
    ⟨onS .nop 127 0xFF800000, envOf (onS .nop 127 0xFF800000), runs_envOf (by decide), by decide +kernel⟩,
    ⟨onS .nop 127 0x3F80000040000000, envOf (onS .nop 127 0x3F80000040000000), runs_envOf (by decide), by decide +kernel⟩,
    ⟨0x7F00FFFFFF80, by decide⟩, 2 ^ 56, by decide⟩

/-- A table of one image at 0x2100, and the image, of one row. -/
def imagesAt : State :=
  let s := onS .nop 0x2100 0x101
  { s with mem := { s.mem with bytes := writeBytes s.mem.bytes 0x2100 [0, 0x28] } }

/-- A run of bytes lies in memory. -/
def isMem : Place × Nat → Bool
  | (.mem _, _) => true
  | _ => false

theorem peerRuns_mem {ps : List (Place × Nat)} (h : ps.all isMem = true) : ∀ k, peerRuns k ps = [] := by
  induction ps with
  | nil => exact fun _ => rfl
  | cons p ps ih =>
    obtain ⟨p, n⟩ := p
    simp only [List.all_cons, Bool.and_eq_true] at h
    cases p with
    | mem pa => exact fun k => ih h.2 (k + n)
    | _ => cases h.1

theorem placesBusy_mem {k : Core} {w : Bool} {ps : List (Place × Nat)} (h : ps.all isMem = true) : k.placesBusy w ps = false := by
  simp only [Core.placesBusy, List.any_eq_false]
  intro p hp
  have := List.all_eq_true.mp h p hp
  obtain ⟨q, n⟩ := p
  cases q with
  | mem _ => simp
  | _ => cases this

/-- Bytes of memory without bad blocks are read. -/
theorem readBlocking_mem {s t : State} {e : Env} {a : DWord} {len : Nat} {ps : List (Place × Nat)}
    (h : s.places e.n e.px .load a len = .ok (t, ps)) (hp : ps.all isMem = true) (hm : t.noMarks e.n = true) (he : e.x.peerBad = none) :
    ∃ u bs, s.readBlocking e a len = .data u bs := by
  simp [State.readBlocking, h, peerRuns_mem hp, placesBusy_mem hp, State.firstBad, hm, Ctx.peerBadAt, he]

/-- A range of memory can be read. -/
def readable (s : State) (e : Env) (a : DWord) (len : Nat) : Bool :=
  match s.rangesFail e .load [(a, len)] with
  | (t, none) =>
    match t.places e.n e.px .load a len with
    | .ok (u, ps) => ps.all isMem && u.noMarks e.n
    | .error _ => false
  | _ => false

theorem readRanges_mem {s : State} {e : Env} {a : DWord} {len : Nat} (h : readable s e a len = true) (he : e.x.peerBad = none) :
    ∃ u bss, s.readRanges e [(a, len)] = .data u bss := by
  unfold readable at h
  split at h
  · rename_i t ht
    split at h
    · rename_i u ps hp
      simp only [Bool.and_eq_true] at h
      obtain ⟨v, bs, hv⟩ := readBlocking_mem hp h.1 h.2 he
      exact ⟨v, [bs], by simp [State.readRanges, ht, State.readEach, hv]⟩
    · cases h
  · cases h

/-- What reads of several ranges answer. -/
def rangesOf : RangesRes → Option (State × List (List Byte))
  | .data t bss => some (t, bss)
  | _ => none

theorem ranges_and {r : RangesRes} {P : State → List (List Byte) → Bool} (h : (rangesOf r).any (fun q => P q.1 q.2) = true) :
    ∃ t bss, r = .data t bss ∧ P t bss = true := by
  cases r with
  | data t bss => exact ⟨t, bss, rfl, by simpa [rangesOf] using h⟩
  | trap => cases h
  | wait => cases h

theorem witness_CandidateRowsMerge :
    (∃ (s : State) (e : Env) (k : Block) (b2 : Bool) (t : State) (p : PassLatch), Runs s e ∧
      controlBlock (e.sB (fields 0 3 4)) 16 64 = some (k, b2) ∧ s.latchPass e k true [] = .pass t p) ∧
    (∃ (s : State) (e : Env), Runs s e ∧ controlBlock (e.sB (fields 0 3 4)) 16 64 = none ∧ (e.sA (fields 5 3 0)).toNat = 127) ∧
    (∃ (s : State) (e : Env), Runs s e ∧ (e.sB (fields 0 3 4)).toNat = 2 ∧ (e.sA (fields 0 3 4)).toNat % 64 = 0 ∧
      ∃ t, s.spillPlaces e (e.sA (fields 0 3 4)) 2 = .ok t) ∧
    (∃ (s : State) (e : Env), Runs s e ∧ (e.sB (fields 0 3 4)).toNat = 2 ∧ (e.sA (fields 0 3 4)).toNat % 64 = 0 ∧
      ∃ g, s.spillPlaces e (e.sA (fields 0 3 4)) 2 = .error g) ∧
    (∃ (s : State) (e : Env) (t : State) (tab : List Byte) (u : State) (bss : List (List Byte)), Runs s e ∧
      (e.sB (fields 0 3 4)).toNat = 1 + 256 * 1 ∧ (e.sA (fields 0 3 4)).toNat % 8 = 0 ∧
      s.readRanges e [(e.sA (fields 0 3 4), 8 * 1)] = .data t [tab] ∧
      (∀ v ∈ (List.range 1).map fun i => (BitVec.ofNat 64 (fieldAt tab (8 * i) 8) : DWord), v.toNat % 64 = 0) ∧
      t.readRanges e (((List.range 1).map fun i => (BitVec.ofNat 64 (fieldAt tab (8 * i) 8) : DWord)).map fun v => (v, 1024 * 1)) =
        .data u bss) ∧
    ∃ x : Row, x.ent.length = 64 ∧ x.ltok.length = 8 ∧ x.lt.length = 8 ∧ x.ld.length = 8 ∧ x.lu.length = 8 := by
  refine ⟨?_, ⟨onS .nop 127 0x100000000000000, envOf (onS .nop 127 0x100000000000000), runs_envOf (by decide), by decide +kernel⟩,
    ⟨onS .nop 0x2040 2, envOf (onS .nop 0x2040 2), runs_envOf (by decide), by decide, by decide, ok_of (by decide +kernel)⟩,
    ⟨onS .nop 0x1000000000040 2, envOf (onS .nop 0x1000000000040 2), runs_envOf (by decide), by decide, by decide,
      error_of (by decide +kernel)⟩, ?_, { ent := List.replicate 64 (0, 0) }, by decide⟩
  · obtain ⟨t, p, h, -⟩ := pass_and (P := fun _ _ => true) (r := (onS .nop 0 0x000000000005).latchPass (envOf (onS .nop 0 0x000000000005))
      { r0 := 0, v0 := 5, rows := 1, toks := 1 } true []) (by decide +kernel)
    exact ⟨onS .nop 0 0x000000000005, envOf (onS .nop 0 0x000000000005), { r0 := 0, v0 := 5, rows := 1, toks := 1 }, false, t, p,
      runs_envOf (by decide), by decide +kernel, h⟩
  · obtain ⟨t, bss, h, hp⟩ := ranges_and (r := imagesAt.readRanges (envOf imagesAt) [(0x2100, 8)]) (P := fun t bss =>
      match bss with
      | [tab] => decide (tab = [0, 0x28, 0, 0, 0, 0, 0, 0]) && readable t (envOf imagesAt) 0x2800 1024
      | _ => false) (by decide +kernel)
    split at hp
    · rename_i tab
      simp only [Bool.and_eq_true, decide_eq_true_eq] at hp
      obtain ⟨rfl, hp⟩ := hp
      obtain ⟨u, bss, hu⟩ := readRanges_mem hp (by decide +kernel)
      have ha : (envOf imagesAt).sA (fields 0 3 4) = 0x2100 := by decide +kernel
      have hi : ((List.range 1).map fun i => (BitVec.ofNat 64 (fieldAt [0, 0x28, 0, 0, 0, 0, 0, 0] (8 * i) 8) : DWord)) = [0x2800] := by
        decide +kernel
      exact ⟨imagesAt, envOf imagesAt, t, [0, 0x28, 0, 0, 0, 0, 0, 0], u, bss, runs_envOf (by decide), by decide +kernel, by decide +kernel,
        by rw [ha]; exact h, by rw [hi]; simp, by rw [hi]; exact hu⟩
    · cases hp

/-- Row 127 has 64 entries of weight 1/64, the greatest first. -/
def fullRow : Row := { ent := List.replicate 64 (0x3F800000, 7), mt := 0x3F800000, st := 0x42800000 }

/-- A `cf.topp` of row 127 with s3 and s4. -/
def topp (k : Nat) (p : DWord) (r : Row) : State := issued .nop fun x =>
  withS 3 (BitVec.ofNat 64 (127 + 256 * k)) (withS 4 p { x with units := { x.units with cand := { rows := [(127, r)] } } })

/-- A slot of `cf.topp` that acts on row 127, with what a statement asks of k, p and the row. -/
theorem witness_SamplingIsByRace (k : Nat) (p : DWord) (r : Row)
    (h : (k = 0 ∧ p = 0x3F800000 ∧ r = {}) ∨ (k = 65 ∧ p = 0x3F800000 ∧ r = fullRow) ∨ (k = 255 ∧ p = 0x3F7FFFFF ∧ r = fullRow) ∨
      (k = 2 ∧ p = 0x3F800000 ∧ r = fullRow) ∨ (k = 2 ∧ p = 0x3C000000 ∧ r = fullRow)) :
    ∃ (s : State) (e : Env), Runs s e ∧ (e.sA (fields 3 3 4)).toNat % 128 = 127 ∧ (e.sA (fields 3 3 4)).toNat / 128 % 2 = 0 ∧
      (e.sA (fields 3 3 4)).toNat / 256 = k ∧ k < 256 ∧ (e.sB (fields 3 3 4)).toNat < 2 ^ 32 ∧
      (f32 ((e.sB (fields 3 3 4)).setWidth 32)).isFinite = true ∧ fLt 0 ((e.sB (fields 3 3 4)).setWidth 32) = true ∧
      e.x.units.cand.row 127 = r ∧ e.sB (fields 3 3 4) = p := by
  rcases h with ⟨rfl, rfl, rfl⟩ | ⟨rfl, rfl, rfl⟩ | ⟨rfl, rfl, rfl⟩ | ⟨rfl, rfl, rfl⟩ | ⟨rfl, rfl, rfl⟩
  · exact ⟨topp 0 0x3F800000 {}, envOf (topp 0 0x3F800000 {}), runs_envOf (by decide), by decide +kernel⟩
  · exact ⟨topp 65 0x3F800000 fullRow, envOf (topp 65 0x3F800000 fullRow), runs_envOf (by decide), by decide +kernel⟩
  · exact ⟨topp 255 0x3F7FFFFF fullRow, envOf (topp 255 0x3F7FFFFF fullRow), runs_envOf (by decide), by decide +kernel⟩
  · exact ⟨topp 2 0x3F800000 fullRow, envOf (topp 2 0x3F800000 fullRow), runs_envOf (by decide), by decide +kernel⟩
  · exact ⟨topp 2 0x3C000000 fullRow, envOf (topp 2 0x3C000000 fullRow), runs_envOf (by decide), by decide +kernel⟩

/-- The first entry alone reaches 1/128 of the row. -/
theorem witness_SamplingIsByRace_cut :
    (fLt ((fullRow.keptWeights 2).take 1 |>.foldl fAdd 0) 0x3C000000 = false ∧ isNan ((fullRow.keptWeights 2).take 1 |>.foldl fAdd 0) = false) ∧
    ∃ (s : State) (e : Env) (t : State) (l : PassLatch), Runs s e ∧ s.latchKept e 127 [7] = .pass t l := by
  refine ⟨by decide +kernel, ?_⟩
  obtain ⟨t, l, h, -⟩ := pass_and (P := fun _ _ => true)
    (r := (topp 2 0x3C000000 fullRow).latchKept (envOf (topp 2 0x3C000000 fullRow)) 127 [7]) (by decide +kernel)
  exact ⟨_, _, t, l, runs_envOf (by decide), h⟩

/-- A request with s3 and s4, of a task that a step of a walk may have queued, while a chain is open as chain 255. -/
def chained (c : Chain) (a b : DWord) (w : Option WalkStep := none) : State :=
  let s := asking .nop fun x => withS 3 a (withS 4 b x)
  { s with chains := [(255, c)], grids := s.grids.map fun g => (g.1, { g.2 with walk := w }) }

/-- A chain of five slices and a window of four, whose slice 3 is given. -/
def chain4 (token : Bool) (owner : Nat) (phase : ChainPhase) (x : Slice) : Chain :=
  { token := token, n := 5, w := 4, tol := 0x3F800000, rbase := 0, rstride := 0, offsets := [0, 0, 0, 0], crec := 0, cq := 63, pgmax := 8
    pool := [0x2000], owner := owner, ownerQueue := 0, phase := phase, opened := 7, slices := [(3, x)] }

theorem witness_SliceRequestsAreChecked :
    (∃ (i : Instr) (s : State) (e : Env) (f : Fields), Asks s e ∧ onChainRow i = some (f, some true, true) ∧ (e.sA f).toNat = 256) ∧
    (∃ (i : Instr) (s : State) (e : Env) (f : Fields), Asks s e ∧ onChainRow i = some (f, none, true) ∧ (e.sA f).toNat = 255 ∧
      tget s.chains (e.sA f).toNat = none) ∧
    (∃ (i : Instr) (s : State) (e : Env) (f : Fields) (c : Chain), Asks s e ∧ onChainRow i = some (f, some true, true) ∧
      (e.sA f).toNat = 255 ∧ tget s.chains 255 = some c ∧ c.token = true ∧ c.owner ≠ e.x.task.uid) ∧
    (∃ (i : Instr) (s : State) (e : Env) (f : Fields), Asks s e ∧ onSliceRow i = some (f, some false, false) ∧ (e.sA f).toNat = 2 ^ 24) ∧
    (∃ (i : Instr) (s : State) (e : Env) (f : Fields), Asks s e ∧ onSliceRow i = some (f, some true, true) ∧
      (e.sA f).toNat = 2 ^ 24 - 1 ∧ tget s.chains ((e.sA f).toNat / 65536) = none) ∧
    (∃ (i : Instr) (s : State) (e : Env) (f : Fields) (c : Chain), Asks s e ∧ onSliceRow i = some (f, some true, true) ∧
      (e.sA f).toNat / 65536 = 255 ∧ tget s.chains 255 = some c ∧ c.token ≠ true) ∧
    ∃ (i : Instr) (s : State) (e : Env) (f : Fields) (c : Chain), Asks s e ∧ onSliceRow i = some (f, some true, true) ∧
      (e.sA f).toNat / 65536 = 255 ∧ tget s.chains 255 = some c ∧ c.token = true ∧ c.owner = e.x.task.uid ∧
      (e.sA f).toNat % 65536 = c.n :=
  ⟨⟨.slcAccept (fields 0 3 4), asking .nop (withS 3 256), envOf (asking .nop (withS 3 256)), _, asks_envOf (by decide), rfl, by decide⟩,
    ⟨.slcWait (fields 0 3 4), asking .nop (withS 3 255), envOf (asking .nop (withS 3 255)), _, asks_envOf (by decide), rfl, by decide⟩,
    ⟨.slcAccept (fields 0 3 4), chained (chain4 true 2 .fine {}) 255 0, envOf (chained (chain4 true 2 .fine {}) 255 0), _, _,
      asks_envOf (by decide), rfl, by decide, rfl, by decide⟩,
    ⟨.slcStart (fields 0 3 4), asking .nop (withS 3 0x1000000), envOf (asking .nop (withS 3 0x1000000)), _, asks_envOf (by decide), rfl,
      by decide⟩,
    ⟨.slcPage (fields 0 3 4), asking .nop (withS 3 0xFFFFFF), envOf (asking .nop (withS 3 0xFFFFFF)), _, asks_envOf (by decide), rfl,
      by decide⟩,
    ⟨.slcPage (fields 0 3 4), chained (chain4 false 1 .fine {}) 0xFF0004 0, envOf (chained (chain4 false 1 .fine {}) 0xFF0004 0), _, _,
      asks_envOf (by decide), rfl, by decide, rfl, by decide⟩,
    .slcPage (fields 0 3 4), chained (chain4 true 1 .fine {}) 0xFF0005 0, envOf (chained (chain4 true 1 .fine {}) 0xFF0005 0), _, _,
      asks_envOf (by decide), rfl, by decide, rfl, by decide⟩

/-- A slice that is settled and whose last record its owner has read. -/
def settled3 : Slice := { state := .settled, gen := 2 }

/-- Slice 3 of chain 255 meets what a statement asks: a chain of a rule in a phase, its slice, the slice after it, and the walk step of
the task that asks. -/
theorem witness_SliceRequestsArePerformed (token : Bool) (p : ChainPhase) (x y : Slice) (w : Option WalkStep) (b : DWord)
    (h : (token = false ∧ p = .hold ∧ x = { settled3 with frec := some ⟨8, 1, 2, 3, 2, false, true⟩ } ∧ y = {} ∧ w = none ∧ b = 3) ∨
      (token = false ∧ p = .walk 2 (some 2) ∧ x = { state := .provisional, gen := 65535 } ∧ y = {} ∧ w = some ⟨255, 2, 7, 0⟩ ∧ b = 0) ∨
      (token = false ∧ p = .walk 2 (some 2) ∧ x = { state := .provisional, gen := 1, part := some 1 } ∧ y = {} ∧ w = none ∧
        b = 0xFF800001) ∨
      (token = false ∧ p = .fine ∧ x = settled3 ∧ y = {} ∧ w = some ⟨255, 2, 7, 0⟩ ∧ b = 0) ∨
      (token = false ∧ p = .complete ∧ x = settled3 ∧ y = settled3 ∧ w = none ∧ b = 0) ∨
      (token = true ∧ p = .fine ∧ x = { state := .provisional, pages := [0, 1, 2] } ∧ y = {} ∧ w = none ∧ b = 7) ∨
      (token = true ∧ p = .fine ∧ x = { state := .provisional, pages := [0, 1, 2, 3] } ∧ y = {} ∧ w = none ∧ b = 7) ∨
      (token = true ∧ p = .fine ∧ x = { state := .provisional } ∧ y = {} ∧ w = none ∧ b = 8)) :
    ∃ (s : State) (e : Env) (c : Chain), Asks s e ∧ (e.sA (fields 0 3 4)).toNat = 65536 * 255 + 3 ∧ e.sB (fields 0 3 4) = b ∧ 3 < c.n ∧
      c.n ≤ 65535 ∧ tget s.chains 255 = some c ∧ c.token = token ∧ c.phase = p ∧ c.owner = e.x.task.uid ∧ c.slice 3 = x ∧
      c.slice 4 = y ∧ c.opened = 7 ∧ s.coarseStep e = w ∧ ¬staleTask s e 255 := by
  let c : Chain := { chain4 token 1 p x with slices := tset [(3, x)] 4 y }
  refine ⟨chained c 0xFF0003 b w, envOf (chained c 0xFF0003 b w), c, ?_⟩
  rcases h with ⟨rfl, rfl, rfl, rfl, rfl, rfl⟩ | ⟨rfl, rfl, rfl, rfl, rfl, rfl⟩ | ⟨rfl, rfl, rfl, rfl, rfl, rfl⟩ | ⟨rfl, rfl, rfl, rfl, rfl, rfl⟩ |
    ⟨rfl, rfl, rfl, rfl, rfl, rfl⟩ | ⟨rfl, rfl, rfl, rfl, rfl, rfl⟩ | ⟨rfl, rfl, rfl, rfl, rfl, rfl⟩ | ⟨rfl, rfl, rfl, rfl, rfl, rfl⟩ <;>
  exact ⟨asks_envOf (by decide), by decide, by decide, by decide, by decide, by decide, by decide, by decide, by decide, by decide,
    by decide, by decide, by decide, fun ⟨v, hv, _, h⟩ => by cases hv <;> exact h _ rfl rfl⟩

/-- A chain whose slice 0 may be recycled: it is retired, and slice 4 may take its context. -/
theorem witness_SliceRequestsArePerformed_recycle : ∃ (s : State) (e : Env) (c : Chain), Asks s e ∧
    (e.sA (fields 0 3 4)).toNat = 65536 * 255 + 0 ∧ tget s.chains 255 = some c ∧ c.token = true ∧ c.owner = e.x.task.uid ∧
    (c.slice 0).state = .retired ∧ (c.slice 0).passed = false ∧ 0 + c.w < c.n :=
  let c : Chain := { chain4 true 1 .fine {} with slices := [(0, { state := .retired })] }
  ⟨chained c 0xFF0000 0, envOf (chained c 0xFF0000 0), c, asks_envOf (by decide), by decide⟩

/-- A descriptor of a chain at 0x2040: rule 0, four slices and a window of two, or one of rule 1 with its page pool at a given place. -/
def descAt (rule : Byte) (pool : List Byte) : State :=
  let s := chained (chain4 true 1 .fine {}) 0x2040 0
  { s with mem := { s.mem with bytes := writeBytes (writeBytes (writeBytes s.mem.bytes 0x2040 [5, 0, rule, 0, 4, 0, 0, 0, 2])
    0x206C [if rule = 1 then 64 else 0]) 0x2070 pool } }

/-- A read of a descriptor, of which a check holds. -/
def reads64 (s : State) (P : State → ChainDesc → Bool) : Bool :=
  (dataOf (s.readBlocking (envOf s) 0x2040 64)).any fun q => P q.1 (chainDesc q.2)

theorem reads64_of {s : State} {P : State → ChainDesc → Bool} (h : reads64 s P = true) (hs : asks s = true)
    (ha : (envOf s).sA (fields 0 3 4) = 0x2040) :
    ∃ (e : Env) (t : State) (bs : List Byte), Asks s e ∧ e.sA (fields 0 3 4) = 0x2040 ∧
      s.readBlocking e (e.sA (fields 0 3 4)) 64 = .data t bs ∧ P t (chainDesc bs) = true := by
  obtain ⟨t, bs, h, hp⟩ := data_and (P := fun t bs => P t (chainDesc bs)) h
  exact ⟨envOf s, t, bs, asks_envOf hs, ha, by rw [ha]; exact h, hp⟩

/-- The page pool of a descriptor can be reached, or cannot. -/
def poolIs (ok : Bool) (s t : State) (d : ChainDesc) : Bool :=
  d.ok && (tget t.chains d.chain).isNone && decide (d.w ≤ t.freeSlices) && (t.poolWords (envOf s) d).toBool == ok

theorem witness_ChainRequestsArePerformed_open :
    (∃ (s : State) (e : Env), Asks s e ∧ (e.sA (fields 0 3 4)).toNat % 64 ≠ 0) ∧
    (∃ (s : State) (e : Env) (t : State) (bs : List Byte), Asks s e ∧ e.sA (fields 0 3 4) = 0x2040 ∧
      s.readBlocking e (e.sA (fields 0 3 4)) 64 = .data t bs ∧ (chainDesc bs).ok = false) ∧
    (∃ (s : State) (e : Env) (t : State) (bs : List Byte), Asks s e ∧ e.sA (fields 0 3 4) = 0x2040 ∧
      s.readBlocking e (e.sA (fields 0 3 4)) 64 = .data t bs ∧ poolIs true s t (chainDesc bs) = true ∧ (chainDesc bs).rule = 0) ∧
    (∃ (s : State) (e : Env) (t : State) (bs : List Byte), Asks s e ∧ e.sA (fields 0 3 4) = 0x2040 ∧
      s.readBlocking e (e.sA (fields 0 3 4)) 64 = .data t bs ∧ poolIs true s t (chainDesc bs) = true ∧ (chainDesc bs).rule = 1) ∧
    ∃ (s : State) (e : Env) (t : State) (bs : List Byte), Asks s e ∧ e.sA (fields 0 3 4) = 0x2040 ∧
      s.readBlocking e (e.sA (fields 0 3 4)) 64 = .data t bs ∧ poolIs false s t (chainDesc bs) = true := by
  refine ⟨⟨chained (chain4 true 1 .fine {}) 0x2041 0, envOf (chained (chain4 true 1 .fine {}) 0x2041 0), asks_envOf (by decide), by decide⟩,
    ?_, ?_, ?_, ?_⟩
  · obtain ⟨e, t, bs, h, ha, hr, hp⟩ := reads64_of (s := descAt 2 []) (P := fun _ d => !d.ok) (by decide +kernel) (by decide)
      (by decide +kernel)
    exact ⟨_, e, t, bs, h, ha, hr, by simpa using hp⟩
  · obtain ⟨e, t, bs, h, ha, hr, hp⟩ := reads64_of (s := descAt 0 []) (P := fun t d => poolIs true (descAt 0 []) t d && decide (d.rule = 0))
      (by decide +kernel) (by decide) (by decide +kernel)
    rw [Bool.and_eq_true, decide_eq_true_eq] at hp
    exact ⟨_, e, t, bs, h, ha, hr, hp⟩
  · obtain ⟨e, t, bs, h, ha, hr, hp⟩ := reads64_of (s := descAt 1 [0, 0x30])
      (P := fun t d => poolIs true (descAt 1 [0, 0x30]) t d && decide (d.rule = 1)) (by decide +kernel) (by decide) (by decide +kernel)
    rw [Bool.and_eq_true, decide_eq_true_eq] at hp
    exact ⟨_, e, t, bs, h, ha, hr, hp⟩
  · obtain ⟨e, t, bs, h, ha, hr, hp⟩ := reads64_of (s := descAt 1 [0, 0, 0, 0, 0, 0, 1])
      (P := fun t d => poolIs false (descAt 1 [0, 0, 0, 0, 0, 0, 1]) t d) (by decide +kernel) (by decide) (by decide +kernel)
    exact ⟨_, e, t, bs, h, ha, hr, hp⟩

/-- Chain 255 meets what a statement asks: its rule, its phase, whether its owner has news, slice 3, the walk step of the task and s4. -/
theorem witness_ChainRequestsArePerformed_chain (token : Bool) (p : ChainPhase) (x : Slice) (w : Option WalkStep) (b : DWord)
    (h : (token = false ∧ p = .walk 2 (some 2) ∧ x = {} ∧ w = some ⟨255, 2, 7, 0⟩ ∧ b = 0) ∨
      (token = false ∧ p = .walk 2 (some 2) ∧ x = {} ∧ w = some ⟨255, 2, 6, 0⟩ ∧ b = 0) ∨
      (token = false ∧ p = .fine ∧ x = {} ∧ w = none ∧ b = 0) ∨
      (token = false ∧ p = .hold ∧ x = {} ∧ w = none ∧ b = 0) ∨
      (token = false ∧ p = .complete ∧ x = { settled3 with frec := some ⟨8, 1, 2, 3, 2, false, false⟩ } ∧ w = none ∧ b = 0) ∨
      (token = true ∧ p = .complete ∧ x = {} ∧ w = none ∧ b = 0)) :
    ∃ (s : State) (e : Env) (c : Chain), Asks s e ∧ (e.sA (fields 0 3 4)).toNat = 255 ∧ e.sB (fields 0 3 4) = b ∧
      tget s.chains 255 = some c ∧ c.token = token ∧ c.phase = p ∧ c.owner = e.x.task.uid ∧ c.slice 3 = x ∧ c.opened = 7 ∧
      s.coarseStep e = w ∧ c.undelivered = if x.frec.isSome then some 3 else none := by
  refine ⟨chained (chain4 token 1 p x) 255 b w, envOf (chained (chain4 token 1 p x) 255 b w), chain4 token 1 p x, ?_⟩
  rcases h with ⟨rfl, rfl, rfl, rfl, rfl⟩ | ⟨rfl, rfl, rfl, rfl, rfl⟩ | ⟨rfl, rfl, rfl, rfl, rfl⟩ | ⟨rfl, rfl, rfl, rfl, rfl⟩ |
    ⟨rfl, rfl, rfl, rfl, rfl⟩ | ⟨rfl, rfl, rfl, rfl, rfl⟩ <;>
  exact ⟨asks_envOf (by decide), by decide⟩

/-- Verdicts on the last two positions of a chain: accept both, accept and stop, accept and reject, or accept only one. -/
theorem witness_ChainRequestsArePerformed_verdicts (k : Nat) (b : DWord)
    (h : (k = 2 ∧ b = 5) ∨ (k = 2 ∧ b = 13) ∨ (k = 1 ∧ b = 9) ∨ (k = 1 ∧ b = 1) ∨ (k = 0 ∧ b = 0)) :
    ∃ (s : State) (e : Env) (c : Chain), Asks s e ∧ (e.sA (fields 0 3 4)).toNat = 255 ∧ tget s.chains 255 = some c ∧ c.token = true ∧
      c.phase ≠ .complete ∧ c.owner = e.x.task.uid ∧ c.cairn + k ≤ c.n ∧ k ≤ 32 ∧
      let v (i : Nat) : Nat := (e.sB (fields 0 3 4)).toNat / 4 ^ i % 4
      (∀ i, i < k → (v i = 1 ∨ (v i = 3 ∧ i + 1 = k)) ∧ (c.slice (c.cairn + i)).live = true) ∧
      ((1 ≤ k ∧ v (k - 1) = 3) ∨ (k < 32 ∧ c.cairn + k < c.n ∧ v k = 2) ∨ c.cairn + k = c.n ∨ v k = 0) := by
  let c : Chain := { chain4 true 1 .fine {} with cairn := 3, slices := [(3, { state := .provisional }), (4, { state := .provisional })] }
  refine ⟨chained c 255 b, envOf (chained c 255 b), c, ?_⟩
  rcases h with ⟨rfl, rfl⟩ | ⟨rfl, rfl⟩ | ⟨rfl, rfl⟩ | ⟨rfl, rfl⟩ | ⟨rfl, rfl⟩ <;> exact ⟨asks_envOf (by decide), by decide⟩

/-- What a held request may find. -/
theorem witness_ChainRequestsArePerformed_held :
    (∃ (s : State) (r : Held) (t : Nat), tget s.chains r.chain = none ∧ r.wait = false ∧ tget s.chainLog r.chain = some t ∧
      s.bornOf r.task ≤ t) ∧
    (∃ (s : State) (r : Held) (c : Chain), tget s.chains r.chain = some c ∧ r.wait = true ∧ c.news = false ∧ c.phase ≠ .complete) ∧
    (∃ (s : State) (r : Held) (c : Chain), tget s.chains r.chain = some c ∧ r.wait = false ∧ c.phase = .complete) ∧
    (∃ (s : State) (r : Held) (c : Chain) (x : Slice), tget s.chains r.chain = some c ∧ r.wait = false ∧ c.phase ≠ .complete ∧
      tget c.slices 3 = some x ∧ c.claimable x = true ∧ ∀ k y, tget c.slices k = some y → k < 3 → c.claimable y = false) ∧
    ∃ (s : State) (pa : Nat), pa % 8 = 0 ∧ pa + 8 ≤ Config.windowBase ∧ (s.mem.line (lineOf pa)).own = none :=
  let task : Task := (sums.ctx 0 0).task
  ⟨⟨{ sums with chainLog := [(255, 9)] }, ⟨0, 0, task, 255, false⟩, 9, by decide⟩,
    ⟨chained (chain4 true 1 .fine {}) 0 0, ⟨0, 0, task, 255, true⟩, _, rfl, by decide⟩,
    ⟨chained (chain4 true 1 .complete {}) 0 0, ⟨0, 0, task, 255, false⟩, _, rfl, by decide⟩,
    ⟨chained (chain4 true 1 .fine { state := .provisional, due := true }) 0 0, ⟨0, 0, task, 255, false⟩, _, _, rfl, rfl, by decide, rfl,
      by decide, fun k y h hk => by
        simp [chain4, tget] at h; omega⟩,
    sums, 0x2038, by decide⟩

/-! #### Requests, phases, streams, tiles and windows -/

/-- A request whose bundle has issued, with its answer. -/
def answeredAs (a : Answer) : State := sums.modBundle 0 0 fun b => { b with answers := [(0, a)] }

theorem witness_RequestsUseTheirAnswers (a : Answer) (h : a = .value 9 ∨ a = .refused 0x05 none ∨ a = .waiting) :
    ∃ (i : Instr) (s : State) (e : Env) (y : Option Ctx) (as : List EndAct), Runs s e ∧ answeredRow e 9 i = some (y, as) ∧
      tget e.b.answers e.p.pos = some a := by
  rcases h with rfl | rfl | rfl
  · exact ⟨.erIdle (fields 0 3 0), answeredAs (.value 9), envOf (answeredAs (.value 9)), _, _, runs_envOf (by decide), rfl, by decide⟩
  · exact ⟨.budget (fields 31 3 0), answeredAs (.refused 5 none), envOf (answeredAs (.refused 5 none)), _, _, runs_envOf (by decide), rfl,
      by decide⟩
  · exact ⟨.slcStart (fields 0 3 4), answeredAs .waiting, envOf (answeredAs .waiting), _, _, runs_envOf (by decide), rfl, by decide⟩

/-- A request with s3 and s4, and the heap, the tail launch of its grid, TBUDGET. -/
def dispatched (a : DWord) (heap : List HeapEntry) (tail : Option DWord) (tokens : BitVec 32) : State :=
  let s := asking .nop fun x => withS 3 a { x with ctl := { x.ctl with tbudget := tokens } }
  { s with heap := heap, grids := s.grids.map fun g => (g.1, { g.2 with tail := tail }) }

theorem witness_DispatcherRequests (heap : List HeapEntry) (tail : Option DWord) (tokens : BitVec 32)
    (h : (heap = [] ∧ tail = none ∧ tokens = 0) ∨ (heap = [⟨1, 2, 3⟩] ∧ tail = some 128 ∧ tokens = 2) ∨
      (heap = [⟨1, 2, 3⟩] ∧ tail = none ∧ tokens = 3)) :
    ∃ (s : State) (e : Env) (g : Grid), Asks s e ∧ e.sA (fields 5 3 4) = 0x2080 ∧ tget s.grids e.x.task.grid = some g ∧ g.tail = tail ∧
      s.heap = heap ∧ e.b.latch.ctl.tbudget = tokens ∧ 3 < e.x.task.hdr.nbar ∧ 5 ≤ e.x.task.hdr.level := by
  refine ⟨dispatched 0x2080 heap tail tokens, envOf (dispatched 0x2080 heap tail tokens),
    (tget (dispatched 0x2080 heap tail tokens).grids 2).getD ⟨0, (sums.ctx 0 0).task.record, [], 0, none, 0, false, 0, 0, 0, none, 0, 0, 0⟩, ?_⟩
  rcases h with ⟨rfl, rfl, rfl⟩ | ⟨rfl, rfl, rfl⟩ | ⟨rfl, rfl, rfl⟩ <;> exact ⟨asks_envOf (by decide), by decide⟩

theorem witness_DispatcherRequests_refused :
    (∃ (s : State) (e : Env), Asks s e ∧ (e.sA (fields 0 3 0)).toNat % 128 ≠ 0) ∧
    (∃ (s : State) (e : Env), Asks s e ∧ e.x.task.hdr.nbar ≤ (fields 0 31 0).a.toNat) ∧
    ∃ (s : State) (e : Env), Asks s e ∧ 4096 ≤ s.heap.length :=
  ⟨⟨dispatched 0x2081 [] none 0, envOf (dispatched 0x2081 [] none 0), asks_envOf (by decide), by decide⟩,
    ⟨dispatched 0 [] none 0, envOf (dispatched 0 [] none 0), asks_envOf (by decide), by decide⟩,
    dispatched 0 (List.replicate 4096 ⟨1, 2, 3⟩) none 0, envOf (dispatched 0 (List.replicate 4096 ⟨1, 2, 3⟩) none 0), asks_envOf (by decide),
    (List.length_replicate (n := 4096) (a := (⟨1, 2, 3⟩ : HeapEntry))).ge⟩

/-- A task of the checkpoint job that asks with s3 and s4, and the unit's open step and copy. -/
def ckptAt (job : BitVec 32) (opened : Option DWord) (copy : Option CkptCopy) : State :=
  let s := asking .nop fun x => withS 3 9 { x with task := { x.task with record := { x.task.record with jobtag := job } } }
  { s with ckpt := { s.ckpt with cfg := { s.ckpt.cfg with ckjob := 7 }, opened := opened, copy := copy, last := 8 } }

theorem witness_CheckpointAndEdgeRequests_steps (job : BitVec 32) (opened : Option DWord) (copy : Option CkptCopy)
    (h : (job = 0 ∧ opened = none ∧ copy = none) ∨ (job = 7 ∧ opened = none ∧ copy = none) ∨ (job = 7 ∧ opened = some 9 ∧ copy = none) ∨
      (job = 7 ∧ opened = none ∧ copy = some ⟨8, 0, {}, 0, 1, 0⟩)) :
    ∃ (s : State) (e : Env), Asks s e ∧ e.x.task.record.jobtag = job ∧ s.ckpt.cfg.ckjob = 7 ∧ s.ckpt.opened = opened ∧ s.ckpt.copy = copy ∧
      e.sA (fields 5 3 0) = 9 ∧ s.ckpt.last + 1 = 9 := by
  refine ⟨ckptAt job opened copy, envOf (ckptAt job opened copy), ?_⟩
  rcases h with ⟨rfl, rfl, rfl⟩ | ⟨rfl, rfl, rfl⟩ | ⟨rfl, rfl, rfl⟩ | ⟨rfl, rfl, rfl⟩ <;> exact ⟨asks_envOf (by decide), by decide⟩

/-- A task of role 1 in a gang of slot 1, or of none, and the edge entries of its core. -/
def edgesAt (slot : Option Nat) (a b : DWord) (edges : SMap DWord) : State :=
  let s := asking .nop fun x => withS 3 a (withS 4 b { x with
    task := { x.task with gslot := slot, mates := [1, 1, 1, 1], hdr := { x.task.hdr with role := 1 } } })
  s.modCore 0 fun k => { k with edges := edges }

theorem witness_CheckpointAndEdgeRequests_edges :
    (∃ (s : State) (e : Env), Asks s e ∧ edgeValid (e.sB (fields 0 3 4)) = true ∧
      edgeA (e.sB (fields 0 3 4)) = edgeB (e.sB (fields 0 3 4))) ∧
    (∃ (s : State) (e : Env), Asks s e ∧ edgeValid (e.sB (fields 0 3 4)) = false ∧ (s.core e.n).gangHeld 1 = false) ∧
    (∃ (s : State) (e : Env), Asks s e ∧ e.x.task.gslot = some 0 ∧ (e.sA (fields 0 3 4)).toNat % 64 / 32 = 1 ∧
      (s.core e.n).gangHeld 0 = true ∧ edgeValid (e.sB (fields 0 3 4)) = false) ∧
    (∃ (s : State) (e : Env), Asks s e ∧ e.x.task.gslot = some 1 ∧ (e.sA (fields 0 3 4)).toNat % 64 / 32 = 1 ∧
      (s.core e.n).gangHeld 1 = true ∧ edgeValid (e.sB (fields 0 3 4)) = true ∧
      edgeIncident (e.sB (fields 0 3 4)) e.x.task.hdr.role = true ∧ edgePoints (e.sB (fields 0 3 4)) ≠ e.x.task.hdr.role ∧
      edgeA (e.sB (fields 0 3 4)) ≠ 0 ∧ edgeB (e.sB (fields 0 3 4)) ≠ 0 ∧ (e.sB (fields 0 3 4)).toNat / 2 ^ 16 % 2 ^ 47 = 0 ∧
      (e.sB (fields 0 3 4)).toNat / 2 ^ 9 % 8 = 0) ∧
    ∃ (s : State) (e : Env), Asks s e ∧ e.x.task.gslot = none :=
  ⟨⟨edgesAt none 0 0x8000000000005000 [], envOf (edgesAt none 0 0x8000000000005000 []), asks_envOf (by decide), by decide⟩,
    ⟨edgesAt none 63 0 [], envOf (edgesAt none 63 0 []), asks_envOf (by decide), by decide⟩,
    ⟨edgesAt (some 0) 63 0 [], envOf (edgesAt (some 0) 63 0 []), asks_envOf (by decide), by decide⟩,
    ⟨edgesAt (some 1) 32 0x8000000000006100 [], envOf (edgesAt (some 1) 32 0x8000000000006100 []), asks_envOf (by decide), by decide⟩,
    edgesAt none 0 0 [], envOf (edgesAt none 0 0 []), asks_envOf (by decide), by decide⟩

/-- A descriptor or a record of 32 or 40 bytes at 0x2020, with a loop that may be active. -/
def recordAt (bs : List Byte) (loop : Bool) (stage : Stage := .issued) : State :=
  let s := stateAt stage 0 [.nop, .nop] fun x => withS 3 0x2020 { x with
    loops := { x.loops with state := if loop then [(0, { active := true })] else [] } }
  { s with mem := { s.mem with bytes := writeBytes s.mem.bytes 0x2020 bs } }

/-- One that a request reads. -/
def askedAt (bs : List Byte) (loop : Bool) : State := recordAt bs loop .asking

/-- A descriptor of a swap: 256 bytes from 0x3000 to the offset 0x100, or an illegal one. -/
def descOf (bs : List Byte) : InputDesc := ⟨BitVec.ofNat 64 (fieldAt bs 0 8), fieldAt bs 8 4, fieldAt bs 12 4⟩

/-- What the copy of a swap finds: its runs and its destination. -/
def swapIs (s t : State) (bs : List Byte) : Bool :=
  let d := descOf bs
  decide (d.dst % 256 = 0 ∧ d.len % 256 = 0 ∧ d.dst + d.len ≤ (envOf s).x.task.hdr.scratch ∧ fieldAt bs 16 16 = 0 ∧ d.len = 256) &&
    match t.copyRuns 0 (envOf s).px d.src d.len with
    | .ok (u, _) => decide ((u.core 0).foreignRange (envOf s).x [((envOf s).x.task.spBase + d.dst, d.len)] = none) &&
        !(u.core 0).rangesBusy [] [((envOf s).x.task.spBase + d.dst, d.len)]
    | .error _ => false

/-- The bytes of a legal descriptor. -/
def swapBytes : List Byte := [0, 0x30, 0, 0, 0, 0, 0, 0, 0, 1, 0, 0, 0, 1]

theorem witness_PhasesAndShapes_asks (loop : Bool) (h : loop = true ∨ loop = false) :
    (∃ (s : State) (e : Env) (t : State) (bs : List Byte), Asks s e ∧ e.sA (fields 5 3 0) = 0x2020 ∧
      s.readBlocking e (e.sA (fields 5 3 0)) 40 = .data t bs ∧ e.x.loops.state.any (·.2.active) = loop) ∧
    (∃ (s : State) (e : Env) (t : State) (bs : List Byte), Asks s e ∧ e.sA (fields 5 3 0) = 0x2020 ∧
      s.readBlocking e (e.sA (fields 5 3 0)) 32 = .data t bs ∧ if loop then swapIs s t bs = true else (descOf bs).dst % 256 ≠ 0) ∧
    ∃ (s : State) (e : Env), Asks s e ∧ (e.sA (fields 5 3 0)).toNat % 32 ≠ 0 ∧ (e.sA (fields 5 3 0)).toNat % 8 ≠ 0 := by
  refine ⟨?_, ?_, asking .nop (withS 3 0x2021), envOf (asking .nop (withS 3 0x2021)), asks_envOf (by decide), by decide⟩
  · obtain ⟨t, bs, hr, -⟩ := data_and (r := (askedAt [] loop).readBlocking (envOf (askedAt [] loop)) 0x2020 40)
      (P := fun _ _ => true) (by rcases h with rfl | rfl <;> decide +kernel)
    rcases h with rfl | rfl
    · exact ⟨askedAt [] true, envOf (askedAt [] true), t, bs, asks_envOf (by decide), by decide, hr, by decide⟩
    · exact ⟨askedAt [] false, envOf (askedAt [] false), t, bs, asks_envOf (by decide), by decide, hr, by decide⟩
  · rcases h with rfl | rfl
    · obtain ⟨t, bs, hr, hp⟩ := data_and (r := (askedAt swapBytes false).readBlocking (envOf (askedAt swapBytes false)) 0x2020 32)
        (P := fun t bs => swapIs (askedAt swapBytes false) t bs) (by decide +kernel)
      exact ⟨askedAt swapBytes false, envOf (askedAt swapBytes false), t, bs, asks_envOf (by decide), by decide, hr, by simpa using hp⟩
    · obtain ⟨t, bs, hr, hp⟩ := data_and (r := (askedAt [0, 0, 0, 0, 0, 0, 0, 0, 1] false).readBlocking
          (envOf (askedAt [0, 0, 0, 0, 0, 0, 0, 0, 1] false)) 0x2020 32)
        (P := fun _ bs => decide ((descOf bs).dst % 256 ≠ 0)) (by decide +kernel)
      exact ⟨askedAt [0, 0, 0, 0, 0, 0, 0, 0, 1] false, envOf (askedAt [0, 0, 0, 0, 0, 0, 0, 0, 1] false), t, bs, asks_envOf (by decide),
        by decide, hr, by simpa using hp⟩

theorem witness_PhasesAndShapes (prot : Bool) (a : Answer) (h : a = .words [1, 2, 3, 4, 0] ∨ a = .copy 0x3000 0 256 [(none, 0x3000, 256)] ∨
    a = .refused 5 none) :
    ∃ (s : State) (e : Env), Runs s e ∧ tget e.b.answers e.p.pos = some a ∧ e.x.task.record.prot = prot ∧ e.x.landed = true := by
  let s (prot : Bool) (a : Answer) : State := (answeredAs a).modCtx 0 0 fun x =>
    { x with task := { x.task with record := { x.task.record with prot := prot } } }
  refine ⟨s prot a, envOf (s prot a), ?_⟩
  cases prot <;> rcases h with rfl | rfl | rfl <;> exact ⟨runs_envOf (by decide), by decide, by decide, by decide⟩

theorem witness_PhasesAndShapes_leaves :
    (∃ (s : State) (n c : Nat) (x : Ctx), s.ctx? n c = some x ∧ (s.core n).outq.all (·.placed) = true ∧
      ∀ b, (s.mem.line (lineOf b)).own = none ∧ tget (s.core n).l1 (lineOf b) = none) ∧
    ∃ (s : State) (n : Nat) (job : BitVec 32) (x : Notice), tget s.board.notices job.toNat = some x ∧ n ∉ x.applied ∧
      (s.core n).runsJob job = true :=
  ⟨⟨sums, 0, 0, sums.ctx 0 0, by decide +kernel, by decide +kernel, fun _ => ⟨rfl, rfl⟩⟩,
    { ckptAt 7 none none with board := { (ckptAt 7 none none).board with notices := [(7, ⟨7, 0, 0, [], [], []⟩)] } }, 0, 7,
    ⟨7, 0, 0, [], [], []⟩, by decide +kernel⟩

/-- A legal descriptor of a ring of two BF16 tiles, one of a bad size, or one beyond the scratchpad of its task. -/
def streamBytes (size base : Byte) : List Byte := [0, 0, base, base, 0, size, 0, 0, 0, 0, 0, 0, 0, 0x40]

theorem witness_StreamRegisters_stset (size base : Byte) (h : (size = 0x80 ∧ base = 0) ∨ (size = 0x10 ∧ base = 0) ∨ (size = 0x80 ∧ base = 0xFF)) :
    ∃ (s : State) (e : Env) (t : State) (bs : List Byte), Runs s e ∧ (e.sA (fields 7 3 0)).toNat % 32 = 0 ∧
      (s.core e.n).streamBusy e.x 7 = false ∧ s.readBlocking e (e.sA (fields 7 3 0)) 32 = .data t bs ∧
      fieldAt bs 4 4 = 256 * size.toNat ∧ fieldAt bs 0 4 = (65536 + 16777216) * base.toNat ∧ fieldAt bs 16 16 = 0 ∧ fieldAt bs 12 4 = 16384 := by
  have hk : (envOf (recordAt (streamBytes size base) false)).sA (fields 7 3 0) = 0x2020 := by
    rcases h with ⟨rfl, rfl⟩ | ⟨rfl, rfl⟩ | ⟨rfl, rfl⟩ <;> decide +kernel
  obtain ⟨t, bs, hr, hp⟩ := data_and (r := (recordAt (streamBytes size base) false).readBlocking
    (envOf (recordAt (streamBytes size base) false)) 0x2020 32) (P := fun _ bs => decide (fieldAt bs 4 4 = 256 * size.toNat ∧
      fieldAt bs 0 4 = (65536 + 16777216) * base.toNat ∧ fieldAt bs 16 16 = 0 ∧ fieldAt bs 12 4 = 16384))
    (by rcases h with ⟨rfl, rfl⟩ | ⟨rfl, rfl⟩ | ⟨rfl, rfl⟩ <;> decide +kernel)
  exact ⟨recordAt (streamBytes size base) false, envOf (recordAt (streamBytes size base) false), t, bs,
    runs_envOf (by rcases h with ⟨rfl, rfl⟩ | ⟨rfl, rfl⟩ | ⟨rfl, rfl⟩ <;> decide +kernel),
    by rw [hk]; decide,
    by rcases h with ⟨rfl, rfl⟩ | ⟨rfl, rfl⟩ | ⟨rfl, rfl⟩ <;> decide +kernel, by rw [hk]; exact hr, of_decide_eq_true hp⟩

theorem witness_StreamRegisters_radv :
    (∃ (s : State) (e : Env), Runs s e ∧ let x := e.x.stream s.clock 6
      (e.sA (fields 6 3 0)).toNat = 2 ∧ x.fill = 0 ∧ x.cnt + 2 = x.size.toNat / 16384 ∧ x.size ≠ 0) ∧
    (∃ (s : State) (e : Env), Runs s e ∧ (e.sA (fields 6 3 0)).toNat = 257) ∧
    (∃ (s : State) (e : Env), Runs s e ∧ let x := e.x.stream s.clock 0
      (e.sA (fields 0 3 0)).toNat = x.cnt ∧ x.cnt ≤ 256 ∧ x.fill = 0 ∧ x.claims = [] ∧ x.size ≠ 0) ∧
    ∃ (s : State) (e : Env), Runs s e ∧ let x := e.x.stream s.clock 0
      (e.sA (fields 0 3 0)).toNat = 1 ∧ x.fill = 0 ∧ (∃ c ∈ x.claims.head?, c.2 = false) ∧ x.claims.length + 1 = x.cnt ∧ x.size ≠ 0 ∧
        x.head.toNat < x.size.toNat :=
  let held (x : Ctx) : Ctx := { x with units := { x.units with st := [(0, { ring 0 2 0 with claims := [(9, false)] })] } }
  ⟨⟨onT 2 0, envOf (onT 2 0), runs_envOf (by decide), by decide⟩, ⟨onT 257 0, envOf (onT 257 0), runs_envOf (by decide), by decide⟩,
    ⟨onT 2 0, envOf (onT 2 0), runs_envOf (by decide), by decide⟩,
    onT 1 0 held, envOf (onT 1 0 held), runs_envOf (by decide), by decide⟩

/-- A stream write that an earlier bundle issued is pending, or none is. -/
theorem witness_StreamRegisters_stget (pending : Bool) : ∃ (s : State) (e : Env), Runs s e ∧
    (e.x.pend.any fun w => match w.dest with | .st i _ => i = 6 && decide (w.due < e.x.count + 8) | _ => false) = pending := by
  let s (pending : Bool) : State := onT 0 0 fun x => { x with
    pend := if pending then [{ due := x.count + 3, dest := .st 6 (ring 0 2 0) }] else [{ due := x.count + 8, dest := .st 6 (ring 0 2 0) }] }
  refine ⟨s pending, envOf (s pending), ?_⟩
  cases pending <;> exact ⟨runs_envOf (by decide), by decide +kernel⟩

/-- The runs of the rows of a tile load or store, of which a check holds. -/
def tilesGo (s : State) (i : Instr) : Bool :=
  match tileRow (envOf s) i with
  | some (f, load, g) =>
    let x := (envOf s).x.stream s.clock f.d.toNat
    let w := g x
    let at_ (k : Nat) : BitVec 32 := if load then x.ahead x.tail k else x.ahead x.head (x.claims.length + k)
    let ts := (List.range w.n).map fun k => x.tileAt (envOf s).x.task f.d.toNat (at_ k)
    let ranges := ts.flatMap Tile.ranges
    w.misaligned.isNone && (if load then decide (x.cnt + w.n ≤ x.slots) else decide (x.claims.length + w.n ≤ x.cnt)) &&
      match s.rowRuns 0 (envOf s).px (if load then .load else .store) ((w.rows ts).map fun r => (r.va, r.len)) with
      | .ok (t, _) => decide ((t.core 0).foreignRange (envOf s).x ranges = none) && !(t.core 0).rangesBusy [] ranges &&
          ranges.all fun r => !(t.core 0).asyncWritesAt r.1 r.2
      | .error _ => false
  | none => false

/-- A store whose source tile another operation still writes. -/
theorem witness_TilesMove_waits : ∃ (s : State) (e : Env), Runs s e ∧
    (e.x.stream s.clock 0).claims.length < (e.x.stream s.clock 0).cnt ∧
    let ranges := ((e.x.stream s.clock 0).tileAt e.x.task 0 (e.x.stream s.clock 0).head).ranges
    (s.core e.n).foreignRange e.x ranges = none ∧ (ranges.find? fun r => (s.core e.n).asyncWritesAt r.1 r.2).isSome = true :=
  let base (s : State) : Nat := (((envOf s).x.stream s.clock 0).tileAt (envOf s).x.task 0 ((envOf s).x.stream s.clock 0).head).base
  let s : State := (onT 0x3000 128).modCore 0 fun k => { k with
    async := [{ id := 9, uid := 1, ctx := 0, load := true, writes := [(base (onT 0x3000 128), 128)] }] }
  ⟨s, envOf s, runs_envOf (by decide), by decide +kernel⟩

theorem witness_TilesMove :
    (∃ (s : State) (e : Env), Runs s e ∧ tilesGo s (.gld (fields 6 1 4)) = true ∧ e = envOf s) ∧
    (∃ (s : State) (e : Env), Runs s e ∧ tilesGo s (.gst (fields 0 1 4)) = true ∧ e = envOf s) ∧
    (∃ (s : State) (e : Env) (g : Stream → TileAccess) (a : DWord), Runs s e ∧ tileRow e (.tld (fields 6 3 4)) = some (fields 6 3 4, true, g) ∧
      (g (e.x.stream s.clock 6)).misaligned = some a) ∧
    (∃ (s : State) (e : Env) (g : Stream → TileAccess), Runs s e ∧ tileRow e (.tld (fields 0 3 4)) = some (fields 0 3 4, true, g) ∧
      (g (e.x.stream s.clock 0)).misaligned = none ∧ (e.x.stream s.clock 0).slots < (e.x.stream s.clock 0).cnt + (g (e.x.stream s.clock 0)).n ∧
      (e.x.stream s.clock 0).claims = []) ∧
    (∃ (s : State) (e : Env) (g : Stream → TileAccess), Runs s e ∧ tileRow e (.tst (fields 6 3 4)) = some (fields 6 3 4, false, g) ∧
      (g (e.x.stream s.clock 6)).misaligned = none ∧
      (e.x.stream s.clock 6).cnt < (e.x.stream s.clock 6).claims.length + (g (e.x.stream s.clock 6)).n) ∧
    (∃ rows : List RowRef, rows.length = 2 ∧ (∀ r ∈ rows, r.packed = true → r.len = 96) ∧ apart rows) ∧
    ∃ (s : State) (n : Nat) (ws : List (Nat × List Byte)), (∀ l, (s.mem.line l).own = none ∧ tget (s.core n).l1 l = none) ∧
      (s.core n).outq.all (·.placed) = true ∧ ws ≠ [] ∧ ∀ w ∈ ws, w.1 + w.2.length ≤ Config.windowBase :=
  let oneLane (x : Ctx) : Ctx := { x with ctl := { x.ctl with emask := 1 } }
  ⟨⟨onT 0x3000 0x3000 oneLane, envOf (onT 0x3000 0x3000 oneLane), runs_envOf (by decide), by decide +kernel, rfl⟩,
    ⟨onT 0x3000 0x3000 oneLane, envOf (onT 0x3000 0x3000 oneLane), runs_envOf (by decide), by decide +kernel, rfl⟩,
    ⟨onT 0x3001 128, envOf (onT 0x3001 128), _, 0x3001, runs_envOf (by decide), rfl, by decide +kernel⟩,
    ⟨onT 0x3000 128, envOf (onT 0x3000 128), _, runs_envOf (by decide), rfl, by decide +kernel⟩,
    ⟨onT 0x3000 128, envOf (onT 0x3000 128), _, runs_envOf (by decide), rfl, by decide +kernel⟩,
    ⟨[⟨128, 0x3000, 96, true⟩, ⟨0, 0x3080, 32, false⟩], rfl, by decide, by simp [apart, rowWidth]⟩,
    sums, 0, [(0x3000, [1])], fun _ => ⟨rfl, rfl⟩, by decide +kernel, by decide, by decide⟩

/-- A slot whose task has a window 3 of one page at scratchpad page 2. -/
def windowAt (a b : DWord) : State := issued .nop fun x => withS 3 a (withS 4 b { x with
  windows := [(3, { gbase := 0x30000, spg := 2, npg := 1, pages := [(0x30000, true)], lines := [(0, (0, 0))] })] })

theorem witness_StashWindows :
    (∃ (s : State) (e : Env), Runs s e ∧ (e.sB (fields 5 3 4)).toNat / 65536 % 256 = 65) ∧
    (∃ (s : State) (e : Env), Runs s e ∧ (e.sB (fields 5 3 4)).toNat = 65536 + 63 ∧ (e.sA (fields 5 3 4)).toNat % 65536 ≠ 0) ∧
    (∃ (s : State) (e : Env), Runs s e ∧ (e.sB (fields 5 3 4)).toNat = 65536 + 2 ∧ (e.sA (fields 5 3 4)).toNat % 65536 = 0 ∧
      ∃ w ∈ e.x.windows, w.2.spg = 2) ∧
    (∃ (s : State) (e : Env), Runs s e ∧ (e.sB (fields 5 3 4)).toNat = 65536 + 3 ∧ (e.sA (fields 5 3 4)).toNat = 0x40000 ∧
      65536 * 4 ≤ e.x.task.spSize ∧ e.x.windows.length < 4 ∧ (s.windowPages e.n e.x.task.queue e.b.latch.ctl.priv 0x40000 1).toBool = true) ∧
    (∃ (s : State) (e : Env), Runs s e ∧ tget e.x.windows (e.sA (fields 0 3 0)).toNat = none) ∧
    (∃ (s : State) (e : Env) (w : Window), Runs s e ∧ tget e.x.windows (e.sA (fields 0 3 0)).toNat = some w) ∧
    ∃ (s : State) (l m j i : Nat) (x : Ctx) (w : Window), (s.mem.line l).own = some m ∧ (s.core m).stashOf l = some (x, j, w, i) :=
  ⟨⟨windowAt 0 0x410000, envOf (windowAt 0 0x410000), runs_envOf (by decide), by decide⟩,
    ⟨windowAt 1 0x1003F, envOf (windowAt 1 0x1003F), runs_envOf (by decide), by decide⟩,
    ⟨windowAt 0x50000 0x10002, envOf (windowAt 0x50000 0x10002), runs_envOf (by decide), by decide⟩,
    ⟨windowAt 0x40000 0x10003, envOf (windowAt 0x40000 0x10003), runs_envOf (by decide), by decide +kernel⟩,
    ⟨windowAt 2 0, envOf (windowAt 2 0), runs_envOf (by decide), by decide⟩,
    ⟨windowAt 3 0, envOf (windowAt 3 0), _, runs_envOf (by decide), rfl⟩,
    { windowAt 3 0 with mem := { (windowAt 3 0).mem with lines := [(0xC00, { own := some 0 })] } }, 0xC00, 0, 3, 0, (windowAt 3 0).ctx 0 0, _,
    by decide +kernel, rfl⟩

/-! #### What the package does by itself -/

/-- The lone task between two bundles, with a STATUS and with what an event brings. Its DMR is 0 (log 10). -/
def lone (i : Input) (g : Ctx → Ctx := id) (st : BitVec 7 := 0) : State := 
  { (State.reset.placed st []).modCtx 0 0 (fun x => g { x with ctl := { x.ctl with dmr := 0 } }) with input := i }

theorem witness_EventsGoOn :
    (∃ i : Instr, isEvent i = true ∧ namesBytes i = false) ∧ (∃ (i : Instr) (s : State), isEvent i = true ∧ needsNone i = false ∧ s.input = .none) ∧
    (∃ (s : State) (node : Option Nat) (a : Nat) (bs : List Byte), s.input = .hostRmaWrite node a bs ∧ a + bs.length = Config.memBytes) ∧
    (∃ (s : State) (a len : Nat), s.input = .hostRmaRead a len ∧ Config.memBytes < a + len) ∧
    (∃ (s : State) (node a len : Nat), s.input = .remoteAccessArrival node (.load a len) ∧ Config.memBytes < a + len) ∧
    (∃ (s : State) (node : Nat) (ps : List (Nat × List Byte)), s.input = .remoteAccessArrival node (.store ps) ∧ ps ≠ []) ∧
    ∃ (s : State) (node : Nat) (op : AmoOp) (md : Bool) (a : Nat) (b cmp : DWord),
      s.input = .remoteAccessArrival node (.atomic op md a b cmp) ∧ a + Amo.bytes ⟨op, md, b, cmp⟩ = Config.memBytes :=
  ⟨⟨.thermalThreshold, by decide⟩, ⟨.hostRmaWrite, State.reset, by decide⟩,
    ⟨lone (.hostRmaWrite (some 3) 767999999999 [1]), some 3, 767999999999, [1], by decide⟩, ⟨lone (.hostRmaRead 767999999999 2), 767999999999, 2, by decide⟩,
    ⟨lone (.remoteAccessArrival 3 (.load 767999999999 2)), 3, 767999999999, 2, by decide⟩,
    ⟨lone (.remoteAccessArrival 3 (.store [(767999999999, [1])])), 3, [(767999999999, [1])], by decide, by decide⟩,
    lone (.remoteAccessArrival 3 (.atomic .add false 767999999992 1 0)), 3, .add, false, 767999999992, 1, 0, by decide⟩

/-- A record of zeros whose CRC holds, or not. -/
def recordBytes (good : Bool) : List Byte := List.replicate 124 0 ++ if good then [0x64, 0xD3, 0x1B, 0xD7] else [0, 0, 0, 0]

theorem crc_31 : (List.replicate 31 (0 : Byte)).foldl crcByte 0xFFFFFFFF = 0xE12C83B4 ∧
    (List.replicate 31 (0 : Byte)).foldl crcByte 0xE12C83B4 = 0x68834CCE ∧
    (List.replicate 31 (0 : Byte)).foldl crcByte 0x68834CCE = 0xC48773D2 ∧
    (List.replicate 31 (0 : Byte)).foldl crcByte 0xC48773D2 = 0x28E42C9B := by decide +kernel

theorem crc_zeros : crc32c (List.replicate 124 0) = 0xD71BD364 := by
  have h : List.replicate 124 (0 : Byte) = List.replicate 31 0 ++ List.replicate 31 0 ++ List.replicate 31 0 ++ List.replicate 31 0 := by
    decide +kernel
  rw [crc32c, h, List.foldl_append, List.foldl_append, List.foldl_append, crc_31.1, crc_31.2.1, crc_31.2.2.1, crc_31.2.2.2]
  decide

theorem crcOk_recordBytes (good : Bool) : crcOk (recordBytes good) = good := by
  have h : (recordBytes good).take 124 = List.replicate 124 0 := by cases good <;> decide +kernel
  rw [crcOk, h, crc_zeros]
  cases good <;> decide +kernel

/-- Queue 63 with what an event brings, its window holding a record. -/
def queueAt (i : Input) (x : Queue) (bs : List Byte := recordBytes true) : State :=
  { State.reset with
    queues := mset {} [] 63 x
    mem := { State.reset.mem with bytes := writeBytes [] 0x40003F0000 bs }
    gtime := 200000, input := i }

/-- The CRC of the record in slot 0. -/
theorem slot_crc (good : Bool) (s : State) (h : s.slotBytes 63 0 = recordBytes good := by decide +kernel) :
    crcOk (s.slotBytes 63 0) = good := h ▸ crcOk_recordBytes good

theorem witness_QueueEvents :
    (∃ s : State, s.canonical ∧ s.input = .queueEnable 63 ∧ (s.queue 63).items = [] ∧ (s.queue 63).waiting = none) ∧
    (∃ s : State, s.canonical ∧ s.input = .queueDisable 63 ∧ (s.queue 63).enable = true ∧ (s.queue 63).items = []) ∧
    (∃ s : State, s.canonical ∧ s.input = .queueSetQsize 63 256 ∧ (s.queue 63).items = [] ∧ (256 : Nat) ∈ [16, 32, 64, 128, 256]) ∧
    (∃ (s : State) (c : QueueCfg), s.canonical ∧ s.input = .queueSettings 63 c ∧ c.timeoutNs = 10000000 ∧ c.troot % 2097152 = 0 ∧
      c.troot < Config.memBytes) ∧
    (∃ (s : State) (t : Nat), s.canonical ∧ s.input = .recordTimeout 63 ∧ (s.queue 63).timer = some t ∧
      t + (s.queue 63).cfg.timeoutNs = s.gtime.toNat) ∧
    (∃ (s : State) (t : Nat), s.canonical ∧ s.input = .recordTimeout 63 ∧ (s.queue 63).timer = some t ∧
      t + (s.queue 63).cfg.timeoutNs = s.gtime.toNat + 1) ∧
    (∃ s : State, s.canonical ∧ s.input = .onChipRingRefill 63 ∧ (s.queue 63).items = [.inWindow 0] ∧ (s.queue 63).onChip < 16 ∧
      fieldAt (s.slotBytes 63 0) 120 4 = 0 ∧ crcOk (s.slotBytes 63 0) = true) ∧
    ∃ s : State, s.canonical ∧ s.input = .onChipRingRefill 63 ∧ (s.queue 63).items = [.inWindow 0] ∧ (s.queue 63).onChip < 16 ∧
      crcOk (s.slotBytes 63 0) = false :=
  ⟨⟨queueAt (.queueEnable 63) {}, by unfold State.canonical; decide +kernel⟩, ⟨queueAt (.queueDisable 63) { enable := true }, by unfold State.canonical; decide +kernel⟩,
    ⟨queueAt (.queueSetQsize 63 256) {}, by unfold State.canonical; decide +kernel⟩,
    ⟨queueAt (.queueSettings 63 ⟨1, 0, 10000000, none, 2097152⟩) {}, _, by unfold State.canonical; decide +kernel, rfl, by decide +kernel⟩,
    ⟨queueAt (.recordTimeout 63) { timer := some 100000 }, 100000, by unfold State.canonical; decide +kernel⟩,
    ⟨queueAt (.recordTimeout 63) { timer := some 100001 }, 100001, by unfold State.canonical; decide +kernel⟩,
    ⟨queueAt (.onChipRingRefill 63) { items := [.inWindow 0] }, by unfold State.canonical; decide +kernel, rfl, rfl, by decide +kernel, by decide +kernel, slot_crc true _⟩,
    queueAt (.onChipRingRefill 63) { items := [.inWindow 0] } (recordBytes false), by unfold State.canonical; decide +kernel, rfl, rfl, by decide +kernel, slot_crc false _⟩

theorem witness_QueueEvents_monitor :
    (∃ s : State, s.canonical ∧ (s.queue 63).enable = true ∧ fieldAt (s.slotBytes 63 (s.queue 63).expected) 120 4 = (s.queue 63).expected.toNat ∧
      crcOk (s.slotBytes 63 (s.queue 63).expected) = true ∧ (s.queue 63).onChip = 15 ∧ (s.queue 63).hasHeld = false) ∧
    (∃ s : State, s.canonical ∧ (s.queue 63).enable = true ∧ fieldAt (s.slotBytes 63 (s.queue 63).expected) 120 4 = (s.queue 63).expected.toNat ∧
      crcOk (s.slotBytes 63 (s.queue 63).expected) = true ∧ (s.queue 63).onChip = 16) ∧
    (∃ s : State, s.canonical ∧ (s.queue 63).enable = true ∧ fieldAt (s.slotBytes 63 (s.queue 63).expected) 120 4 = (s.queue 63).expected.toNat ∧
      crcOk (s.slotBytes 63 (s.queue 63).expected) = false ∧ (s.queue 63).timer = none) ∧
    (∃ s : State, s.canonical ∧ (s.queue 63).enable = true ∧ fieldAt (s.slotBytes 63 (s.queue 63).expected) 120 4 ≠ (s.queue 63).expected.toNat) ∧
    ∃ s : State, s.canonical ∧ (∀ l, (s.mem.line l).own = none) ∧ s.ckpt.copy = none :=
  ⟨⟨queueAt .none { enable := true, items := List.replicate 15 (.onChip []) }, by unfold State.canonical; decide +kernel, rfl, by decide +kernel, slot_crc true _, by decide +kernel, by decide +kernel⟩,
    ⟨queueAt .none { enable := true, items := List.replicate 16 (.onChip []) }, by unfold State.canonical; decide +kernel, rfl, by decide +kernel, slot_crc true _, by decide +kernel⟩,
    ⟨queueAt .none { enable := true } (recordBytes false), by unfold State.canonical; decide +kernel, rfl, by decide +kernel, slot_crc false _, rfl⟩,
    ⟨queueAt .none { enable := true, expected := 16 }, by unfold State.canonical; decide +kernel⟩,
    queueAt .none {}, by unfold State.canonical; decide +kernel, fun _ => rfl, rfl⟩

/-- A launch record: KIND, flags, GRID, KADDR. -/
def launchBytes (kind flags grid : Byte) (kaddr : Nat) : List Byte :=
  [kind, 0, flags, 0, grid, 0, 0, 0] ++ natLe 8 kaddr ++ List.replicate 112 0

/-- The head of queue 0 is a record, and a legal header stands at 0x4000. -/
def headAt (bs : List Byte) (heap : List HeapEntry) : State :=
  { State.reset with
    queues := mset {} [] 0 { enable := true, cfg := ⟨1, 0, 100000, none, rootAt⟩, items := [.onChip bs] }
    mem := { State.reset.mem with
      bytes := writeBytes (writeBytes (writeBytes [] 0x4000 [0, 0x10, 0, 0, 0, 0, 0, 0, 5]) 0x4014 [1]) rootAt [0x1E] }
    heap := heap }

/-- No queue but queue 0 has anything for the dispatcher. -/
theorem others_idle (bs : List Byte) (heap : List HeapEntry) (p : Nat) (h : p ≠ 0) : idleQueue ((headAt bs heap).queue p) := by
  have : (headAt bs heap).queue p = {} := by
    cases p with
    | zero => exact absurd rfl h
    | succ p => rfl
  rw [this]
  exact ⟨rfl, Or.inr rfl⟩

theorem witness_DispatcherEvents_head (bs : List Byte) (heap : List HeapEntry)
    (h : (bs = launchBytes 3 0 0 0 ∧ heap = []) ∨ (bs = launchBytes 1 0 0 0 ∧ heap = []) ∨
      (bs = launchBytes 0 0 1 0x4000 ∧ heap = [])) :
    ∃ s : State, s.served < 64 ∧ (∀ p, p < 64 → p ≠ 0 → idleQueue (s.queue p)) ∧ (s.queue 0).waiting = none ∧ (s.queue 0).running = none ∧
      (s.queue 0).tail = none ∧ (s.queue 0).items = [.onChip bs] ∧ s.heap = heap ∧
      (recordOk bs = decide ((parseRecord bs).kind ≠ 3)) ∧ (parseRecord bs).notify = false := by
  refine ⟨headAt bs heap, by simp [headAt, State.reset], fun p _ hp => others_idle bs heap p hp, rfl, rfl, rfl, rfl, rfl, ?_⟩
  rcases h with ⟨rfl, rfl⟩ | ⟨rfl, rfl⟩ | ⟨rfl, rfl⟩ <;> decide +kernel

/-- A full heap. -/
theorem witness_DispatcherEvents_full : ∃ s : State, s.heap.length = 4096 ∧ (s.queue 0).items = [.onChip (launchBytes 1 1 0 0)] ∧
    recordOk (launchBytes 1 1 0 0) = true ∧ (parseRecord (launchBytes 1 1 0 0)).kind = 1 :=
  ⟨headAt (launchBytes 1 1 0 0) (List.replicate 4096 ⟨1, 2, 3⟩), List.length_replicate, rfl, by decide +kernel⟩

/-- The head of a queue is a grid that is taken. -/
theorem witness_DispatcherEvents_grid : ∃ (w t : State) (r : Record) (hs : List Header) (h : Head),
    w = (used (headAt (launchBytes 0 0 1 0x4000) [])).setQueue 0 { (headAt (launchBytes 0 0 1 0x4000) []).queue 0 with items := [] } ∧
    w.checkHead 0 h = (t, .grid r hs) ∧ (t.takeGrid 0 h r hs).2 = true ∧ r.kind ≠ 1 := by
  let s := headAt (launchBytes 0 0 1 0x4000) []
  let w := (used s).setQueue 0 { s.queue 0 with items := [] }
  let h : Head := { bytes := launchBytes 0 0 1 0x4000, seq := 0 }
  have k : (match w.checkHead 0 h with
    | (t, .grid r hs) => (t.takeGrid 0 h r hs).2 && decide (r.kind ≠ 1)
    | _ => false) = true := by decide +kernel
  split at k
  · rename_i t r hs hc
    rw [Bool.and_eq_true, decide_eq_true_eq] at k
    exact ⟨w, t, r, hs, h, rfl, hc, k.1, k.2⟩
  · cases k

/-- A grid of one kernel that waits at the head of queue 0, of `n` instances. -/
def waitingGrid (n : Nat) (i : Input) (placed : Nat := 0) : State :=
  let s := headAt [] []
  { s with
    queues := mset {} s.queues 0 { s.queue 0 with items := [], running := some 5, waiting := some 5 }
    grids := [(5, { queue := 0, record := { grid := n }, hdrs := [{ code := 0x1000, ctx := 1 }], seq := 0, placed := placed })]
    input := i }

theorem witness_DispatcherEvents_place :
    (∃ s t : State, s.input = .placementRetry 0 ∧ (s.queue 0).waiting = some 5 ∧ s.served < 64 ∧
      (∀ p, p < 64 → (p + 63 - s.served) % 64 < (0 + 63 - s.served) % 64 → ¬mayServe (used s) p) ∧ (used s).tryPlace 5 = .some t) ∧
    (∃ s : State, s.input = .placementRetry 0 ∧ (s.queue 0).waiting = some 5 ∧ (used s).tryPlace 5 = .none) ∧
    ∃ (s : State) (g : Grid) (h : Header) (cores : List Nat), tget s.grids 5 = some g ∧ g.hdrs = [h] ∧
      (searchOrder cores g.from_).find? (fun m => (s.core m).canPlace 5 g) = some 143 ∧ ∀ l, (s.mem.line l).own = none := by
  refine ⟨?_, ⟨{ waitingGrid 1 (.placementRetry 0) with grids := [] }, rfl, rfl, rfl⟩,
    waitingGrid 1 .none, _, _, [143], rfl, rfl, by decide +kernel, fun _ => rfl⟩
  have k : (match (used (waitingGrid 1 (.placementRetry 0))).tryPlace 5 with | .some _ => true | _ => false) = true := by decide +kernel
  split at k
  · rename_i t ht
    refine ⟨waitingGrid 1 (.placementRetry 0), t, rfl, rfl, by decide, fun p _ hp => ?_, ht⟩
    have hq : (used (waitingGrid 1 (.placementRetry 0))).queue p = {} := by
      cases p with
      | zero => exact absurd hp (by decide)
      | succ p => rfl
    simp [mayServe, hq, Queue.takeHead]
  · cases k

/-- The lone task has ended, and its grid has another. -/
def endedTask (st : Nat) : State :=
  let s := lone (.contextFree 0 0) fun x => { x with run := .ended, cnt := { x.cnt with st := st } }
  { s with grids := s.grids.map fun g => (g.1, { g.2 with live := 2 }) }

/-- A generation of a barrier of the lone task's grid. -/
def barred (level : Nat) (arrived : List Nat) (sent : Bool) (peers : Nat) : State :=
  { lone (.barrierRelease 2 level (domainOf level 0) 3) with
    barriers := [⟨2, level, domainOf level 0, 3, arrived, peers, sent⟩] }

theorem witness_DispatcherEvents_ends :
    (∃ (s : State) (x : Ctx), s.input = .contextFree 0 0 ∧ s.ctx? 0 0 = some x ∧ x.run = .ended ∧ x.cnt.st = 1) ∧
    (∃ (s : State) (x : Ctx) (g : Grid), s.input = .contextFree 0 0 ∧ s.ctx? 0 0 = some x ∧ x.run = .ended ∧ x.cnt.st = 0 ∧ x.cnt.rm = 0 ∧
      x.cnt.as = 0 ∧ tget s.grids x.task.grid = some g ∧ g.live = 2) ∧
    (∀ l ∈ [1, 2, 3, 4, 5], ∃ (s : State) (b : Barrier), s.input = .barrierRelease 2 l (domainOf l 0) 3 ∧
      s.barriers.find? (fun b => b.is 2 l (domainOf l 0) 3) = some b ∧ b.arrived ≠ [] ∧ ∀ m ∈ s.members b.grid b.level b.dom, m ∈ b.arrived) ∧
    (∃ (s : State) (b : Barrier), s.barriers.find? (fun b => b.is 2 5 (domainOf 5 0) 3) = some b ∧ b.arrived = []) ∧
    (∃ (s : State) (b : Barrier), s.barriers.find? (fun b => b.is 2 5 (domainOf 5 0) 3) = some b ∧ b.sent = true ∧ b.peers = 1 ∧
      ∀ m ∈ s.members b.grid b.level b.dom, m ∈ b.arrived) ∧
    ∃ (s : State) (g : Nat × Grid), s.input = .barD5Exchange 3 7 3 ∧ (mget {} s.fabric.nodes 3).failed = false ∧
      s.grids.find? (fun g => g.2.record.jobtag = BitVec.ofNat 32 7 && BitVec.ofNat 32 7 != 0) = some g := by
  refine ⟨⟨endedTask 1, _, rfl, rfl, by decide +kernel⟩, ⟨endedTask 0, _, _, rfl, rfl, by decide +kernel, by decide +kernel, by decide +kernel, by decide +kernel, rfl, rfl⟩, ?_, ⟨barred 5 [] false 0, _, rfl, rfl⟩,
    ⟨barred 5 [1] true 1, _, rfl, rfl, rfl, by decide +kernel⟩, ?_⟩
  · intro l hl
    simp only [List.mem_cons, List.not_mem_nil, or_false] at hl
    rcases hl with rfl | rfl | rfl | rfl | rfl <;> exact ⟨barred _ [1] false 0, _, rfl, rfl, by decide, by decide +kernel⟩
  · exact ⟨{ lone (.barD5Exchange 3 7 3) with grids := (lone .none).grids.map fun g => (g.1, { g.2 with record := { g.2.record with jobtag := 7 } }) },
      _, rfl, rfl, rfl⟩

theorem witness_DispatcherEvents_goes_on :
    (∃ (s : State) (x : Ctx), s.ctx? 0 0 = some x ∧ s.input = .dispatchAnswer 0 0 ∧ x.run = .blocked .answer ∧
      x.bundle.all Bundle.answered = true) ∧
    (∃ (s : State) (x : Ctx), s.ctx? 0 0 = some x ∧ s.input = .edgeIdlePass 0 0 ∧ x.run = .edges 1 ∧ x.task.gslot = some 1 ∧
      (s.core 0).edgeReady 1 x.task.hdr.role = true) ∧
    (∃ (s : State) (c : Chain), s.input = .walkStart 255 ∧ tget s.chains 255 = some c ∧ c.phase = .walk 0 none ∧ c.nextStep 0 = none) ∧
    (∃ (s t : State) (c : Chain) (bs : List Byte), tget s.chains 255 = some c ∧ c.phase = .walk 0 none ∧ c.nextStep 0 = some 0 ∧
      (s.setChain 255 { c with phase := .walk 0 (some 0) }).readRecord c.ownerQueue c.crec 128 = (t, some bs) ∧
      (t.queue c.cq).enable = true) ∧
    ∃ (k : Core) (x : Ctx), x.task.gslot = some 1 ∧ k.deadRoles x.task.mates = [] := by
  refine ⟨⟨lone (.dispatchAnswer 0 0) fun x => { x with run := .blocked .answer }, _, rfl, rfl, rfl, rfl⟩,
    ⟨lone (.edgeIdlePass 0 0) fun x => { x with run := .edges 1, task := { x.task with gslot := some 1 } }, _, rfl, rfl, rfl, rfl,
      by decide +kernel⟩,
    ⟨{ lone (.walkStart 255) with chains := [(255, { chain4 false 1 (.walk 0 none) {} with slices := [] })] }, _, rfl, rfl, rfl,
      by decide +kernel⟩, ?_, {}, { task := { gslot := some 1 } }, rfl, rfl⟩
  let c : Chain := { chain4 false 1 (.walk 0 none) {} with
    slices := [(0, settled3), (1, { state := .provisional })], crec := 0x3000, cq := 0 }
  let s : State := { lone .none with
    chains := [(255, c)], queues := mset {} (lone .none).queues 0 { (lone .none).queue 0 with enable := true } }
  have k : (match (s.setChain 255 { c with phase := .walk 0 (some 0) }).readRecord 0 0x3000 128 with
    | (t, some _) => (t.queue 0).enable
    | _ => false) = true := by decide +kernel
  split at k
  · rename_i t bs ht
    exact ⟨s, t, c, bs, rfl, rfl, by decide +kernel, ht, k⟩
  · cases k

/-- What a bundle meets before it issues: a register that is absent, or an opcode that no table lists. -/
def meets (s : State) (miss : Bool) : Bool :=
  match (used s).begin 0 0 with
  | .miss _ _ => miss
  | .trap _ i => !miss && decide (i.cause = 0x02)
  | _ => false

/-- The lone task, about to issue a bundle of the given words. -/
def before (w : Word) (i : Input) (absent : Absent := {}) : State :=
  { (State.reset.placed 0 (bundleOf [w])).modCtx 0 0 (fun x => { x with absent := absent, ctl := { x.ctl with dmr := 0 } }) with input := i }

theorem witness_ContextEvents_ready :
    (∃ (s : State) (x : Ctx), s.ctx? 0 0 = some x ∧ s.input = .contextReady 0 0 ∧ s.mayWake 0 0 x = true) ∧
    (∃ (s : State) (x : Ctx), s.ctx? 0 0 = some x ∧ s.input = .contextReady 0 0 ∧ s.mayWake 0 0 x = false ∧ x.run = .ready) ∧
    (∃ (s : State) (x : Ctx), s.ctx? 0 0 = some x ∧ (s.core 0).running = none ∧ (s.core 0).nextReady = some 0) ∧
    (∃ (s : State) (x : Ctx), s.ctx? 0 0 = some x ∧ s.input = .legLimitReached 0 ∧ (s.core 0).running = some 0 ∧
      x.ctl.leglim.toNat % 2 ^ 32 = 5 ∧ x.leg.request = none ∧ x.leg.count = 5) ∧
    (∃ (s : State) (x : Ctx), s.ctx? 0 0 = some x ∧ s.input = .legLimitReached 0 ∧ (s.core 0).running = some 0 ∧
      x.ctl.leglim.toNat % 2 ^ 32 = 5 ∧ x.leg.count = 4) ∧
    (∃ (s : State) (x : Ctx), s.ctx? 0 0 = some x ∧ s.input = .energyQuotaExhausted 0 0 ∧ x.ctl.equota = 9 ∧ x.ctl.eused = 9 ∧
      x.leg.energy = false ∧ x.run ≠ .ended) ∧
    ∃ (s : State) (x : Ctx), s.ctx? 0 0 = some x ∧ x.oldestTrap = none ∧ s.input = .deferredTrap 0 0 :=
  ⟨⟨lone (.contextReady 0 0) fun x => { x with run := .edges 0 }, _, rfl, rfl, rfl⟩,
    ⟨lone (.contextReady 0 0), _, rfl, rfl, rfl, rfl⟩,
    ⟨(lone .none).modCore 0 fun k => { k with running := none }, _, rfl, rfl, by decide +kernel⟩,
    ⟨lone (.legLimitReached 0) fun x => { x with ctl := { x.ctl with leglim := 0x100000005 }, leg := { count := 5 } }, _, rfl, rfl, rfl,
      by decide +kernel, rfl, rfl⟩,
    ⟨lone (.legLimitReached 0) fun x => { x with ctl := { x.ctl with leglim := 0x100000005 }, leg := { count := 4 } }, _, rfl, rfl, rfl,
      by decide +kernel, rfl⟩,
    ⟨lone (.energyQuotaExhausted 0 0) fun x => { x with ctl := { x.ctl with equota := 9, eused := 9 } }, _, rfl, rfl, rfl, rfl, rfl,
      by decide +kernel⟩,
    lone (.deferredTrap 0 0), _, rfl, by decide +kernel, rfl⟩

/-- A request of the lone task is due, with or without another ready context, or a suspended task. -/
theorem witness_ContextEvents_grace (energy other waits : Bool) : ∃ (s : State) (x : Ctx), s.ctx? 0 0 = some x ∧ s.input = .graceExpiry 0 ∧
    (s.core 0).running = some 0 ∧ x.bundle = none ∧ x.buf.cancel = false ∧ x.graceOver = true ∧ x.oldestTrap = none ∧
    x.leg.energy = energy ∧ let r := ({ s with input := .none } : State).setCtx 0 0 { x with leg := {} }
      (r.core 0).otherReady 0 = other ∧ r.taskWaits 0 0 = waits := by
  let y : Ctx := (lone .none).ctx 0 0
  let s : State := (lone (.graceExpiry 0) fun x => { x with leg := { count := 5, request := some 5, energy := energy } }).modCore 0 fun k =>
    { k with
      ctxs := if other then tset k.ctxs 1 { y with task := { y.task with uid := 7 } } else k.ctxs
      suspended := if waits then [(8, { ctx := y, slot := 0 })] else [] }
  refine ⟨s, s.ctx 0 0, ?_⟩
  cases energy <;> cases other <;> cases waits <;> decide +kernel

theorem miss_of {s : State} (h : meets s true = true) : ∃ t a, (used s).begin 0 0 = .miss t a := by
  unfold meets at h
  cases hb : (used s).begin 0 0 <;> simp_all

theorem trap_of {s : State} (h : meets s false = true) : ∃ t i, (used s).begin 0 0 = .trap t i ∧ i.cause = 0x02 := by
  unfold meets at h
  cases hb : (used s).begin 0 0 <;> simp_all

theorem witness_ContextEvents_before :
    (∃ (s t : State) (x : Ctx) (a : Absent), s.ctx? 0 0 = some x ∧ s.input = .registerMissMicrotrap 0 0 ∧ (s.core 0).running = some 0 ∧
      x.buf.cancel = false ∧ x.boundaryStep = none ∧ x.bundle = none ∧ (used s).begin 0 0 = .miss t a) ∧
    (∀ miss : Bool, ∃ (s : State) (x : Ctx) (b : Bundle), s.ctx? 0 0 = some x ∧ s.input = .registerMissMicrotrap 0 0 ∧
      (s.core 0).running = some 0 ∧ x.buf.cancel = false ∧ x.boundaryStep = none ∧ x.bundle = some b ∧ x.lacks.none = !miss) ∧
    (∃ (s t : State) (x : Ctx) (i : TrapInfo), s.ctx? 0 0 = some x ∧ s.actor = .core 0 ∧ (s.core 0).running = some 0 ∧ x.bundle = none ∧
      x.buf.cancel = false ∧ x.boundaryStep = none ∧ (used s).begin 0 0 = .trap t i ∧ i.cause = 0x02) ∧
    (∃ (s : State) (x : Ctx) (a : DWord), s.ctx? 0 0 = some x ∧ s.input = .userEventDelivery 0 0 ∧ (s.core 0).running = some 0 ∧
      x.buf.cancel = false ∧ x.oldestTrap = none ∧ x.graceOver = false ∧ x.bundle = none ∧ x.pc = .at a ∧
      x.ctl.status.toNat / 16 % 8 = 2 ∧ x.cnt.fired.getLsbD 2 = true ∧ ∀ i, i < 2 → x.cnt.fired.getLsbD i = false) ∧
    (∃ (s : State) (x : Ctx), s.ctx? 0 0 = some x ∧ s.input = .deferredTrap 0 0 ∧ (s.core 0).running = none ∧ x.oldestTrap ≠ none) ∧
    (∀ cancels : Bool, ∃ (s : State) (x : Ctx) (a : DWord) (d : Deferred), s.ctx? 0 0 = some x ∧ s.input = .deferredTrap 0 0 ∧
      (s.core 0).running = some 0 ∧ x.buf.cancel = false ∧ x.bundle = none ∧ x.pc = .at a ∧ x.oldestTrap = some d ∧ d.cause = 0x13 ∧
      x.cancels = cancels) ∧
    ∃ (s : State) (x : Ctx) (p : Snapshot), s.ctx? 0 0 = some x ∧ s.input = .phaseCancel 0 0 ∧ x.buf.cancel = true ∧ x.cnt.as = 0 ∧
      x.buf.snap = some p := by
  refine ⟨?_, fun miss => ?_, ?_, ⟨lone (.userEventDelivery 0 0) (fun x => { x with cnt := { x.cnt with fired := 4 } }) 0x20, _,
      BitVec.ofNat 64 codeAt, rfl, rfl, rfl, rfl, by decide +kernel, by decide +kernel, rfl, rfl, by decide +kernel, by decide +kernel,
      by decide +kernel⟩,
    ⟨(lone (.deferredTrap 0 0) fun x => { x with deferred := [⟨9, 0x13, 0x3000, none⟩] }).modCore 0 fun k => { k with running := none }, _,
      rfl, rfl, rfl, by decide +kernel⟩, fun cancels => ?_,
    lone (.phaseCancel 0 0) fun x => { x with buf := { x.buf with cancel := true, snap := some {} } }, _, {}, rfl, rfl, rfl, rfl, rfl⟩
  · have k : meets (before 0x00202946 (.registerMissMicrotrap 0 0) { s := 0xFFFFFFFF }) true = true := by decide +kernel
    obtain ⟨t, a, h⟩ := miss_of k
    exact ⟨before 0x00202946 (.registerMissMicrotrap 0 0) { s := 0xFFFFFFFF }, t, _, a, rfl, rfl, rfl, rfl, by decide +kernel, rfl, h⟩
  · let s (miss : Bool) : State := (lone (.registerMissMicrotrap 0 0) fun x => { x with
      absent := if miss then { s := 8 } else {}
      bundle := some { addr := 0x1000, size := 4, slots := [⟨0, ⟨false, false, false, 0, .add (fields 5 3 4)⟩⟩] } })
    refine ⟨s miss, (s miss).ctx 0 0, { addr := 0x1000, size := 4, slots := [⟨0, ⟨false, false, false, 0, .add (fields 5 3 4)⟩⟩] }, ?_⟩
    cases miss <;> decide +kernel
  · have k : meets (before 0x03C00000 .none) false = true := by decide +kernel
    obtain ⟨t, i, h, hc⟩ := trap_of k
    exact ⟨before 0x03C00000 .none, t, _, i, rfl, rfl, rfl, rfl, rfl, by decide +kernel, h, hc⟩
  · let s := lone (.deferredTrap 0 0) fun x => { x with
      deferred := [⟨9, 0x13, 0x3000, none⟩], task := { x.task with record := { x.task.record with prot := cancels } } }
    refine ⟨s, s.ctx 0 0, BitVec.ofNat 64 codeAt, ⟨9, 0x13, 0x3000, none⟩, ?_⟩
    cases cancels <;> decide +kernel

/-- A suspended task of core 0, to which a quota may have been granted. -/
theorem witness_ContextEvents_suspended (quota : Bool) (grant : Option DWord) (h : grant = none ∨ grant = some 1000) :
    ∃ (s : State) (e : Suspended), tget (s.core 0).suspended 8 = some e ∧ e.quota = quota ∧ e.grant = grant ∧
      s.input = (if quota then .quotaGrant 0 8 1000 else .taskResumption 0 8) ∧ tget (s.core 0).ctxs e.slot = none ∧
      e.ctx.landed = true ∧ (quota = false → (used s).mayResume 0 e = true) ∧ ∀ o ∈ (s.core 0).outq, o.placed = true := by
  let e : Suspended := { ctx := (lone .none).ctx 0 0, slot := 7, quota := quota, grant := grant }
  refine ⟨(lone (if quota then .quotaGrant 0 8 1000 else .taskResumption 0 8)).modCore 0 fun k => { k with suspended := [(8, e)] }, e, ?_⟩
  cases quota <;> rcases h with rfl | rfl <;> decide +kernel

/-- The lone task is suspended; its save area is not a page of the shard. -/
theorem witness_ContextEvents_saves : ∃ (s : State) (x : Ctx), s.ctx? 0 0 = some x ∧ (s.core 0).running = some 0 ∧
    x.ctl.savebase.toNat % 2 ^ 22 = 0 ∧ (∀ b, b < 2 ^ 22 → s.ckpt.page (x.saveAt b) = none ∧ s.mem.missing (x.saveAt b) = false) ∧
    x.pend.length < 2 ^ 32 :=
  ⟨lone .none, _, rfl, rfl, by decide +kernel, fun b _ => ⟨by
    exact if_neg fun h => absurd h.2 (by have : (lone .none).ckpt.cfg.ckbase + (lone .none).ckpt.cfg.cklen = 0 := rfl; omega), rfl⟩,
    by decide +kernel⟩

theorem witness_ContextEvents_points : (∃ s : State, s.input = .opselSettleEnd 143 ∧ (s.core 143).oppt.getLsbD 6 = false) ∧
    ∃ s : State, s.input = .opselSettleEnd 143 ∧ (s.core 143).oppt.getLsbD 6 = true ∧ opptCap (s.core 143).oppt ≤ opptTgt (s.core 143).oppt :=
  ⟨⟨lone (.opselSettleEnd 143), by decide +kernel⟩,
    (lone (.opselSettleEnd 143)).modCore 143 fun k => { k with oppt := 0x3F8 ||| 0x40 }, by decide +kernel⟩

/-- The oldest access of core 0, placed or not. -/
def accessAt (i : Input) (amo : Option Amo) (placed : Bool) : State :=
  (lone i).modCore 0 fun k => { k with outq := [⟨9, 1, 0, [(0x2038, [1])], amo, placed⟩], ccyc := 256, ticks := 1 }

/-- An operation of core 0 beside the matrix engine. -/
def asyncAt (i : Input) (load copy : Bool) : State :=
  (lone i).modCore 0 fun k => { k with async := [{ id := 9, uid := 1, ctx := 0, load := load, copy := copy }] }

theorem witness_MemoryEvents_cores (amo : Option Amo) :
    (∃ (s : State) (a : Access), (s.core 0).outq = [a] ∧ a.placed = true ∧ a.amo = amo ∧ s.input = .storePerform 0) ∧
    (∃ (s : State) (a : Access), (s.core 0).outq = [a] ∧ a.placed = true ∧ a.amo = amo ∧ s.input = .atomicPerform 0) ∧
    (∃ s : State, s.input = .homeAccess 0 ∧ ∃ a ∈ (s.core 0).outq, a.placed = false) ∧
    (∃ s : State, s.input = .logicalTimeTick 0 ∧ (s.core 0).ticks + 1 = (s.core 0).ccyc.toNat / 128) ∧
    (∃ (s : State) (o : Async), s.input = .tileLoadComplete 0 9 [] ∧ (s.core 0).asyncOp 9 = some o ∧ o.load = true ∧ o.bad = []) ∧
    (∃ (s : State) (o : Async), s.input = .tileStorePerform 0 9 ∧ (s.core 0).asyncOp 9 = some o ∧ o.load = false ∧ o.copy = false) ∧
    (∃ (s : State) (o : Async), s.input = .bswapCopyComplete 0 9 ∧ (s.core 0).asyncOp 9 = some o ∧ o.copy = true ∧ s.copyOpen 9 = false) ∧
    ∃ (s : State) (o : Async) (x : Ctx), (s.core 0).async = [o] ∧ s.ctx? 0 0 = some x ∧ x.task.uid = o.uid ∧
      (∀ e ∈ (s.core 0).ctxs, e.2.task.uid = o.uid → e = (0, x)) ∧ ∀ e ∈ (s.core 0).suspended, e.2.ctx.task.uid ≠ o.uid := by
  refine ⟨⟨accessAt (.storePerform 0) amo true, _, rfl, rfl, rfl, rfl⟩, ⟨accessAt (.atomicPerform 0) amo true, _, rfl, rfl, rfl, rfl⟩,
    ⟨accessAt (.homeAccess 0) none false, rfl, by decide +kernel⟩, ⟨accessAt (.logicalTimeTick 0) none false, rfl, by decide +kernel⟩,
    ⟨asyncAt (.tileLoadComplete 0 9 []) true false, _, rfl, rfl, rfl, rfl⟩,
    ⟨asyncAt (.tileStorePerform 0 9) false false, _, rfl, rfl, rfl, rfl⟩,
    ⟨asyncAt (.bswapCopyComplete 0 9) false true, _, rfl, rfl, rfl, rfl⟩,
    asyncAt .none true false, _, (asyncAt .none true false).ctx 0 0, rfl, by decide +kernel, by decide +kernel, by decide +kernel,
    by decide +kernel⟩

/-- The lone task waits for data at 0x3000, from memory or from node 3. -/
def landingAt (i : Input) (remote : Bool) : State :=
  let s := lone i fun x => { x with pend := [{ due := 9, dest := .s 5 0, landing := some ⟨9, 0x3000, 0x1000, .unsigned, 8, .waiting, false⟩ }] }
  { s with fabric := { s.fabric with
    remotes := if remote then [(9, { core := 0, ctx := 0, uid := 1, node := 3, addr := 0x3000, len := 8, landing := some 9, counts := false, issued := 0 })]
      else [] } }

/-- A step of an access that arrives line by line: the last line that it writes, or the first of two that it reads. -/
theorem witness_MemoryEvents_lines :
    (∃ (s : State) (x : Arriving) (l : Nat) (ps : List (Nat × List Byte)), s.input = .remoteAccessLine 9 ∧
      tget s.fabric.arriving 9 = some x ∧ (∀ l, (s.mem.line l).own = none) ∧ s.ckpt.copy = none ∧ x.reads = [] ∧ x.data = none ∧
      x.writes = [(l, ps)] ∧ ps ≠ [] ∧
      ∀ p ∈ ps, lineOf p.1 = l ∧ p.1 % 64 + p.2.length ≤ 64 ∧ p.1 + p.2.length ≤ Config.windowBase) ∧
    ∃ (s : State) (x : Arriving), s.input = .remoteAccessLine 9 ∧ tget s.fabric.arriving 9 = some x ∧
      (∀ l, (s.mem.line l).own = none) ∧ s.ckpt.copy = none ∧ x.reads = [(0x3038, 8), (0x3040, 8)] ∧ x.writes = [] ∧ x.data = some [] :=
  let at_ (acc : RemoteAccess) : State := { lone (.remoteAccessLine 9) with
    fabric := { (lone .none).fabric with arriving := [(9, arrivingOf acc)] } }
  ⟨⟨at_ (.store [(0x303E, [1, 2])]), _, 0xC0, _, rfl, rfl, fun _ => rfl, rfl, rfl, rfl, rfl, by decide, by decide⟩,
    at_ (.load 0x3038 16), _, rfl, rfl, fun _ => rfl, rfl, by decide +kernel, rfl, rfl⟩

theorem witness_MemoryEvents_data :
    (∃ (s : State) (x : Ctx) (l : Landing), s.ctx? 0 0 = some x ∧ s.input = .loadDataArrival 0 0 0x3000 [] .good ∧
      s.fabric.remotes = [] ∧ s.localWait 0 x 0x3000 = some l) ∧
    (∃ (s : State) (x : Ctx), s.ctx? 0 0 = some x ∧ s.input = .loadDataArrival 0 0 0x3008 [] .uncorrectable ∧ s.fabric.remotes = [] ∧
      s.localWait 0 x 0x3008 = none) ∧
    (∃ (s : State) (id : Nat) (r : Remote), s.input = .loadDataArrival 0 0 0x3000 (List.replicate 8 1) .good ∧
      s.fabric.remotes.find? (fun r => r.2.core = 0 && r.2.ctx = 0 && r.2.addr.toNat = 0x3000 && !r.2.counts) = some (id, r) ∧ r.len = 8) ∧
    (∃ (s : State) (x y : Ctx) (w : Window), s.input = .stashFill 0 0 0x20040 ∧ s.ctx? 0 0 = some x ∧
      (s.core 0).windowAt x.task.spBase 0x20040 = some (y, 3, w) ∧ tget w.lines 1 = none) ∧
    (∃ (s : State) (h : HomeLine), s.input = .l2Eviction 5 ∧ tget s.mem.lines 5 = some h ∧ h.own = none) ∧
    (∃ (s : State) (v : DWord) (r : Remote), s.input = .remoteCompletion 9 v ∧ tget s.fabric.remotes 9 = some r ∧ r.counts = true ∧
      r.landing = some 9) ∧
    ∃ s : State, s.input = .tlbInvalidateComplete 63 0 4096 ∧ (63, 0, 4096) ∈ s.mem.invals ∧ s.queueQuiet 63 = true := by
  refine ⟨⟨landingAt (.loadDataArrival 0 0 0x3000 [] .good) false, _, _, rfl, rfl, rfl, rfl⟩,
    ⟨landingAt (.loadDataArrival 0 0 0x3008 [] .uncorrectable) false, _, rfl, rfl, rfl, rfl⟩,
    ⟨landingAt (.loadDataArrival 0 0 0x3000 (List.replicate 8 1) .good) true, _, _, rfl, rfl, rfl⟩, ?_,
    ⟨{ lone (.l2Eviction 5) with mem := { (lone .none).mem with lines := [(5, { r := 3 })] } }, _, rfl, rfl, rfl⟩, ?_, ?_⟩
  · let s : State := lone (.stashFill 0 0 0x20040) fun x => { x with windows := [(3, { gbase := 0x30000, spg := 2, npg := 1, pages := [(0x30000, true)] })] }
    exact ⟨s, s.ctx 0 0, s.ctx 0 0, _, rfl, by decide +kernel, rfl, rfl⟩
  · let s := landingAt (.remoteCompletion 9 5) true
    exact ⟨{ s with fabric := { s.fabric with remotes := s.fabric.remotes.map fun r => (r.1, { r.2 with counts := true }) } }, 5, _, rfl, rfl,
      rfl, rfl⟩
  · exact ⟨{ lone (.tlbInvalidateComplete 63 0 4096) with mem := { (lone .none).mem with invals := [(63, 0, 4096)] } }, rfl,
      by decide +kernel, by decide +kernel⟩

/-- Accesses from outside that reach the last bytes below the windows, or the last of memory. -/
theorem witness_MemoryEvents_outside :
    (∃ (s : State) (a : Nat) (bs : List Byte), (∀ l, (s.mem.line l).own = none) ∧ s.ckpt.copy = none ∧
      a + bs.length = Config.windowBase ∧ s.input = .hostRmaWrite none a bs) ∧
    (∀ failed : Bool, ∃ (s : State) (a : Nat) (bs : List Byte), (∀ l, (s.mem.line l).own = none) ∧ s.ckpt.copy = none ∧
      a + bs.length = Config.windowBase ∧ s.input = .remoteAccessArrival 3 (.store [(a, bs)]) ∧
      (mget {} s.fabric.nodes 3).failed = failed) ∧
    (∃ (s : State) (a len : Nat), (∀ l, (s.mem.line l).own = none) ∧ a + len = Config.memBytes ∧ s.input = .hostRmaRead a len) ∧
    (∃ (s : State) (a len : Nat), (∀ l, (s.mem.line l).own = none) ∧ a + len = Config.memBytes ∧
      s.input = .remoteAccessArrival 3 (.load a len) ∧ (mget {} s.fabric.nodes 3).failed = false) ∧
    (∃ (s : State) (a : Nat), (∀ l, (s.mem.line l).own = none) ∧ a + 8 = Config.windowBase ∧
      s.input = .remoteAccessArrival 3 (.atomic .max false a 1 0) ∧ (mget {} s.fabric.nodes 3).failed = false) ∧
    Config.windowBase ≤ Config.memBytes :=
  ⟨⟨lone (.hostRmaWrite none 0x3FFFFFFFFE [1, 2]), 0x3FFFFFFFFE, [1, 2], fun _ => rfl, rfl, by decide, rfl⟩,
    fun failed => ⟨{ lone (.remoteAccessArrival 3 (.store [(0x3FFFFFFFFE, [1, 2])])) with
      fabric := { (lone .none).fabric with nodes := [(3, { failed := failed })] } }, 0x3FFFFFFFFE, [1, 2], fun _ => rfl, rfl, by decide, rfl,
      rfl⟩,
    ⟨lone (.hostRmaRead 767999999998 2), 767999999998, 2, fun _ => rfl, by decide, rfl⟩,
    ⟨lone (.remoteAccessArrival 3 (.load 767999999998 2)), 767999999998, 2, fun _ => rfl, by decide, rfl, rfl⟩,
    ⟨lone (.remoteAccessArrival 3 (.atomic .max false 0x3FFFFFFFF8 1 0)), 0x3FFFFFFFF8, fun _ => rfl, by decide, rfl, rfl⟩, by decide⟩

/-- A remote store of the lone task to node 3, issued at 0, at a time. -/
def lateAt (time : DWord) : State :=
  let s := lone (.fabricTimeout 3)
  { s with
    gtime := time
    fabric := { s.fabric with
      remotes := [(9, { core := 0, ctx := 0, uid := 1, node := 3, addr := 0x3000, len := 8, landing := none, counts := true, issued := 0 })] } }

/-- The checkpoint unit copies image 1 of step 9 of a shard of two pages to node 3, with pages still to go, at a time. -/
def copyAt (i : Input) (left : PageSet) (time : DWord) : State :=
  let s := lone i
  { s with
    gtime := time
    fabric := { s.fabric with nodes := [(3, {})] }
    ckpt := { s.ckpt with
      cfg := { s.ckpt.cfg with cklen := 131072, buddy := 3 }
      copy := some { step := 9, image := 1, left := left, core := 0, uid := 1, issued := 0 } } }

theorem witness_ManagementEvents :
    (∃ (s : State) (r : Nat × Remote), s.input = .fabricTimeout 3 ∧ r ∈ s.fabric.remotes ∧ r.2.node = 3 ∧
      r.2.issued + s.fabric.ftimeout = s.gtime.toNat) ∧
    (∃ (s : State) (r : Nat × Remote), s.input = .fabricTimeout 3 ∧ s.fabric.remotes = [r] ∧ r.2.issued + s.fabric.ftimeout = s.gtime.toNat + 1) ∧
    (∃ (s : State) (r : Remote) (x : Ctx), s.ctx? r.core 0 = some x ∧ x.task.uid = r.uid ∧ r.counts = true ∧ r.landing = none) ∧
    (∃ s : State, s.input = .ftimeoutSet 100000) ∧ (∃ s : State, s.input = .ftimeoutSet 1000000001) ∧
    (∃ (s : State) (c : CkptCfg), s.input = .checkpointSettings c ∧ (∀ a ∈ [c.ckbase, c.cklen, c.resv, c.undobase, c.undolen], 65536 ∣ a) ∧
      c.buddy = 2047 ∧ c.ckbase + c.cklen ≤ Config.memBytes ∧ c.undobase + c.undolen ≤ Config.memBytes) ∧
    (∃ s : State, s.input = .reserveAssign 2047 65536) ∧
    (∃ (s : State) (c : CkptCopy), s.ckpt.copy = some c ∧ s.input = .ckptPageCopied 1 ∧ c.left.has 1 = true ∧ s.ckpt.cfg.cklen / 65536 = 2) ∧
    (∃ (s : State) (c : CkptCopy), s.ckpt.copy = some c ∧ (∀ p, p < s.ckpt.cfg.cklen / 65536 → c.left.has p = false) ∧ c.left.except = [] ∧
      s.nodeUp s.ckpt.cfg.buddy = true ∧ s.gtime.toNat + 1 = c.issued + s.fabric.ftimeout) ∧
    ∃ (s : State) (c : CkptCopy), s.ckpt.copy = some c ∧ s.gtime.toNat = c.issued + s.fabric.ftimeout :=
  ⟨⟨lateAt 10000000, _, rfl, List.mem_singleton.mpr rfl, rfl, by decide +kernel⟩, ⟨lateAt 9999999, _, rfl, rfl, by decide +kernel⟩,
    ⟨lateAt 0, { core := 0, ctx := 0, uid := 1, node := 3, addr := 0x3000, len := 8, landing := none, counts := true, issued := 0 }, _, rfl,
      rfl, rfl, rfl⟩, ⟨lone (.ftimeoutSet 100000), rfl⟩, ⟨lone (.ftimeoutSet 1000000001), rfl⟩,
    ⟨lone (.checkpointSettings ⟨7, 65536, 131072, 2047, 0, 262144, 65536⟩), ⟨7, 65536, 131072, 2047, 0, 262144, 65536⟩, rfl, by decide, rfl,
      by decide, by decide⟩, ⟨lone (.reserveAssign 2047 65536), rfl⟩,
    ⟨copyAt (.ckptPageCopied 1) { all := true } 0, _, rfl, rfl, rfl, rfl⟩,
    ⟨copyAt .none {} 9999999, _, rfl, by decide +kernel, rfl, by decide +kernel, by decide +kernel⟩,
    copyAt .none { all := true } 10000000, _, rfl, by decide +kernel⟩

/-- Node 3 has failed, and the lone task of job 7 has ended with or without stores outstanding, or runs. A recovery may be under way. -/
def recoveryAt (plan : Recovery) (run : RunState) (st : Nat) (ports : BitVec 16) (incomplete : Bool) (under : Option (Nat × Bool)) : State :=
  let s := lone (.nodeRecovery 3 plan) fun x => { x with
    run := run, cnt := { x.cnt with st := st }, task := { x.task with record := { x.task.record with jobtag := 7 } } }
  { s with
    fabric := { s.fabric with nodes := [(3, { failed := true }), (5, { ports := ports })], recovering := under.toList.map fun r => (7, r) }
    ckpt := { s.ckpt with cfg := { s.ckpt.cfg with buddy := 5 }, undo0 := { s.ckpt.undo0 with incomplete := incomplete } } }

/-- A plan of a recovery of job 7. -/
def planOf (point : Nat) (spare : Bool) : Recovery := { jobtag := 7, point := point, pages := [], newReserve := none, spare := spare }

/-- The counters of the job are 0. -/
theorem recovered (point : Nat) (up incomplete spare : Bool) :
    ∀ q ∈ (recoveryAt (planOf point spare) .ended 0 (if up then 0xFFFF else 0) incomplete (some (3, false))).cores, ∀ y ∈ q.2.tasks,
      y.task.record.jobtag = 7 → y.cnt.st = 0 ∧ y.cnt.rm = 0 ∧ y.cnt.as = 0 :=
  show ∀ q ∈ (recoveryAt (planOf 0 false) .ended 0 0 false none).cores, ∀ y ∈ q.2.tasks,
    y.task.record.jobtag = 7 → y.cnt.st = 0 ∧ y.cnt.rm = 0 ∧ y.cnt.as = 0 by decide +kernel

theorem witness_ManagementEvents_recovery :
    (∀ (point : Nat) (up incomplete spare : Bool), ∃ (s : State) (p : Recovery), s.input = .nodeRecovery 3 p ∧ p.point = point ∧
      p.spare = spare ∧ (mget {} s.fabric.nodes 3).failed = true ∧ tget s.fabric.recovering p.jobtag.toNat = some (3, false) ∧
      s.nodeUp s.ckpt.cfg.buddy = up ∧ s.ckpt.undo0.incomplete = incomplete ∧
      ∀ q ∈ s.cores, ∀ y ∈ q.2.tasks, y.task.record.jobtag = p.jobtag → y.cnt.st = 0 ∧ y.cnt.rm = 0 ∧ y.cnt.as = 0) ∧
    (∃ (s : State) (p : Recovery), s.input = .nodeRecovery 3 p ∧ (mget {} s.fabric.nodes 3).failed = true ∧
      tget s.fabric.recovering p.jobtag.toNat = some (3, false) ∧
      ∃ q ∈ s.cores, ∃ y ∈ q.2.tasks, y.task.record.jobtag = p.jobtag ∧ y.run = .ended ∧ y.cnt.st = 1) ∧
    (∀ under ∈ [none, some (5, false), some (5, true)], ∃ (s : State) (p : Recovery), s.input = .nodeRecovery 3 p ∧
      (mget {} s.fabric.nodes 3).failed = true ∧ tget s.fabric.recovering p.jobtag.toNat = under) ∧
    (∃ (s : State) (n c : Nat) (k : Core) (x : Ctx), s.cores = [(n, k)] ∧ k.ctxs = [(c, x)] ∧ k.suspended = [] ∧
      x.task.record.jobtag = 7 ∧ x.run ≠ .ended) ∧
    (∃ (page : Nat) (data : SMap Byte), page = 3 ∧ mwf 0 data = true ∧ data ≠ [] ∧ ∀ e ∈ data, e.1 < 65536) ∧
    ∃ (s : State) (q : Nat) (pages : SMap (List (Nat × Byte))), s.canonical ∧ s.jobQueues 9 = [q] ∧
      (∀ g ∈ s.grids, g.2.record.jobtag ≠ 9) ∧ (s.queue q).waiting = none ∧ (∀ i ∈ (s.queue q).items, ∃ bs, i = .onChip bs) ∧
      pages ≠ [] ∧ ∀ i, mwf 0 (mget [] pages i) = true ∧ ∀ e ∈ mget [] pages i, e.1 < 65536 := by
  refine ⟨fun point up incomplete spare => ⟨recoveryAt (planOf point spare) .ended 0 (if up then 0xFFFF else 0) incomplete (some (3, false)), _,
      rfl, rfl, rfl, rfl, rfl, ?_, ?_, recovered point up incomplete spare⟩,
    ⟨recoveryAt (planOf 8 false) .ended 1 0xFFFF false (some (3, false)), _, rfl, by decide +kernel⟩, fun under h => ?_,
    ⟨recoveryAt (planOf 8 false) .ready 0 0xFFFF false none, 0, 0, _, _, rfl, rfl, rfl, rfl, by decide +kernel⟩,
    ⟨3, [(65535, 1)], rfl, by decide, by decide, by decide⟩,
    queueAt .none { items := [.onChip (List.replicate 44 0 ++ [9] ++ List.replicate 83 0)] }, 63, [(3, [(65535, 1)])],
    by unfold State.canonical; decide +kernel, by decide +kernel, by decide +kernel, rfl,
    fun i hi => ⟨_, List.mem_singleton.mp hi⟩, by decide, fun i => ?_⟩
  · cases up
    · exact show (recoveryAt (planOf 0 false) .ended 0 0 false none).nodeUp 5 = false by decide +kernel
    · exact show (recoveryAt (planOf 0 false) .ended 0 0xFFFF false none).nodeUp 5 = true by decide +kernel
  · rfl
  · simp only [List.mem_cons, List.not_mem_nil, or_false] at h
    rcases h with rfl | rfl | rfl
    · exact ⟨recoveryAt (planOf 8 false) .ready 0 0xFFFF false none, _, rfl, rfl, rfl⟩
    · exact ⟨recoveryAt (planOf 8 false) .ready 0 0xFFFF false (some (5, false)), _, rfl, rfl, rfl⟩
    · exact ⟨recoveryAt (planOf 8 false) .ready 0 0xFFFF false (some (5, true)), _, rfl, rfl, rfl⟩
  · by_cases h : i = 3
    · subst h; decide
    · have : mget [] [(3, [(65535, (1 : Byte))])] i = [] := by simp [mget, tget, Ne.symm h]
      rw [this]; decide

/-- The board of the package, with what an event brings. -/
def boardAt (i : Input) (time : DWord) (g : Board → Board) : State := { lone i with board := g (lone .none).board, gtime := time }

theorem witness_ReliabilityEvents :
    (∃ s : State, s.input = .plimitSet 1500) ∧ (∃ s : State, s.input = .plimitSet 3401) ∧
    (∃ s : State, s.input = .powerOverBound 143 1 ∧ slotmapOk ((s.core 143).slotmap &&& ((s.core 143).pwrmask &&& ~~~1)) = true) ∧
    (∃ s : State, s.input = .powerOverBound 143 0x1FF ∧ slotmapOk ((s.core 143).slotmap &&& ((s.core 143).pwrmask &&& ~~~0x1FF)) = false) ∧
    (∃ s : State, s.input = .capLower 143 1 ∧ opptCap (s.core 143).oppt < 1) ∧
    (∃ s : State, s.input = .capRaise 143 0 1 ∧ 0 ≤ opptCap (s.core 143).oppt) ∧
    (∀ point ∈ [(0 : BitVec 8), 5], ∃ s : State, s.input = .slowdownNotice 3 7 point 0 ∧ (mget {} s.fabric.nodes 3).failed = false) ∧
    (∃ s : State, s.input = .slowdownNotice 3 7 5 0 ∧ (mget {} s.fabric.nodes 3).failed = true) ∧
    (∃ (s : State) (x : Notice), s.input = .slowdownTimer 7 ∧ tget s.board.notices 7 = some x ∧ x.arrived + 500000 = s.gtime.toNat) ∧
    (∃ (s : State) (x : Notice), s.input = .slowdownTimer 7 ∧ tget s.board.notices 7 = some x ∧ x.arrived + 500000 = s.gtime.toNat + 1) ∧
    (∃ (s : State) (x : Notice), s.input = .slowdownLapse 7 ∧ tget s.board.notices 7 = some x ∧ x.until_ = 500000 ∧ s.gtime = 500000) ∧
    (∃ s : State, s.input = .thermalThreshold 1 5 0) ∧
    (∃ s : State, s.input = .hbmSoftRepair 7 3 9 ∧ tget s.board.quiesced 7 = none ∧
      ((s.board.repairs ++ s.board.fused).filter fun r => r.1 = 7 && r.2.1 = 3).length = Config.spareRows 7 3) ∧
    (0 < Config.spareRows 7 3 → ∃ s : State, s.input = .hbmSoftRepair 7 3 9 ∧ tget s.board.quiesced 7 = none ∧
      ((s.board.repairs ++ s.board.fused).filter fun r => r.1 = 7 && r.2.1 = 3).length < Config.spareRows 7 3) ∧
    (∃ s : State, s.input = .hbmSoftRepair 7 3 9 ∧ tget s.board.quiesced 7 ≠ none) ∧
    (∃ s : State, s.input = .softRepairEnd 7 3 ∧ tget s.board.quiesced 7 = some 3) ∧
    (∃ s : State, s.input = .flitCheckFailure 15 true) ∧
    (∃ (s : State) (block : Nat), s.input = .blockCheckFailure none block (.block block) true ∧ 256 * block + 256 = Config.memBytes) ∧
    (∀ source ∈ [FaultUnit.engines 143 1, .port 15, .block 0], ∃ s : State, s.input = .blockCheckFailure (some 143) 0 source true) ∧
    (∃ s : State, s.input = .packageReset [(143, 1)] 2047 ∧ s.board.faultEngines = []) ∧
    (∃ s : State, s.input = .packageReset [] 0 ∧ s.board.images = []) ∧ (∃ s : State, s.input = .packageReset [] 2048) ∧
    (∃ (s : State) (img : Firmware), s.input = .packageReset [] 0 ∧ s.board.images = [img] ∧ img.version < s.board.minVersion) ∧
    (∃ (s : State) (img : Firmware), s.input = .firmwareInstall img ∧ img.version < s.board.minVersion) ∧
    (∀ img : Firmware, Config.rootVerify (sha3 img.bytes) img.signature = true → ∃ s : State, s.input = .firmwareInstall img ∧
      s.board.minVersion ≤ img.version ∧ s.board.recovery = false ∧ s.board.images.length = 7 ∧ s.board.running.length = 7) ∧
    (∃ (s : State) (nonce : List Byte), s.input = .attestationRequest nonce ∧ nonce.length = 64 ∧ s.board.running.length ≤ 8) ∧
    (∃ (s : State) (x : Notice), s.board.notices = [(7, x)] ∧ x.saved = [] ∧ x.applied = []) ∧
    (∃ (s : State) (x : Notice), s.board.notices = [(7, x)] ∧ x.saved = [(143, 0)] ∧ x.given = [(143, 5)] ∧
      opptCap (s.core 143).oppt = 5) ∧
    (∃ (k : Core) (cap : Nat), cap < 8 ∧ opptSettle k.oppt = false ∧ opptCur k.oppt < cap) ∧
    ∃ (k : Core) (cap : Nat), cap < 8 ∧ opptSettle k.oppt = true := by
  let noticed (i : Input) (t : DWord) : State := boardAt i t fun b => { b with notices := [(7, ⟨5, 500000, 0, [], [], []⟩)] }
  let quiet (i : Input) : State := boardAt i 0 fun b => { b with quiesced := [(7, 3)] }
  refine ⟨⟨lone (.plimitSet 1500), rfl⟩, ⟨lone (.plimitSet 3401), rfl⟩, ⟨lone (.powerOverBound 143 1), by decide +kernel⟩,
    ⟨lone (.powerOverBound 143 0x1FF), by decide +kernel⟩, ⟨lone (.capLower 143 1), by decide +kernel⟩,
    ⟨lone (.capRaise 143 0 1), by decide +kernel⟩, fun point _ => ⟨lone (.slowdownNotice 3 7 point 0), rfl, rfl⟩,
    ⟨{ lone (.slowdownNotice 3 7 5 0) with fabric := { (lone .none).fabric with nodes := [(3, { failed := true })] } }, rfl, rfl⟩,
    ⟨noticed (.slowdownTimer 7) 500000, _, rfl, rfl, by decide +kernel⟩, ⟨noticed (.slowdownTimer 7) 499999, _, rfl, rfl, by decide +kernel⟩,
    ⟨noticed (.slowdownLapse 7) 500000, _, rfl, rfl, rfl, rfl⟩, ⟨lone (.thermalThreshold 1 5 0), rfl⟩,
    ⟨boardAt (.hbmSoftRepair 7 3 9) 0 fun b => { b with repairs := List.replicate (Config.spareRows 7 3) (7, 3, 9), fused := [] }, rfl, rfl, ?_⟩,
    fun h => ⟨lone (.hbmSoftRepair 7 3 9), rfl, rfl, h⟩, ⟨quiet (.hbmSoftRepair 7 3 9), rfl, by decide +kernel⟩,
    ⟨quiet (.softRepairEnd 7 3), rfl, rfl⟩, ⟨lone (.flitCheckFailure 15 true), rfl⟩,
    ⟨lone (.blockCheckFailure none 2999999999 (.block 2999999999) true), 2999999999, rfl, by decide⟩,
    fun source _ => ⟨lone (.blockCheckFailure (some 143) 0 source true), rfl⟩, ⟨lone (.packageReset [(143, 1)] 2047), rfl, rfl⟩,
    ⟨lone (.packageReset [] 0), rfl, rfl⟩, ⟨lone (.packageReset [] 2048), rfl⟩,
    ⟨boardAt (.packageReset [] 0) 0 fun b => { b with minVersion := 3, images := [⟨[1], [], 2⟩] }, ⟨[1], [], 2⟩, rfl, rfl, by decide⟩,
    ⟨boardAt (.firmwareInstall ⟨[1], [], 2⟩) 0 fun b => { b with minVersion := 3 }, ⟨[1], [], 2⟩, rfl, by decide⟩,
    fun img _ => ⟨boardAt (.firmwareInstall img) 0 fun b => { b with
      images := List.replicate 7 img, running := List.replicate 7 img }, rfl, Nat.zero_le _, rfl, List.length_replicate, List.length_replicate⟩,
    ⟨lone (.attestationRequest (List.replicate 64 9)), _, rfl, rfl, by decide⟩, ⟨noticed .none 0, _, rfl, rfl, rfl⟩,
    ⟨(boardAt .none 0 fun b => { b with notices := [(7, ⟨5, 0, 0, [143], [(143, 0)], [(143, 5)]⟩)] }).modCore 143 fun k =>
      { k with oppt := 0x280 }, _, rfl, rfl, rfl, by decide +kernel⟩,
    ⟨{}, 7, by decide⟩, { ({} : Core) with oppt := 0x40 }, 7, by decide⟩
  simp [boardAt]

theorem witness_StepsKeepTablesCanonical : ∃ s t : State, s.canonical ∧ step s = .next t := by
  have k : (match step (State.reset.withFetchWord 32 0) with | .next _ => true | _ => false) = true := by decide +kernel
  split at k
  · rename_i t h
    exact ⟨_, t, by unfold State.canonical; decide +kernel, h⟩
  · cases k

/-! #### Clauses of their own -/

/-- Four words of a bundle: one that stands alone, and three `nop`, the last with the stop bit. -/
def bundleWords (w : Word) : List Word := [w, 0, 0, 0x80000000]

/-- `mtc` of DMR, as a slot. -/
def mtcDmr : RawSlot := ⟨0, none, 0b0_000_1010001_0_0_000_00111_00011_00000_0⟩

/-- A reserved class after a legal word; an ill-formed bundle; a write of DMR in user privilege. -/
theorem witness_BundleChecksHold_raises :
    (∃ (ws : List Word) (i : Nat) (w : Word), ws[i]? = some w ∧ 6 ≤ wordClass w ∧ ∀ j, j < i → ∀ v, ws[j]? = some v → wordClass v < 6) ∧
    (∃ ws : List Word, (∀ w ∈ ws, wordClass w < 6) ∧ ¬∃ rs, wellFormedBundle ws rs) ∧
    (∃ (h : Header) (ws : List Word) (rs : List RawSlot) (r : RawSlot), wellFormedBundle ws rs ∧ rs[0]? = some r ∧
      checkSlot h {} r = .error (0x06, 0)) ∧
    ∃ (r : RawSlot) (x : SlotWord), r.decode = .ok x ∧ controlWord r.word = false ∧ mtcTarget x.instr = some 0x07 ∧ fieldsOk x.instr = true ∧
      (∀ f o, entry x.instr = some (f, o) → o.rep = true → (payload f).extractLsb' 16 12 = 0) ∧ Forbidden {} x.instr := by
  refine ⟨⟨[0, 0x60000000], 1, 0x60000000, rfl, by decide, fun j hj v hv => ?_⟩, ⟨[], by simp, fun ⟨rs, h⟩ => ?_⟩,
    ⟨{}, bundleWords mtcDmr.word, [mtcDmr, ⟨1, none, 0⟩, ⟨2, none, 0⟩, ⟨3, none, 0x80000000⟩], mtcDmr,
      ⟨by simp only [bundleWords, List.forall_mem_cons]; exact ⟨by decide, by decide, by decide, by decide, by simp⟩, by decide, by decide, ⟨0x80000000, rfl, by decide⟩, by decide, by decide, by decide⟩, rfl, by decide⟩,
    mtcDmr, ⟨false, false, false, 0, .mtc ⟨7, 3, 0, false, none⟩⟩, by decide, by decide, by decide, by decide,
    fun f o h hr => ?_, Or.inl ⟨rfl, Or.inr ⟨7, by decide, by decide⟩⟩⟩
  · obtain rfl : j = 0 := by omega
    cases hv; decide
  · exact absurd h.2.2.1 (by simp)
  · cases h; cases hr

/-- A pipelined loop of count 0 and of the most stages. -/
theorem witness_HardwareLoops_pipelined : ∃ (s : State) (e : Env), Runs s e ∧ e.b.transfer = none ∧
    stagesOf (e.sA (fields 0 3 0)) = 7 ∧ countOf (e.sA (fields 0 3 0)) = 0 :=
  ⟨onS .nop 0x700000000 0, envOf (onS .nop 0x700000000 0), runs_envOf (by decide), by decide⟩

/-- A store finds CNTST at its bound. -/
def crowded : State := issued (.st64 (fields 0 3 4)) fun x => withS 3 0x2000 { x with cnt := { x.cnt with st := 256 } }

theorem witness_ChecksPassOrTrap_bound : ∃ (s : State) (b : Bundle), b.reentry = false ∧
    let adds := ((b.slots.drop b.cur).filter fun p => b.latch.guard p.word).map (s.slotCounts 0 (s.ctx 0 0) b)
    0 < (adds.map (·.1)).sum ∧ 256 < (s.ctx 0 0).cnt.st + (adds.map (·.1)).sum :=
  ⟨crowded, bundleIn crowded, by decide +kernel⟩

/-- A trap, of a slot or of a routine, finds a handler; a live frame makes it a double one, and so does PRIV 1 a `trap` or `sys`. -/
theorem witness_TrapEntry_handled (word : Option Nat) (h : word = none ∨ word = some 4095) :
    ∃ (s : State) (x : Ctx) (t : TrapInfo), s.ctx? 0 0 = some x ∧ t.slot < 8 ∧ t.word = word ∧ isDouble x t = false ∧
      (leWord 64 (((s.placeAll 0).saveStores 0 x ([(8, headerOf (s.core 0) x t (x.bundle.any (fun b => b.split) && !t.noissue))]
        ++ t.word.toList.map fun w => (0x580, natLe 8 w))).peek (x.saveAt 0) 8) : DWord) ≠ 0 ∧
      x.ctl.savebase.toNat % 2 ^ 22 = 0 ∧ s.ckpt.cfg.ckbase + s.ckpt.cfg.cklen = 0 := by
  refine ⟨handled sums, (handled sums).ctx 0 0, { someTrap with word := word }, rfl, ?_, rfl, ?_⟩
  · rcases h with rfl | rfl <;> decide
  · rcases h with rfl | rfl <;> decide +kernel

theorem witness_TrapEntry_privileged : ∃ (x : Ctx) (t : TrapInfo), x.frame = none ∧ t.cause = 0x21 ∧ isDouble x t = true :=
  ⟨inSystem.ctx 0 0, { someTrap with cause := 0x21 }, by decide +kernel, rfl, by decide +kernel⟩

/-- The lone task holds a fine claim on slice 3 of chain 255, which is PROVISIONAL or SETTLED. -/
theorem witness_TrapEntry_claims (state : SliceState) : ∃ (s : State) (x : Slice), s.claimOf (s.ctx 0 0).task.uid = some (255, 3, x) ∧
    x.state = state :=
  ⟨chained (chain4 false 1 .fine { state := state, claim := some 1 }) 0 0, { state := state, claim := some 1 }, by cases state <;> decide,
    rfl⟩

/-- A load of the scratchpad waits for an operation of the engines that writes it. -/
theorem witness_LoadsLand_busy : ∃ (s t : State) (e : Env) (ps : List (Place × Nat)), Runs s e ∧
    s.places e.n e.px .load 0xFFFFFFFFFFC00000 8 = .ok (t, ps) ∧ (t.core e.n).placesBusy false ps = true := by
  let s := (at3 0xFFFFFFFFFFC00000).modCore 0 fun k => { k with async := [{ id := 9, uid := 1, ctx := 0, load := true, writes := [(4194304, 8)] }] }
  have h : (match s.places 0 (envOf s).px .load 0xFFFFFFFFFFC00000 8 with
    | .ok (t, ps) => (t.core 0).placesBusy false ps
    | _ => false) = true := by decide +kernel
  split at h
  · rename_i t ps hp
    exact ⟨s, t, envOf s, ps, runs_envOf (by decide), hp, h⟩
  · cases h

/-- An atomic that waits for its place, whose landing a pending write of its task holds. -/
theorem witness_AtomicsPerform_lands (op : AmoOp) : ∃ (s : State) (a : Access) (m : Amo) (x : Ctx) (w : PWrite) (l : Landing),
    (s.core 0).outq.find? (fun b => !b.placed) = some a ∧ a.amo = some m ∧ m.op = op ∧ a.pieces = [(0x2038, [])] ∧
    (s.core 0).findTask a.uid = some x ∧ x.pend[0]? = some w ∧ w.landing = some l ∧ l.id = a.id ∧ l.kind = .unsigned ∧ w.dest = .s 5 0 := by
  let s := (issued .nop fun x => { x with
      pend := [{ due := 9, dest := .s 5 0, landing := some ⟨9, 0x2038, 0x1000, .unsigned, 8, .waiting, true⟩ }] }).modCore 0 fun k =>
    { k with outq := [⟨9, 1, 0, [(0x2038, [])], some ⟨op, false, 1, 2⟩, false⟩] }
  exact ⟨s, _, _, s.ctx 0 0, _, _, rfl, rfl, rfl, rfl, rfl, rfl, rfl, rfl, rfl, rfl⟩

/-- Entries of the task are parked, or the queue of its core is full. -/
theorem witness_MatrixSlotsQueue_room :
    (∃ (s : State) (e : Env), Runs s e ∧ tget e.b.answers e.p.pos = none ∧ e.x.parked ≠ []) ∧
    ∃ (s : State) (e : Env), Runs s e ∧ tget e.b.answers e.p.pos = none ∧ e.x.parked = [] ∧ (s.core e.n).queue.length = 8 := by
  let m : MatEntry := { id := 9, uid := 1, ctx := 0, op := .zero 0 }
  exact ⟨⟨issued .nop fun x => { x with parked := [m] }, envOf (issued .nop fun x => { x with parked := [m] }), runs_envOf (by decide),
      by decide, by decide⟩,
    sums.modCore 0 fun k => { k with queue := List.replicate 8 m }, envOf (sums.modCore 0 fun k => { k with queue := List.replicate 8 m }),
    runs_envOf (by decide), by decide, by decide, by decide⟩

/-- An operation of any kind is about to execute. -/
theorem witness_EntriesCompute (op : MatOp) : ∃ (s : State) (m : MatEntry) (x : Ctx), EntryRuns s 0 m [] x ∧ m.op = op :=
  ⟨headed op false (.matrixEntryExecute 0), { id := 9, uid := 1, ctx := 0, op := op }, sums.ctx 0 0,
    ⟨rfl, rfl, rfl, nofun, rfl, rfl, rfl, by cases op <;> rfl⟩, rfl⟩

/-- An epilogue block of each output format, and the conditions of its destinations. -/
theorem witness_EntriesCompute_drains : (∀ qt : Fin 4, (mget 0 (byteTable [0, BitVec.ofNat 8 qt]) 1).toNat = qt) ∧
    (∃ k first : Nat, first + k * 8 = 128 ∧ 0 < k) ∧ ∃ k b2, controlBlock 0 128 128 = some (k, b2) :=
  ⟨by decide, ⟨16, 0, by decide⟩, _, _, rfl⟩

/-- The operands of a sparse product and of a compression. -/
theorem witness_EntriesCompute_tiles : ∃ a b c : Tile, formatGroup a.fmt = formatGroup b.fmt ∧ c.fmt = b.fmt ∧ a.cmp = true ∧ b.cmp = false :=
  ⟨⟨0, 0, 5, 0, true⟩, ⟨0, 0, 5, 0, false⟩, ⟨0, 0, 5, 0, false⟩, by decide⟩

/-- A task of an opening of a chain that has been closed since; the chain may be open again. -/
theorem witness_SliceRequestsArePerformed_stale (again : Bool) : ∃ (s : State) (e : Env), Asks s e ∧ staleTask s e 255 ∧
    (tget s.chains 255).isSome = again := by
  let s (again : Bool) : State :=
    let s := chained (chain4 false 1 .hold {}) 0xFF0003 0 (some ⟨255, 2, 6, 0⟩)
    if again then s else { s with chains := [] }
  refine ⟨s again, envOf (s again), ?_⟩
  cases again
  · exact ⟨asks_envOf (by decide), ⟨⟨255, 2, 6, 0⟩, by decide, rfl, fun c h => (by cases h)⟩, by decide⟩
  · exact ⟨asks_envOf (by decide), ⟨⟨255, 2, 6, 0⟩, by decide, rfl, fun c h => (by cases h; decide)⟩, by decide⟩

/-- A finished entry of a protected task, whose counts are held. -/
theorem witness_EntriesExecuteAndRetire_held : ∃ (s : State) (m : MatEntry) (x : Ctx), (s.core 0).queue = [m] ∧ s.ctx? 0 0 = some x ∧
    (s.core 0).findTask m.uid = some x ∧ m.done = true ∧ s.input = .matrixEntryRetire 0 ∧ x.task.record.prot = true := by
  let s : State := (headed (.zero 1) true (.matrixEntryRetire 0)).modCtx 0 0 fun x =>
    { x with task := { x.task with record := { x.task.record with prot := true } } }
  exact ⟨s, { id := 9, uid := 1, ctx := 0, op := .zero 1, done := true }, s.ctx 0 0, rfl, by decide +kernel, by decide +kernel, rfl, rfl, rfl⟩

/-- A row that is spilled to a peer may go, or an earlier access to its bytes is not answered. -/
theorem witness_CandidateRowsMerge_spills (busy : Bool) : ∃ (s t : State) (e : Env), Runs s e ∧
    s.spillPlaces e 0x40000000 1 = .ok t ∧ ∀ r < 1, t.rowBusy e (0x40000000 + BitVec.ofNat 64 (1024 * r)) = busy := by
  let s (busy : Bool) : State := if busy then withStore (at3 0) else at3 0
  have h : ∀ busy, (match (s busy).spillPlaces (envOf (s busy)) 0x40000000 1 with
    | .ok t => (List.range 1).all fun r => t.rowBusy (envOf (s busy)) (0x40000000 + BitVec.ofNat 64 (1024 * r)) == busy
    | .error _ => false) = true := by decide +kernel
  have k := h busy
  split at k
  · exact ⟨s busy, _, envOf (s busy), runs_envOf (by cases busy <;> decide), by assumption, fun r hr => by
      simpa using List.all_eq_true.mp k r (List.mem_range.mpr hr)⟩
  · cases k

/-- The bytes of a copy's source at a peer have an earlier access that is not answered, or none. -/
theorem witness_PhasesAndShapes_copies (busy : Bool) : ∃ (s : State) (e : Env) (src : DWord) (dst len : Nat)
    (ps : List (Option Nat × Nat × Nat)), Runs s e ∧ tget e.b.answers e.p.pos = some (.copy src dst len ps) ∧ e.x.landed = true ∧
    s.copyBusy e.x.task.uid ps = busy := by
  let s (busy : Bool) : State :=
    let t := answeredAs (.copy 0x40000000 0 256 [(some 3, 0, 256)])
    if busy then withStore t else t
  refine ⟨s busy, envOf (s busy), 0x40000000, 0, 256, [(some 3, 0, 256)], ?_⟩
  cases busy <;> exact ⟨runs_envOf (by decide), by decide, by decide, by decide⟩

/-- A line of a window is to be filled, and no operation uses its granule, or one does. -/
theorem witness_MemoryEvents_fills (busy : Bool) : ∃ (s : State) (y : Ctx) (w : Window), s.input = .stashFill 0 0 0x20040 ∧
    (s.core 0).windowAt (s.ctx 0 0).task.spBase 0x20040 = some (y, 3, w) ∧ tget w.lines 1 = none ∧
    (s.core 0).windowBusy y.task.uid 3 64 64 = busy := by
  let s (busy : Bool) : State := (lone (.stashFill 0 0 0x20040) fun x => { x with
      windows := [(3, { gbase := 0x30000, spg := 2, npg := 1, pages := [(0x30000, true)] })] }).modCore 0 fun k => { k with
    async := if busy then [{ id := 9, uid := 1, ctx := 0, load := true, writes := [(((lone .none).ctx 0 0).task.spBase + 0x20000, 4096)] }] else [] }
  refine ⟨s busy, (s busy).ctx 0 0, { gbase := 0x30000, spg := 2, npg := 1, pages := [(0x30000, true)] }, ?_⟩
  cases busy <;> exact ⟨rfl, by decide +kernel, rfl, by decide +kernel⟩

/-- Operands of the special functions: a reciprocal and an exponential beyond the formats, an integer, and an even power of two. -/
theorem witness_VectorResults_special : ∃ f nan one half inf sgn, (f, nan, one, half, inf, sgn) ∈ specialFormats ∧
    magLt 1 1 (-200) 1 1 (-128) = true ∧ magLt 2048 1 0 1024 1 0 = false ∧ (scaled 3 1 1).1 = 6 * (scaled 3 1 1).2 ∧
    (Machine.Num.fin false 9 1 (-2)).eq (.fin false (3 * 3) 1 (2 * -1)) = true ∧ (Machine.Num.fin false 4 1 0).eq (.fin false 1 1 (2 * 1)) = true :=
  ⟨_, _, _, _, _, _, List.mem_cons_self, by decide, by decide, by decide, by decide, by decide⟩

/-- Every iterate of a list is finite. -/
theorem finite_of {xs : List Word} (h : (xs.all fun w => (f32 w).isFinite) = true) : ∀ w ∈ xs, (f32 w).isFinite = true :=
  List.all_eq_true.mp h

/-- Five iterates with no small difference, five with one, and three vectors of which one lane is active. -/
theorem witness_RandomAndExtrapolation_estimates :
    (∃ tau : Machine.Num, ∃ xs : List Word, xs.length = 5 ∧ (∀ w ∈ xs, (f32 w).isFinite = true) ∧
      ∀ p < 4, ∀ k < 4 - p, let d := r64 ((epsilon (fun i => f32 (xs.getD i 0)) (p + 1) (k + 1)).sub (epsilon (fun i => f32 (xs.getD i 0)) (p + 1) k))
        (d.isZero || d.abs.lt tau) = false) ∧
    (∃ tau : Machine.Num, ∃ xs : List Word, xs.length = 5 ∧ (∀ w ∈ xs, (f32 w).isFinite = true) ∧
      let d := r64 ((f32 (xs.getD 1 0)).sub (f32 (xs.getD 0 0)))
      (d.isZero || d.abs.lt tau) = true) ∧
    ∃ (xa : Xa) (act : Mask), xa.history.length = 3 ∧ act.getLsbD 0 = true ∧
      (∀ k < 3, ∀ l, l < 1024 ∧ act.getLsbD l = true → (f32 (lane (xa.history.getD k []) l)).isFinite = true) ∧
      ¬∀ k, k + 1 < 3 → ∀ l, l < 1024 ∧ act.getLsbD l = true →
        (f32 (lane (xa.history.getD (k + 1) []) l)).eq (f32 (lane (xa.history.getD k []) l)) = true :=
  ⟨⟨.zero false, [0x3F800000, 0x40000000, 0x40800000, 0x41400000, 0x42000000], rfl, finite_of (by decide +kernel), by decide +kernel⟩,
    ⟨.zero false, [0, 0, 0x3F800000, 0, 0x3F800000], rfl, finite_of (by decide +kernel), by decide +kernel⟩,
    { history := [lanesOf [0, 0, 0x80, 0x3F], [], lanesOf [0, 0, 0, 0x40]] }, 1, rfl, by decide +kernel,
    fun k hk l ⟨hl, ha⟩ => by
      have : l = 0 := by
        by_contra h
        simp [BitVec.getLsbD_one, h] at ha
      subst this
      revert k
      decide +kernel,
    fun h => absurd (h 0 (by decide) 0 ⟨by decide, by decide +kernel⟩) (by decide +kernel)⟩

/-- A value beyond a format. -/
theorem witness_RoundingOfFractions_formats : ∀ r ∈ floatFormats,
    (Machine.Num.fin false 1 1 200).lt ((r.1.value (if r.2.2.1 then r.2.2.2 - 1 else r.2.2.2)).mul (.ofInt 2)).1 = false := by
  decide +kernel

end Sys2Proof.Tests
end

section
/-! PROOFS. What a request slot comes to, and what changes the acting context. -/

namespace Sys2Proof.Machine

/-- The acting context changed is its context of the state written anew. -/
theorem modCtx_acting {s : State} {e : Env} (h : s.env = some e) (g : Ctx → Ctx) :
    s.modCtx e.n e.c g = s.setCtx e.n e.c (g e.x) := by
  obtain ⟨hx, -, -⟩ := env_ctx h
  simp [State.modCtx, State.ctx, hx]

theorem putAnswer_acting {s : State} {e : Env} (h : s.env = some e) (f : Fields) (v : DWord) :
    putAnswer f e s v = s.setCtx e.n e.c (e.x.putS e.b.latch f.d 1 v) := modCtx_acting h _

theorem answer_of_tget {e : Env} {a : Answer} (h : tget e.b.answers e.p.pos = some a) : e.answer = a := by
  simp [Env.answer, h]

section Answered
variable {s : State} {e : Env} (ask : Env → State → SlotRes) (commit : Env → State → Answer → SlotRes)

/-- A slot that makes a request and has not issued (R82). -/
theorem runAnswered_sends (h : Asks s e) : runAnswered s ask commit = .next ((ask e s).sent s e) := by
  rw [runAnswered, runSlot_asks _ h]
  simp [h.asks]

/-- A slot whose request has been answered (R82). -/
theorem runAnswered_uses {a : Answer} (h : Runs s e) (ha : tget e.b.answers e.p.pos = some a) (ho : a.open = false)
    (hr : ∀ cause taddr, a ≠ .refused cause taddr) : runAnswered s ask commit = .next ((commit e s a).outcome s e) := by
  rw [runAnswered, runSlot_runs _ h]
  cases a <;> simp_all [h.asking, answer_of_tget ha, Answer.open]

/-- A slot whose request was refused raises its trap when it commits (R82). -/
theorem runAnswered_refused {cause : BitVec 8} {taddr : Option DWord} (h : Runs s e)
    (ha : tget e.b.answers e.p.pos = some (.refused cause taddr)) :
    runAnswered s ask commit = .next (s.slotTrap e e.p.pos cause (taddr.getD e.slotAddr)) := by
  rw [runAnswered, runSlot_runs _ h]
  simp [h.asking, answer_of_tget ha, SlotRes.outcome]

/-- A slot whose request has no answer yet blocks its context (R82). -/
theorem runAnswered_waits (h : Runs s e) (ha : tget e.b.answers e.p.pos = some .waiting) : runAnswered s ask commit =
    .next ((s.modCtx e.n e.c fun x => { x with run := .blocked .answer }).release e.n e.c) := by
  rw [runAnswered, runSlot_runs _ h]
  simp [h.asking, answer_of_tget ha, SlotRes.outcome]

end Answered

end Sys2Proof.Machine
end

section
/-! PROOFS. Requests and their answers (R14, R82, R93, R230). -/

namespace Sys2Proof.Machine

/-- What a row of `answeredRow` makes of the state: its context, or the actions of its bundle's end. -/
def answeredState (s : State) (e : Env) : Option Ctx × List EndAct → State
  | (some y, _) => s.setCtx e.n e.c y
  | (none, []) => s
  | (none, as) => s.modBundle e.n e.c fun b => { b with acts := b.acts ++ as }

/-- A slot is a request that, answered with `v`, leaves what its row says. -/
def CommitsRow (i : Instr) (s : State) (e : Env) : Prop :=
  ∃ ask commit, exec i s = runRequest s ask commit ∧
    ∀ v r, answeredRow e v i = some r → commit e s v = answeredState s e r

section Rows
variable {i : Instr} {s : State} {e : Env} {ask : Env → State → SlotRes}

/-- A request without a result. -/
theorem CommitsRow.silent (hx : exec i s = runRequest s ask fun _ s _ => s) (hr : ∀ v, answeredRow e v i = some (none, [])) :
    CommitsRow i s e :=
  ⟨ask, _, hx, fun v r h => by rw [hr v] at h; cases h; rfl⟩

/-- A request whose answer goes to sD at distance 1. -/
theorem CommitsRow.writes {f : Fields} (h : s.env = some e) (hx : exec i s = runRequest s ask (putAnswer f))
    (hr : ∀ v, answeredRow e v i = some (some (e.x.putS e.b.latch f.d 1 v), [])) : CommitsRow i s e :=
  ⟨ask, _, hx, fun v r hv => by rw [hr v] at hv; cases hv; exact putAnswer_acting h f v⟩

/-- A request whose bundle has an action to do at its end. -/
theorem CommitsRow.acts {a : Env → EndAct} (hx : exec i s = runFire s a)
    (hr : ∀ v, answeredRow e v i = some (none, [a e])) : CommitsRow i s e :=
  ⟨_, _, hx, fun v r h => by rw [hr v] at h; cases h; rfl⟩

/-- A request whose answer goes to sD and, with it, to TBUDGET. -/
theorem CommitsRow.budgets {f : Fields} {g : DWord → BitVec 32 → BitVec 32} (h : s.env = some e)
    (hx : exec i s = runRequest s ask fun e s v =>
      (putAnswer f e s v).modCtx e.n e.c fun x => { x with ctl := { x.ctl with tbudget := g v x.ctl.tbudget } })
    (hr : ∀ v, let y := e.x.putS e.b.latch f.d 1 v
      answeredRow e v i = some (some { y with ctl := { y.ctl with tbudget := g v y.ctl.tbudget } }, [])) : CommitsRow i s e :=
  ⟨ask, _, hx, fun v r hv => by
    rw [hr v] at hv
    cases hv
    rw [putAnswer_acting h, State.modCtx_setCtx]; rfl⟩

end Rows

/-- The cost that a popped key carries (R15). -/
theorem costOf_key (v : DWord) : (v.extractLsb' 0 16).setWidth 32 = BitVec.ofNat 32 (v.toNat % 65536) := by
  apply BitVec.eq_of_toNat_eq
  simp

/-- Every request of the table leaves, once answered, what its row says (R14, R82, R93, R230). -/
theorem commitsRow {i : Instr} {s : State} {e : Env} (h : s.env = some e) (hi : ∃ r, answeredRow e 0 i = some r) :
    CommitsRow i s e := by
  obtain ⟨r, hr⟩ := hi
  cases i with
  | tlaunch f | bar f | heapPush f | ckptSeal f | ckptDiff f | erSet f | slcStart f | slcJump f | slcRetire f | slcRecycle f
  | slcPage f | slcClose f => exact .silent (by simp only [exec]; rfl) fun _ => rfl
  | heapPeek f | heapPeekDl f | ckptBegin f | erGet f | erGetS f | slcOpen f | slcClaim f | slcClaimC f | slcAccept f
  | slcWait f | slcStat f | slcStatC f | slcFault f | slcFaultClr f =>
    exact .writes h (by simp only [exec]; rfl) fun _ => rfl
  | heapPop f =>
    exact .budgets h (f := f) (g := fun v t => t - if v = BitVec.allOnes 64 then 0 else (v.extractLsb' 0 16).setWidth 32)
      (by simp only [exec]; rfl) fun v => by simp only [answeredRow, costOf_key]
  | budget f => exact .budgets h (g := fun v _ => v.setWidth 32) (by simp only [exec]; rfl) fun v => rfl
  | yieldEr => exact .acts (by simp only [exec]; rfl) fun _ => rfl
  | erIdle f => exact .acts (by simp only [exec]; rfl) fun _ => rfl
  | _ => cases hr

/-- Settles O44: each request's row gives what it commits, and the shape of a request gives its trap and its wait. -/
theorem requestsUseTheirAnswers : Obligations.RequestsUseTheirAnswers := by
  intro i s e h hi
  obtain ⟨ask, commit, hx, hc⟩ := commitsRow h.env hi
  refine ⟨fun v y as ha hr => ?_, fun cause taddr ha => ?_, fun ha => ?_⟩
  · rw [hx, runRequest_commit ask commit h (answer_of_tget ha), hc v _ hr]
    cases y <;> cases as <;> rfl
  · rw [hx, runRequest, runAnswered_refused _ _ h ha]
  · rw [hx, runRequest, runAnswered_waits _ _ h ha]

end Sys2Proof.Machine
end

section
/-! PROOFS. The requests of the dispatcher (R13 to R15, R82 to R93). -/

namespace Sys2Proof.Machine

/-- The order of the heap (R15): by deadline, then by id. -/
def HeapEntry.before (x y : HeapEntry) : Prop :=
  x.deadline.toNat < y.deadline.toNat ∨ (x.deadline = y.deadline ∧ x.id.toNat < y.id.toNat)

/-- An entry goes after all that it does not precede, and before one that it does (R90). -/
theorem heapInsert_split (x : HeapEntry) : ∀ h : List HeapEntry, ∃ l r, h = l ++ r ∧ (∀ y ∈ l, ¬x.before y) ∧
    (∀ y, r.head? = some y → x.before y) ∧ heapInsert x h = l ++ x :: r
  | [] => ⟨[], [], by simp [heapInsert]⟩
  | y :: ys => by
    by_cases hb : x.before y
    · exact ⟨[], y :: ys, rfl, by simp, fun z hz => by cases hz; exact hb, if_pos hb⟩
    · obtain ⟨l, r, hs, hl, hr, hi⟩ := heapInsert_split x ys
      refine ⟨y :: l, r, by rw [hs, List.cons_append], List.forall_mem_cons.mpr ⟨hb, hl⟩, hr, ?_⟩
      rw [List.cons_append, ← hi]
      exact if_neg hb

/-- A deadline of all ones is kept as one less (R15). -/
theorem heapEntry_eq (a b : DWord) :
    heapEntry a b = ⟨BitVec.ofNat 64 (min a.toNat (2 ^ 64 - 2)), b.extractLsb' 16 32, b.extractLsb' 0 16⟩ := by
  have hd : (if a = BitVec.allOnes 64 then a - 1 else a) = BitVec.ofNat 64 (min a.toNat (2 ^ 64 - 2)) := by
    split
    · subst_vars; rfl
    · rename_i h
      have : a.toNat ≠ 2 ^ 64 - 1 := fun e => h (BitVec.eq_of_toNat_eq (by simpa using e))
      apply BitVec.eq_of_toNat_eq
      have := a.isLt
      rw [BitVec.toNat_ofNat]
      omega
  rw [heapEntry, hd]

/-- The key of an entry as a number (R15). -/
theorem HeapEntry.key_eq (x : HeapEntry) : x.key = BitVec.ofNat 64 (65536 * x.id.toNat + x.cost.toNat) := by
  apply BitVec.eq_of_toNat_eq
  rw [HeapEntry.key, BitVec.toNat_setWidth, BitVec.toNat_append, BitVec.toNat_ofNat,
    ← Nat.shiftLeft_add_eq_or_of_lt x.cost.isLt, Nat.shiftLeft_eq, Nat.mul_comm]

/-- The clamped budget as an answer (R14). -/
theorem clampBudget_answer (i : Int) : (clampBudget i).setWidth 64 = BitVec.ofInt 64 (max 0 (min i 0xFFFFFFFF)) := by
  apply BitVec.eq_of_toNat_eq
  rw [clampBudget, BitVec.toNat_setWidth, BitVec.toNat_ofInt, BitVec.toNat_ofInt]
  omega

/-! ### What is sent -/

section Requests
variable {s : State} {e : Env} (f : Fields) (h : Asks s e)
include h

/-- A tail launch of a record that is not aligned (R87). -/
theorem tlaunch_misaligned (ha : (e.sA f).toNat % 128 ≠ 0) :
    exec (.tlaunch f) s = .next (s.refuse e causeMisalign (some (e.sA f))) := by
  simp [exec, execTlaunch, runRequest_sends _ _ h, ha, SlotRes.sent]

/-- A grid takes one tail launch (R13, R87). -/
theorem tlaunch_second {g : Grid} (ha : (e.sA f).toNat % 128 = 0) (hg : tget s.grids e.x.task.grid = some g)
    (ht : g.tail ≠ none) : exec (.tlaunch f) s = .next (s.refuse e causeResource none) := by
  simp [exec, execTlaunch, runRequest_sends _ _ h, ha, hg, ht, Option.isSome_iff_ne_none, SlotRes.sent]

theorem tlaunch_first {g : Grid} (ha : (e.sA f).toNat % 128 = 0) (hg : tget s.grids e.x.task.grid = some g)
    (ht : g.tail = none) : exec (.tlaunch f) s = .next ((State.answerWith
      { s with grids := tset s.grids e.x.task.grid { g with tail := some (e.sA f) } } e 0).advance e) := by
  simp [exec, execTlaunch, runRequest_sends _ _ h, ha, hg, ht, SlotRes.sent]

/-- A barrier that the kernel does not declare, or a level above that of its launch (R83). -/
theorem bar_refused (hb : e.x.task.hdr.nbar ≤ f.a.toNat ∨ e.x.task.hdr.level < f.d.toNat) :
    exec (.bar f) s = .next (s.refuse e causeResource none) := by
  simp [exec, execBar, runRequest_sends _ _ h, hb, SlotRes.sent]

/-- A barrier of level 0 is answered at once (R83). -/
theorem bar_alone (hn : f.a.toNat < e.x.task.hdr.nbar) (hl : f.d.toNat = 0) :
    exec (.bar f) s = .next ((s.answerWith e 0).advance e) := by
  simp [exec, execBar, runRequest_sends _ _ h, Nat.not_le.mpr hn, hl, SlotRes.sent]

/-- An arrival at a barrier waits for the release of its generation (R83). -/
theorem bar_arrives (hn : f.a.toNat < e.x.task.hdr.nbar) (hl : f.d.toNat ≤ e.x.task.hdr.level) (h0 : f.d.toNat ≠ 0) :
    exec (.bar f) s = .next (((((s.hear e.n).irrevocable e.n e.c).arrive e.x.task.grid f.d.toNat
      (domainOf f.d.toNat e.n) f.a.toNat e.x.task.uid).reply e .waiting).advance e) := by
  have hb : ¬(e.x.task.hdr.nbar ≤ f.a.toNat ∨ e.x.task.hdr.level < f.d.toNat) := by omega
  simp [exec, execBar, runRequest_sends _ _ h, hb, h0, SlotRes.sent]

theorem heapPush_full (hh : 4096 ≤ s.heap.length) : exec (.heapPush f) s = .next (s.refuse e causeResource none) := by
  simp [exec, execHeapPush, runRequest_sends _ _ h, hh, SlotRes.sent]

theorem heapPush_inserts (hh : s.heap.length < 4096) : exec (.heapPush f) s = .next ((State.answerWith
    { s with heap := heapInsert (heapEntry (e.sA f) (e.sB f)) s.heap } e 0).advance e) := by
  simp [exec, execHeapPush, runRequest_sends _ _ h, Nat.not_le.mpr hh, SlotRes.sent]

/-- An empty heap has no head to pop (R91). -/
theorem heapPop_empty (hh : s.heap = []) :
    exec (.heapPop f) s = .next ((s.answerWith e (BitVec.allOnes 64)).advance e) := by
  simp [exec, execHeapPop, runRequest_sends _ _ h, hh, SlotRes.sent]

/-- A head that costs more than the budget stays (R15, R93). -/
theorem heapPop_dear {y : HeapEntry} {ys : List HeapEntry} (hh : s.heap = y :: ys)
    (hc : e.b.latch.ctl.tbudget.toNat < y.cost.toNat) :
    exec (.heapPop f) s = .next ((s.answerWith e (BitVec.allOnes 64)).advance e) := by
  simp [exec, execHeapPop, runRequest_sends _ _ h, hh, hc, SlotRes.sent]

theorem heapPop_head {y : HeapEntry} {ys : List HeapEntry} (hh : s.heap = y :: ys)
    (hc : y.cost.toNat ≤ e.b.latch.ctl.tbudget.toNat) : exec (.heapPop f) s =
      .next (((({ s with heap := ys } : State).answerWith e y.key).handOff e.n).advance e) := by
  simp [exec, execHeapPop, runRequest_sends _ _ h, hh, Nat.not_lt.mpr hc, SlotRes.sent]

/-- The peeks answer with the head (R91). -/
theorem heapPeek_asks : exec (.heapPeek f) s = .next ((s.answerWith e (heapHead HeapEntry.key s.heap)).advance e) := by
  simp only [exec, execHeapPeek, runRequest_sends _ _ h, SlotRes.sent]

theorem heapPeekDl_asks : exec (.heapPeekDl f) s = .next ((s.answerWith e (heapHead (·.deadline) s.heap)).advance e) := by
  simp only [exec, execHeapPeekDl, runRequest_sends _ _ h, SlotRes.sent]

/-- The budget answers with TBUDGET + sA, clamped (R14). -/
theorem budget_asks : exec (.budget f) s = .next ((s.answerWith e (BitVec.ofInt 64
    (max 0 (min ((e.b.latch.ctl.tbudget.toNat : Int) + (e.sA f).toInt) 0xFFFFFFFF)))).advance e) := by
  simp only [exec, execBudget, runRequest_sends _ _ h, SlotRes.sent, clampBudget_answer]

end Requests

/-- Settles O45: one rule for each request, and the place of an entry in the heap by induction on the heap. -/
theorem dispatcherRequests : Obligations.DispatcherRequests := by
  intro s e f h
  refine ⟨tlaunch_misaligned f h, fun ha g hg => ⟨tlaunch_second f h ha hg, tlaunch_first f h ha hg⟩, bar_refused f h,
    fun hn hl => ⟨bar_alone f h hn, bar_arrives f h hn hl⟩, heapPush_full f h, fun hh => ?_, fun hh => ?_, fun y ys hh => ?_,
    budget_asks f h⟩
  · obtain ⟨l, r, hs, hl, hr, hi⟩ := heapInsert_split (heapEntry (e.sA f) (e.sB f)) s.heap
    have hx := heapPush_inserts f h hh
    rw [hi] at hx
    rw [heapEntry_eq] at hl hr hx
    exact ⟨l, r, hs, hl, hr, hx⟩
  · exact ⟨heapPop_empty f h hh, by rw [heapPeek_asks f h, hh]; rfl, by rw [heapPeekDl_asks f h, hh]; rfl⟩
  · rw [heapPeek_asks f h, heapPeekDl_asks f h, hh]
    dsimp only
    rw [← HeapEntry.key_eq]
    exact ⟨heapPop_dear f h hh, heapPop_head f h hh, rfl, rfl⟩

end Sys2Proof.Machine
end

section
/-! PROOFS. Phases, shape records and buffer swaps (R85, R86, R89, R351). -/

namespace Sys2Proof.Machine

/-! ### Loads that leave no copy -/

theorem Memory.line_own (m : Memory) (l : Nat) : (m.line l).own = (tget m.lines l).bind HomeLine.own := by
  unfold Memory.line
  split <;> simp [*]

theorem Memory.line_setLine_self (m : Memory) (l : Nat) (x : HomeLine) : (m.setLine l x).line l = x := by
  simp [Memory.line, Memory.setLine]

theorem Memory.own_setLine_ne (m : Memory) {l k : Nat} (x : HomeLine) (h : k ≠ l) :
    ((m.setLine l x).line k).own = (m.line k).own := by
  rw [Memory.line_own, Memory.line_own, Memory.setLine, tget_tset_ne _ _ h]

/-- An eviction gives no line an owner (R325). -/
theorem Memory.own_evict {m m' : Memory} {l k : Nat} (he : m.evict l = some m') (h : (m.line k).own = none) :
    (m'.line k).own = none := by
  unfold Memory.evict at he
  obtain ⟨x, -, he⟩ := Option.bind_eq_some_iff.mp he
  split at he
  · cases he
  · cases he
    rw [Memory.line_own] at h ⊢
    by_cases hk : k = l
    · subst hk; simp
    · rwa [tget_tdel_ne _ hk]

theorem Memory.own_makeRoom {m : Memory} (clock l : Nat) {k : Nat} (h : (m.line k).own = none) :
    ((m.makeRoom clock l).line k).own = none := by
  unfold Memory.makeRoom
  dsimp only
  split
  · exact h
  · split
    · rename_i e _
      cases he : m.evict e.1 with
      | none => exact h
      | some m' => exact Memory.own_evict he h
    · exact h

/-- What core `n`'s loads that leave no copy in L1 keep: bytes, lines that no stash owns, and the core but its time (R328). -/
structure LoadKeeps (n : Nat) (s t : State) : Prop where
  bytes : t.mem.bytes = s.mem.bytes
  core : ∃ T, t.core n = { s.core n with t := T }
  own : ∀ l, (s.mem.line l).own = none → (t.mem.line l).own = none

theorem LoadKeeps.refl (n : Nat) (s : State) : LoadKeeps n s s := ⟨rfl, ⟨(s.core n).t, rfl⟩, fun _ h => h⟩

theorem LoadKeeps.trans {n : Nat} {s t u : State} (h : LoadKeeps n s t) (g : LoadKeeps n t u) : LoadKeeps n s u where
  bytes := g.bytes.trans h.bytes
  core := by
    obtain ⟨T, hT⟩ := h.core
    obtain ⟨U, hU⟩ := g.core
    exact ⟨U, by rw [hU, hT]⟩
  own l hl := g.own l (h.own l hl)

theorem LoadKeeps.l1 {n : Nat} {s t : State} (h : LoadKeeps n s t) : (t.core n).l1 = (s.core n).l1 := by
  obtain ⟨T, hT⟩ := h.core
  rw [hT]

/-- A line that no stash owns is read at its home when the core has no copy of it (R326, R328). -/
theorem State.loadLine_home {s : State} {n l : Nat} (ho : (s.mem.line l).own = none) (hc : tget (s.core n).l1 l = none) :
    LoadKeeps n s (s.loadLine n false l).1 ∧ (s.loadLine n false l).2 = readBytes s.mem.bytes (64 * l) 64 := by
  have hr : s.reach l = { s with mem := s.mem.makeRoom s.clock l } := by simp [State.reach, State.recall, ho]
  simp only [State.loadLine, hc, hr, Memory.makeRoom_bytes, and_true]
  refine ⟨by simp [State.raiseT, Memory.setLine], ⟨_, State.core_setCore _ _ _⟩, fun k hk => ?_⟩
  have hm := Memory.own_makeRoom s.clock l hk
  by_cases h : k = l
  · subst h
    simpa [State.raiseT, Memory.line_setLine_self] using hm
  · simpa [State.raiseT, Memory.own_setLine_ne _ _ h] using hm

/-- A line that a core loads from its home: no stash owns it, and the core has no copy. -/
def AtHome (s : State) (n l : Nat) : Prop := (s.mem.line l).own = none ∧ tget (s.core n).l1 l = none

theorem LoadKeeps.atHome {n : Nat} {s t : State} (h : LoadKeeps n s t) {l : Nat} (a : AtHome s n l) : AtHome t n l :=
  ⟨h.own l a.1, by rw [h.l1]; exact a.2⟩

/-- Lines loaded at their home, onto a table of lines loaded before. -/
theorem foldl_loadLine_home {n : Nat} : ∀ (ls : List Nat) (s : State) (tab : SMap (List Byte)), (∀ l ∈ ls, AtHome s n l) →
    let r := ls.foldl (fun r l => ((r.1.loadLine n false l).1, tset r.2 l (r.1.loadLine n false l).2)) (s, tab)
    LoadKeeps n s r.1 ∧ ∀ k, tget r.2 k = if k ∈ ls then some (readBytes s.mem.bytes (64 * k) 64) else tget tab k
  | [], s, tab, _ => ⟨.refl n s, fun k => by simp⟩
  | l :: ls, s, tab, h => by
    obtain ⟨ho, hc⟩ := h l List.mem_cons_self
    obtain ⟨hk, hd⟩ := State.loadLine_home ho hc
    obtain ⟨hr, ht⟩ := foldl_loadLine_home ls (s.loadLine n false l).1 (tset tab l (s.loadLine n false l).2)
      fun k hm => hk.atHome (h k (List.mem_cons_of_mem l hm))
    refine ⟨hk.trans hr, fun k => (ht k).trans ?_⟩
    rw [hk.bytes, hd]
    by_cases hkl : k = l
    · subst hkl; simp
    · simp [hkl, tget_tset_ne _ _ hkl]

theorem State.loadLines_home {s : State} {n : Nat} {ls : List Nat} (h : ∀ l ∈ ls, AtHome s n l) :
    LoadKeeps n s (s.loadLines n false ls).1 ∧
      ∀ l ∈ ls, tget (s.loadLines n false ls).2 l = some (readBytes s.mem.bytes (64 * l) 64) := by
  obtain ⟨hk, ht⟩ := foldl_loadLine_home ls s [] h
  exact ⟨hk, fun l hl => (ht l).trans (if_pos hl)⟩

/-! ### The bytes of a range from its lines -/

@[simp] theorem readBytes_length (m : SMap Byte) (a n : Nat) : (readBytes m a n).length = n := by simp [readBytes]

theorem getD_readBytes (m : SMap Byte) (a : Nat) {n i : Nat} (h : i < n) : (readBytes m a n).getD i 0 = mget 0 m (a + i) := by
  simp [readBytes, h]

theorem readBytes_add (m : SMap Byte) (a k n : Nat) : readBytes m a (k + n) = readBytes m a k ++ readBytes m (a + k) n := by
  simp [readBytes, List.range_add, Nat.add_assoc]

theorem readBytes_part (m : SMap Byte) (a n : Nat) {o k : Nat} (h : o + k ≤ n) :
    ((readBytes m a n).drop o).take k = readBytes m (a + o) k := by
  obtain ⟨r, rfl⟩ := Nat.exists_eq_add_of_le h
  rw [Nat.add_assoc, readBytes_add, List.drop_left' (readBytes_length m a o), readBytes_add,
    List.take_left' (readBytes_length m (a + o) k)]

/-- The parts of a range lie in it, each in one line. -/
theorem mem_splitLines : ∀ {fuel a len : Nat} {p : Nat × Nat}, p ∈ splitLines fuel a len →
    p.1 % 64 + p.2 ≤ 64 ∧ a ≤ p.1 ∧ p.1 < a + len
  | fuel + 1, a, len, p, h => by
    unfold splitLines at h
    split at h
    · cases h
    · rcases List.mem_cons.mp h with rfl | h
      · dsimp only; omega
      · have := mem_splitLines h
        omega

/-- The parts of a range are the range (R328). -/
theorem flatMap_splitLines (m : SMap Byte) : ∀ {fuel a len : Nat}, (len ≠ 0 → a % 64 + len ≤ 64 * fuel) →
    ((splitLines fuel a len).flatMap fun p => readBytes m p.1 p.2) = readBytes m a len
  | 0, a, len, h => by
    have : len = 0 := by omega
    subst this; rfl
  | fuel + 1, a, len, h => by
    unfold splitLines
    split
    · subst_vars; rfl
    · rename_i hl
      have hf : len - min len (64 - a % 64) ≠ 0 →
          (a + min len (64 - a % 64)) % 64 + (len - min len (64 - a % 64)) ≤ 64 * fuel := fun hr => by
        rw [Nat.min_eq_right (by omega)] at hr ⊢
        have := h hl
        omega
      rw [List.flatMap_cons, flatMap_splitLines m hf, ← readBytes_add, Nat.add_sub_cancel' (Nat.min_le_left _ _)]

theorem mem_keys_tset {α : Type} (m : SMap α) (k j : Nat) (a : α) :
    k ∈ (tset m j a).map (·.1) ↔ k = j ∨ k ∈ m.map (·.1) := by
  induction m with
  | nil => simp [tset]
  | cons e m ih =>
    obtain ⟨i, b⟩ := e
    unfold tset
    split
    · simp
    · split
      · subst_vars; simp
      · rw [List.map_cons, List.mem_cons, ih, List.map_cons, List.mem_cons, or_left_comm]

theorem mem_keys_lines (ps : List (Nat × Nat)) (m : SMap Unit) (k : Nat) :
    k ∈ (ps.foldl (fun m p => tset m (lineOf p.1) ()) m).map (·.1) ↔ k ∈ ps.map (lineOf ·.1) ∨ k ∈ m.map (·.1) := by
  induction ps generalizing m with
  | nil => simp
  | cons p ps ih => rw [List.foldl_cons, ih, mem_keys_tset, List.map_cons, List.mem_cons, or_left_comm, or_assoc]

/-- The lines of a range, each once. -/
def linesOf (a len : Nat) : List Nat :=
  ((lineParts a len).foldl (fun (m : SMap Unit) p => tset m (lineOf p.1) ()) []).map (·.1)

theorem mem_linesOf {a len l : Nat} : l ∈ linesOf a len ↔ ∃ p ∈ lineParts a len, lineOf p.1 = l := by
  simp [linesOf, mem_keys_lines]

/-- The bytes of a range from a table of the data of its lines. -/
theorem bytesFrom_lines {m : SMap Byte} {tab : SMap (List Byte)} {a len : Nat}
    (h : ∀ l ∈ linesOf a len, tget tab l = some (readBytes m (64 * l) 64)) : bytesFrom tab a len = readBytes m a len := by
  have hf : len ≠ 0 → a % 64 + len ≤ 64 * (len / 64 + 2) := fun _ => by omega
  rw [bytesFrom, ← flatMap_splitLines m hf, lineParts]
  refine List.flatMap_congr fun p hp => ?_
  obtain ⟨hfit, -, -⟩ := mem_splitLines hp
  rw [h _ (mem_linesOf.mpr ⟨p, hp, rfl⟩), Option.getD_some, readBytes_part _ _ _ hfit, lineOf, Nat.div_add_mod]

/-- A run of local memory, its lines at their home, loads as it stands (R328). -/
theorem State.loadRuns_home {s : State} {n a len : Nat} (h : ∀ b, a ≤ b → b < a + len → AtHome s n (lineOf b)) :
    LoadKeeps n s (s.loadRuns n false [(a, len)]).1 ∧ (s.loadRuns n false [(a, len)]).2 = [readBytes s.mem.bytes a len] := by
  obtain ⟨hk, ht⟩ := State.loadLines_home (s := s) (n := n) (ls := linesOf a len) fun l hl => by
    obtain ⟨p, hp, rfl⟩ := mem_linesOf.mp hl
    obtain ⟨-, hlo, hhi⟩ := mem_splitLines hp
    exact h p.1 hlo hhi
  exact ⟨hk, congrArg (fun bs => [bs]) (bytesFrom_lines ht)⟩

/-! ### The copy of a buffer phase -/

theorem State.placeNext_placed {s : State} {n : Nat} (h : (s.core n).outq.all (·.placed) = true) : s.placeNext n = s := by
  have : (s.core n).outq.find? (fun a => !a.placed) = none := by simpa using h
  simp [State.placeNext, this]

theorem State.placeAll_placed {s : State} {n : Nat} (h : (s.core n).outq.all (·.placed) = true) : s.placeAll n = s := by
  unfold State.placeAll
  generalize List.range _ = l
  induction l with
  | nil => rfl
  | cons i l ih => rw [List.foldl_cons, State.placeNext_placed h, ih]

/-- A copy that starts is counted in CNTAS (R86). -/
def Ctx.countAs (x : Ctx) : Ctx := { x with cnt := { x.cnt with as := x.cnt.as + 1 } }

/-- A copy of local memory, the accesses of its core placed: its bytes are read and go to the scratchpad, it is counted, and it
stays outstanding (R86). -/
theorem State.startCopy_local {s : State} {n : Nat} (c : Nat) (src : DWord) (dst : Nat) {len : Nat} (pa : Nat) (hl : 0 < len)
    (hp : (s.core n).outq.all (·.placed) = true) :
    let r := ({ s with fresh := s.fresh + 1 } : State).loadRuns n false [(pa, len)]
    ∃ w : Async, w.copy = true ∧ w.writes = [(dst, len)] ∧ s.startCopy n c src dst len [(none, pa, len)] =
      ((r.1.writeSpad n [(dst, r.2.flatten)]).modCtx n c Ctx.countAs).modCore n fun k => { k with async := k.async ++ [w] } := by
  have ha : ({ s with fresh := s.fresh + 1 } : State).placeAll n = { s with fresh := s.fresh + 1 } := State.placeAll_placed hp
  simp only [State.startCopy, if_neg hl.ne', State.takeId, ha]
  exact ⟨_, rfl, rfl, rfl⟩

theorem State.writeSpad_core (s : State) (n a : Nat) (bs : List Byte) : ∃ bad, (s.writeSpad n [(a, bs)]).core n =
    { s.core n with spad := writeBytes (s.core n).spad a bs, spadBad := bad } :=
  ⟨_, State.core_setCore _ _ _⟩

/-- What a copy of local memory leaves (R86): the count, the bytes in the scratchpad, the operation, and memory as it was. -/
theorem State.startCopy_leaves {s : State} {n c : Nat} (src : DWord) (dst : Nat) {len pa : Nat} {x : Ctx} (hx : s.ctx? n c = some x)
    (hl : 0 < len) (hp : (s.core n).outq.all (·.placed) = true)
    (hm : ∀ b, pa ≤ b → b < pa + len → AtHome s n (lineOf b)) :
    let u := s.startCopy n c src dst len [(none, pa, len)]
    u.ctx? n c = some x.countAs ∧
    (∀ b, mget 0 (u.core n).spad b = if dst ≤ b ∧ b < dst + len then s.byte (pa + (b - dst)) else mget 0 (s.core n).spad b) ∧
    (∃ w : Async, (u.core n).async = (s.core n).async ++ [w] ∧ w.copy = true ∧ w.writes = [(dst, len)]) ∧
    ∀ b, u.byte b = s.byte b := by
  obtain ⟨w, hcopy, hwrites, hu⟩ := State.startCopy_local (s := s) c src dst pa hl hp
  obtain ⟨hk, hd⟩ := State.loadRuns_home (s := { s with fresh := s.fresh + 1 }) hm
  obtain ⟨T, hT⟩ := hk.core
  dsimp only at hu ⊢
  rw [hd] at hu
  generalize ({ s with fresh := s.fresh + 1 } : State).loadRuns n false [(pa, len)] = r at *
  obtain ⟨bad, hs⟩ := State.writeSpad_core r.1 n dst [readBytes s.mem.bytes pa len].flatten
  rw [hT] at hs
  have hcx : (r.1.writeSpad n [(dst, [readBytes s.mem.bytes pa len].flatten)]).ctx n c = x := by
    simp only [State.ctx, State.ctx?, hs]
    exact congrArg (Option.getD · {}) hx
  have hcore : ((s.startCopy n c src dst len [(none, pa, len)])).core n = { s.core n with
      t := T, spad := writeBytes (s.core n).spad dst (readBytes s.mem.bytes pa len), spadBad := bad
      ctxs := tset (s.core n).ctxs c x.countAs, async := (s.core n).async ++ [w] } := by
    rw [hu, State.modCore, State.core_setCore, State.modCtx, hcx, State.core_setCtx, hs]
    simp [State.core]
  refine ⟨?_, fun b => ?_, ⟨w, ?_, hcopy, hwrites⟩, fun b => ?_⟩
  · simp [State.ctx?, hcore]
  · rw [hcore]
    dsimp only
    rw [mget_writeBytes, readBytes_length]
    split
    · exact getD_readBytes _ _ (by omega)
    · rfl
  · rw [hcore]
  · rw [hu]
    exact congrArg (mget 0 · b) hk.bytes

/-! ### Notices -/

theorem opptCap_opptOf (cap : Nat) (settle : Bool) (tgt cur : Nat) : opptCap (opptOf cap settle tgt cur) = cap % 8 := by
  have : settle.toNat ≤ 1 := Bool.toNat_le settle
  rw [opptCap, opptOf, BitVec.toNat_ofNat]
  omega

theorem opptCap_followCap (k : Core) : opptCap k.followCap.oppt = opptCap k.oppt := by
  unfold Core.followCap
  split
  · rw [Core.startMove, opptCap_opptOf, opptCap]
    omega
  · rfl

theorem opptCap_setCap (k : Core) (cap : Nat) : opptCap (k.setCap cap).oppt = cap % 8 := by
  rw [Core.setCap, opptCap_followCap, opptCap_opptOf]

/-- The CAP that stands without a notice is one of the eight points. -/
theorem Notice.capWithout_lt (x : Notice) (n : Nat) {cap : Nat} (h : cap < 8) : x.capWithout n cap < 8 := by
  unfold Notice.capWithout
  split
  · split
    · exact BitVec.isLt _
    · exact h
  · exact h

/-- A notice applied to a core that runs its job (R351, log 45). -/
theorem State.applyNotice_applies {s : State} {n : Nat} {job : BitVec 32} {x : Notice}
    (hx : tget s.board.notices job.toNat = some x) (hn : n ∉ x.applied) (hj : (s.core n).runsJob job = true) :
    opptCap ((s.applyNotice n job).core n).oppt =
        max (x.capWithout n (opptCap (s.core n).oppt)) (min 7 x.point.toNat) ∧
      ∃ y, tget (s.applyNotice n job).board.notices job.toNat = some y ∧ y.point = x.point ∧ y.until_ = x.until_ ∧
        n ∈ y.applied := by
  have hlt : x.capWithout n (opptCap (s.core n).oppt) < 8 := x.capWithout_lt n (Nat.mod_lt _ (by decide))
  have hskip : ¬(x.applied.contains n = true ∨ (!(s.core n).runsJob job) = true) := by simp [hn, hj]
  simp only [State.applyNotice, hx, if_neg hskip]
  refine ⟨?_, _, tget_tset_self _ _ _, rfl, rfl, List.mem_cons_self⟩
  rw [State.modCore, State.core_setCore, opptCap_setCap]
  omega

/-! ### Shape records -/

/-- Pending writes of distance 1, one for each of a list (R39). -/
theorem Ctx.foldl_push {α : Type} (w : α → RegWrite) (l : List α) (x : Ctx) : l.foldl (fun x i => x.push 1 (w i)) x =
    { x with pend := x.pend ++ l.map fun i => { due := x.count + 1, dest := w i } } := by
  induction l generalizing x with
  | nil => simp
  | cons i l ih => rw [List.foldl_cons, ih]; simp [Ctx.push]

/-- The loop counters of a list set (R103). -/
theorem Ctx.foldl_setCounter (v : Nat → DWord) (l : List Nat) (x : Ctx) :
    l.foldl (fun x i => { x with loops := x.loops.setCounter i (v i) }) x =
      { x with loops := { x.loops with lc := l.foldl (fun m i => mset 0 m i (v i)) x.loops.lc } } := by
  induction l generalizing x with
  | nil => rfl
  | cons i l ih => rw [List.foldl_cons, ih]; rfl

theorem mget_foldl_mset {α : Type} [DecidableEq α] (d : α) (v : Nat → α) (l : List Nat) (m : SMap α) (k : Nat) :
    mget d (l.foldl (fun m i => mset d m i (v i)) m) k = if k ∈ l then v k else mget d m k := by
  induction l generalizing m with
  | nil => simp
  | cons i l ih =>
    rw [List.foldl_cons, ih]
    by_cases h : k = i
    · subst h; simp
    · simp [h, mget_mset_ne d m (v i) h]

/-- What the words of a shape record make of a context (R16, R89). -/
def Ctx.shaped (x : Ctx) (ws : List DWord) : Ctx :=
  { x with
    loops := { x.loops with lc := (List.range 4).foldl (fun m i => mset 0 m i (ws.getD i 0)) x.loops.lc }
    pend := x.pend ++ (List.range 7).map fun i => { due := x.count + 1, dest := .p (i + 1) ((ws.getD 4 0).getLsbD (i + 1)) } }

theorem Ctx.shaped_counter (x : Ctx) (ws : List DWord) {i : Nat} (h : i < 4) : (x.shaped ws).loops.counter i = ws.getD i 0 :=
  (mget_foldl_mset 0 (ws.getD · 0) _ _ i).trans (if_pos (List.mem_range.mpr h))

theorem shapeLd_loads {s : State} {e : Env} (f : Fields) {ws : List DWord} (h : Runs s e)
    (ha : tget e.b.answers e.p.pos = some (.words ws)) :
    exec (.shapeLd f) s = .next ((s.setCtx e.n e.c (e.x.shaped ws)).advance e) := by
  simp only [exec, execShapeLd, runAnswered_uses _ _ h ha rfl (fun _ _ => Answer.noConfusion), SlotRes.outcome,
    modCtx_acting h.env, Ctx.foldl_setCounter fun i => ws.getD i 0, Ctx.foldl_push]
  rfl

section Asks
variable {s t : State} {e : Env} (f : Fields) (h : Asks s e)
include h

theorem shapeLd_sends : exec (.shapeLd f) s = .next ((askShapeLd f e s).sent s e) := by
  simp only [exec, execShapeLd, runAnswered_sends _ _ h]

/-- A shape record that is not aligned (R89). -/
theorem shapeLd_misaligned (ha : (e.sA f).toNat % 8 ≠ 0) :
    exec (.shapeLd f) s = .next (s.refuse e causeMisalign (some (e.sA f))) := by
  simp [shapeLd_sends f h, askShapeLd, ha, SlotRes.sent]

theorem shapeLd_traps {cause : BitVec 8} {taddr : DWord} (ha : (e.sA f).toNat % 8 = 0)
    (hr : s.readBlocking e (e.sA f) 40 = .trap t cause taddr) :
    exec (.shapeLd f) s = .next (t.refuse e cause (some taddr)) := by
  simp [shapeLd_sends f h, askShapeLd, ha, hr, SlotRes.sent]

theorem shapeLd_waits (ha : (e.sA f).toNat % 8 = 0) (hr : s.readBlocking e (e.sA f) 40 = .wait t) : exec (.shapeLd f) s =
    .next ((t.modCtx e.n e.c fun x => { x with run := .blocked .read }).release e.n e.c) := by
  simp [shapeLd_sends f h, askShapeLd, ha, hr, SlotRes.sent]

/-- A shape record is for a context without an active loop (R89). -/
theorem shapeLd_looping {bs : List Byte} (ha : (e.sA f).toNat % 8 = 0) (hr : s.readBlocking e (e.sA f) 40 = .data t bs)
    (hl : ∃ l ∈ e.x.loops.state, l.2.active = true) : exec (.shapeLd f) s = .next (s.refuse e causeResource none) := by
  have hl : (e.x.loops.state.any fun l => l.2.active) = true := List.any_eq_true.mpr hl
  simp [shapeLd_sends f h, askShapeLd, ha, hr, hl, SlotRes.sent]

theorem shapeLd_reads {bs : List Byte} (ha : (e.sA f).toNat % 8 = 0) (hr : s.readBlocking e (e.sA f) 40 = .data t bs)
    (hl : ∀ l ∈ e.x.loops.state, l.2.active = false) : exec (.shapeLd f) s = .next ((((t.hear e.n).irrevocable e.n e.c).reply e
      (.words ((List.range 5).map fun i => BitVec.ofNat 64 (fieldAt bs (8 * i) 8)))).advance e) := by
  have hl : (e.x.loops.state.any fun l => l.2.active) = false := by simpa using hl
  simp [shapeLd_sends f h, askShapeLd, ha, hr, hl, SlotRes.sent]

end Asks

/-! ### Buffer swaps -/

/-- The fields of a descriptor as they stand in its bytes (R86). -/
def descFields (bs : List Byte) : InputDesc := ⟨BitVec.ofNat 64 (fieldAt bs 0 8), fieldAt bs 8 4, fieldAt bs 12 4⟩

/-- Check 3 of R86. -/
def LegalDesc (bs : List Byte) (size : Nat) : Prop :=
  (descFields bs).dst % 256 = 0 ∧ (descFields bs).len % 256 = 0 ∧ (descFields bs).dst + (descFields bs).len ≤ size ∧
    fieldAt bs 16 16 = 0

theorem inputDesc_legal {bs : List Byte} {size : Nat} (h : LegalDesc bs size) : inputDesc bs size = some (descFields bs) := by
  obtain ⟨hdst, hlen, hsize, hrest⟩ := h
  refine if_neg ?_
  rintro (h | h | h | h)
  exacts [h hdst, h hlen, Nat.not_lt.mpr hsize h, h hrest]

theorem inputDesc_illegal {bs : List Byte} {size : Nat} (h : ¬LegalDesc bs size) : inputDesc bs size = none := by
  refine if_pos (by_contra fun hn => h ?_)
  simp only [not_or, not_not, Nat.not_lt] at hn
  exact hn

section Swap
variable {s t u : State} {e : Env} (f : Fields)

section Asks
variable (h : Asks s e)
include h

theorem bswap_sends : exec (.bswap f) s = .next ((askBswap f e s).sent s e) := by
  simp only [exec, execBswap, runAnswered_sends _ _ h]

/-- A descriptor that is not aligned (R86). -/
theorem bswap_misaligned (ha : (e.sA f).toNat % 32 ≠ 0) :
    exec (.bswap f) s = .next (s.refuse e causeMisalign (some (e.sA f))) := by
  simp [bswap_sends f h, askBswap, ha, SlotRes.sent]

theorem bswap_traps {cause : BitVec 8} {taddr : DWord} (ha : (e.sA f).toNat % 32 = 0)
    (hr : s.readBlocking e (e.sA f) 32 = .trap t cause taddr) :
    exec (.bswap f) s = .next (t.refuse e cause (some taddr)) := by
  simp [bswap_sends f h, askBswap, ha, hr, SlotRes.sent]

theorem bswap_waits (ha : (e.sA f).toNat % 32 = 0) (hr : s.readBlocking e (e.sA f) 32 = .wait t) : exec (.bswap f) s =
    .next ((t.modCtx e.n e.c fun x => { x with run := .blocked .read }).release e.n e.c) := by
  simp [bswap_sends f h, askBswap, ha, hr, SlotRes.sent]

variable {bs : List Byte} (ha : (e.sA f).toNat % 32 = 0) (hr : s.readBlocking e (e.sA f) 32 = .data t bs)
include ha hr

theorem bswap_illegal (hd : ¬LegalDesc bs e.x.task.hdr.scratch) :
    exec (.bswap f) s = .next (s.refuse e causeResource none) := by
  simp [bswap_sends f h, askBswap, ha, hr, inputDesc_illegal hd, SlotRes.sent]

variable (hd : LegalDesc bs e.x.task.hdr.scratch)
include hd

/-- The lowest failure of the source (R86). -/
theorem bswap_sourceFails {g : Failure} (hg : t.copyRuns e.n e.px (descFields bs).src (descFields bs).len = .error g) :
    exec (.bswap f) s = .next (g.s.refuse e g.cause (some g.taddr)) := by
  simp [bswap_sends f h, askBswap, ha, hr, inputDesc_legal hd, hg, SlotRes.sent]

variable {ps : List (Option Nat × Nat × Nat)}
  (hu : t.copyRuns e.n e.px (descFields bs).src (descFields bs).len = .ok (u, ps))
include hu

/-- A destination in a window or a tile that is not the context's (R86). -/
theorem bswap_foreign {g : DWord}
    (hf : (u.core e.n).foreignRange e.x [(e.x.task.spBase + (descFields bs).dst, (descFields bs).len)] = some g) :
    exec (.bswap f) s = .next (s.refuse e causeProtect (some g)) := by
  simp [bswap_sends f h, askBswap, ha, hr, inputDesc_legal hd, hu, hf, SlotRes.sent]

/-- A copy whose descriptor has passed its checks waits for its destination, or is the answer (R82, R86). -/
theorem bswap_checked
    (hf : (u.core e.n).foreignRange e.x [(e.x.task.spBase + (descFields bs).dst, (descFields bs).len)] = none) :
    exec (.bswap f) s =
      if (u.core e.n).rangesBusy [] [(e.x.task.spBase + (descFields bs).dst, (descFields bs).len)] then
        .next (s.modCtx e.n e.c fun x => { x with stalled := true })
      else .next ((u.reply e (.copy (descFields bs).src (e.x.task.spBase + (descFields bs).dst) (descFields bs).len ps)).advance
        e) := by
  have hask : askBswap f e s =
      if (u.core e.n).rangesBusy [] [(e.x.task.spBase + (descFields bs).dst, (descFields bs).len)] then .stall
      else .done (u.reply e (.copy (descFields bs).src (e.x.task.spBase + (descFields bs).dst) (descFields bs).len ps)) := by
    simp [askBswap, ha, hr, inputDesc_legal hd, hu, hf]
  rw [bswap_sends f h, hask]
  split <;> rfl

end Asks

section Runs
variable {src : DWord} {dst len : Nat} {ps : List (Option Nat × Nat × Nat)} (h : Runs s e)
  (ha : tget e.b.answers e.p.pos = some (.copy src dst len ps))
include h ha

theorem bswap_uses : exec (.bswap f) s = .next (SlotRes.outcome s e
    (if e.x.task.record.prot ∧ !e.x.landed then .block .landings s
      else if s.copyBusy e.x.task.uid ps then .stall else .done (s.swapPhase e f src dst len ps))) := by
  simp only [exec, execBswap, runAnswered_uses _ _ h ha rfl (fun _ _ => Answer.noConfusion)]

/-- In a protected kernel a swap waits for the landings of its context (R278). -/
theorem bswap_lands (hp : e.x.task.record.prot = true) (hl : e.x.landed = false) : exec (.bswap f) s =
    .next ((s.modCtx e.n e.c fun x => { x with run := .blocked .landings }).release e.n e.c) := by
  simp [bswap_uses f h ha, hp, hl, SlotRes.outcome]

/-- A swap comes after earlier accesses to the bytes of peers that it copies (R121). -/
theorem bswap_swaps (hp : e.x.task.record.prot = false ∨ e.x.landed = true) : exec (.bswap f) s = .next
    (if s.copyBusy e.x.task.uid ps then s.modCtx e.n e.c fun x => { x with stalled := true }
      else (s.swapPhase e f src dst len ps).advance e) := by
  have hn : ¬(e.x.task.record.prot = true ∧ (!e.x.landed) = true) := by rcases hp with hp | hp <;> simp [hp]
  rw [bswap_uses f h ha, if_neg hn]
  split <;> rfl

end Runs

end Swap

/-- What a swap of an unprotected task leaves (R86, R264). -/
theorem State.swapPhase_unprotected (s : State) (e : Env) (f : Fields) (src : DWord) (dst len : Nat)
    (ps : List (Option Nat × Nat × Nat)) (hp : e.x.task.record.prot = false) :
    s.swapPhase e f src dst len ps = ((s.startCopy e.n e.c src dst len ps).modCtx e.n e.c fun x =>
      { x with buf := { x.buf with
          k := x.buf.k + 1, desc := some (e.sA f), irrevocable := false, cancelled := false } }.putS e.b.latch f.d 1
        (BitVec.ofNat 64 (x.buf.k + 1))).saveStores e.n e.x [(48, natLe 8 (e.x.buf.k + 1))] := by
  simp only [State.swapPhase, hp]
  rfl

/-- A record or a descriptor that was refused (R82). -/
theorem phaseRequest_refused {s : State} {e : Env} (f : Fields) {cause : BitVec 8} {taddr : Option DWord} (h : Runs s e)
    (ha : tget e.b.answers e.p.pos = some (.refused cause taddr)) : ∀ i ∈ [Instr.shapeLd f, .bswap f],
    exec i s = .next (s.slotTrap e e.p.pos cause (taddr.getD e.slotAddr)) := by
  refine List.forall_mem_cons.mpr ⟨?_, List.forall_mem_singleton.mpr ?_⟩
  · simp only [exec, execShapeLd, runAnswered_refused _ _ h ha]
  · simp only [exec, execBswap, runAnswered_refused _ _ h ha]

/-- `phase` counts, takes its COMM bit and applies the notices of the job (R85, R351). -/
theorem phase_runs {s : State} {e : Env} (f : Fields) (h : Runs s e) : exec (.phase f) s = .next (((s.setCtx e.n e.c
    ({ e.x with phases := e.x.phases + 1, comm := (e.sA f).getLsbD 0 }.putS e.b.latch f.d 1
      (BitVec.ofNat 64 (e.x.phases + 1)))).applyNotices e.n).advance e) := by
  simp only [exec, execPhase, runSlot_runs _ h, SlotRes.outcome, modCtx_acting h.env]

/-- Settles O47: one rule for each check and each commit; the copy of local memory reads lines that lie at their homes. -/
theorem phasesAndShapes : Obligations.PhasesAndShapes := by
  refine ⟨fun s e f h => ?_, fun s e f h => ?_, fun s e f src dst len ps hp => ?_,
    fun s n c src dst len pa x hx hl hp hm => ?_, fun s n job x hx hn hj => ?_⟩
  · exact ⟨shapeLd_misaligned f h, fun t cause taddr => shapeLd_traps f h, fun t => shapeLd_waits f h,
      fun t bs ha hr => ⟨shapeLd_looping f h ha hr, shapeLd_reads f h ha hr⟩,
      bswap_misaligned f h, fun t cause taddr => bswap_traps f h, fun t => bswap_waits f h,
      fun t bs ha hr => ⟨bswap_illegal f h ha hr, fun hd => ⟨fun g => bswap_sourceFails f h ha hr hd,
        fun u ps hu => ⟨fun g => bswap_foreign f h ha hr hd hu, bswap_checked f h ha hr hd hu⟩⟩⟩⟩
  · exact ⟨phase_runs f h, fun ws ha => ⟨e.x.shaped ws, shapeLd_loads f h ha, fun i => Ctx.shaped_counter e.x ws, rfl, rfl⟩,
      fun src dst len ps ha => ⟨bswap_swaps f h ha, bswap_lands f h ha⟩, fun cause taddr => phaseRequest_refused f h⟩
  · exact ⟨State.swapPhase_unprotected s e f src dst len ps hp, by simp [State.startCopy]⟩
  · exact State.startCopy_leaves src dst hx hl hp hm
  · exact State.applyNotice_applies hx hn hj

end Sys2Proof.Machine
end

section
/-! PROOFS. Control registers (R44, R93, R124 to R127, R161, R209, R286, R311). -/

namespace Sys2Proof.Machine

/-- STATUS in user privilege: every bit but EVTEN stays (R125). -/
theorem getLsbD_setBit_evten (c : BitVec 7) (b : Bool) {k : Nat} (hk : k < 7) :
    (setBit c 5 b).getLsbD k = if k = 5 then b else c.getLsbD k := by
  unfold setBit
  have : k = 0 ∨ k = 1 ∨ k = 2 ∨ k = 3 ∨ k = 4 ∨ k = 5 ∨ k = 6 := by omega
  cases b <;> rcases this with rfl | rfl | rfl | rfl | rfl | rfl | rfl <;> simp

/-- The values that FMODE takes (R127). -/
theorem fmodeOk_iff (v : DWord) : fmodeOk v = true ↔ v.toNat < 2 ^ 11 ∧ v.getLsbD 3 = false ∧ v.toNat % 8 ≤ 4 := by
  simp [fmodeOk, and_assoc]

/-- `mtc` of a register without a rule of its own takes the value that the spec gives (R124). -/
theorem Ctl.writePlain_eq (c : Ctl) (n : Nat) (v : DWord) : c.writePlain n v = plainWrite c n v := rfl

section Writes
variable {s : State} {e : Env} (f : Fields) (h : Runs s e)
include h

theorem mtc_plain {c : Ctl} (hc : plainWrite e.x.ctl f.d.toNat (e.sA f) = some c) :
    exec (.mtc f) s = .next ((s.setCtx e.n e.c { e.x with ctl := c }).advance e) := by
  simp only [exec, execMtc, runSlot_runs _ h, Ctl.writePlain_eq, hc, SlotRes.outcome]

theorem mtcStatus_system (hp : e.b.latch.ctl.priv = true) : exec (.mtcStatus f) s = .next ((s.setCtx e.n e.c
    { e.x with ctl := { e.x.ctl with status := (e.sA f).setWidth 7 } }).advance e) := by
  simp only [exec, execMtcStatus, runLocal_runs _ h, Ctl.writeStatus, hp, if_true]

theorem mtcStatus_user (hp : e.b.latch.ctl.priv = false) : exec (.mtcStatus f) s = .next ((s.setCtx e.n e.c
    { e.x with ctl := { e.x.ctl with status := setBit e.x.ctl.status 5 ((e.sA f).getLsbD 5) } }).advance e) := by
  simp [exec, execMtcStatus, runLocal_runs _ h, Ctl.writeStatus, hp]

theorem mtcFflags_takes : exec (.mtcFflags f) s = .next ((s.setCtx e.n e.c
    { e.x with ctl := { e.x.ctl with fflags := (e.sA f).setWidth 5 } }).advance e) := by
  simp only [exec, execMtcFflags, runCreg_runs f _ h]

theorem mtcEmask_takes : exec (.mtcEmask f) s = .next ((s.setCtx e.n e.c
    { e.x with ctl := { e.x.ctl with emask := (e.sA f).setWidth 3 } }).advance e) := by
  simp only [exec, execMtcEmask, runCreg_runs f _ h]

/-- A new key starts the generator anew (R311). -/
theorem mtcRngkey_takes : exec (.mtcRngkey f) s = .next ((s.setCtx e.n e.c
    { e.x with rqAhead := 0, ctl := { e.x.ctl with rngkey := e.sA f, qpos := 0 } }).advance e) := by
  simp only [exec, execMtcRngkey, runLocal_runs _ h, Ctx.setKey]

/-- TBUDGET is clamped (R93). -/
theorem mtcTbudget_takes : exec (.mtcTbudget f) s = .next ((s.setCtx e.n e.c { e.x with
    ctl := { e.x.ctl with tbudget := BitVec.ofInt 32 (max 0 (min (e.sA f).toInt 0xFFFFFFFF)) } }).advance e) := by
  simp only [exec, execMtcTbudget, runCreg_runs f _ h, clampBudget]

theorem mtcXcnt_takes : exec (.mtcXcnt f) s = .next ((s.setCtx e.n e.c { e.x with
    ctl := { e.x.ctl with xcnt := e.sA f }, buf := { e.x.buf with xof := 0, xnv := 0 } }).advance e) := by
  simp only [exec, execMtcXcnt, runLocal_runs _ h, Ctx.setXcnt]

theorem mtcFmode_takes (hv : fmodeOk (e.sA f) = true) : exec (.mtcFmode f) s = .next ((s.setCtx e.n e.c
    { e.x with ctl := { e.x.ctl with fmode := (e.sA f).setWidth 11 } }).advance e) := by
  simp only [exec, execMtcFmode, runSlot_runs _ h, hv, if_true, SlotRes.outcome]

theorem mtcFmode_traps (hv : fmodeOk (e.sA f) = false) :
    exec (.mtcFmode f) s = .next (s.slotTrap e e.p.pos 0x04 e.slotAddr) := by
  simp only [exec, execMtcFmode, runSlot_runs _ h, hv, SlotRes.outcome]
  rfl

theorem mtcRngsrc_takes (hv : rngsrcOk (e.sA f) = true) : exec (.mtcRngsrc f) s = .next ((s.setCtx e.n e.c
    { e.x with ctl := { e.x.ctl with rngsrc := e.sA f } }).advance e) := by
  simp only [exec, execMtcRngsrc, runSlot_runs _ h, hv, if_true, SlotRes.outcome]

theorem mtcRngsrc_traps (hv : rngsrcOk (e.sA f) = false) :
    exec (.mtcRngsrc f) s = .next (s.slotTrap e e.p.pos 0x04 e.slotAddr) := by
  simp only [exec, execMtcRngsrc, runSlot_runs _ h, hv, SlotRes.outcome]
  rfl

theorem mtcSlotmap_takes (hv : slotmapOk ((e.sA f).setWidth 9) = true) : exec (.mtcSlotmap f) s =
    .next ((s.modCore e.n fun k => { k with slotmap := (e.sA f).setWidth 9 }).advance e) := by
  simp only [exec, execMtcSlotmap, runSlot_runs _ h, hv, if_true, SlotRes.outcome]

theorem mtcSlotmap_traps (hv : slotmapOk ((e.sA f).setWidth 9) = false) :
    exec (.mtcSlotmap f) s = .next (s.slotTrap e e.p.pos 0x04 e.slotAddr) := by
  simp only [exec, execMtcSlotmap, runSlot_runs _ h, hv, SlotRes.outcome]
  rfl

end Writes

/-- Settles O19: one rule for each control register, and the bits of STATUS that user privilege leaves. -/
theorem controlRegisterWrites : Obligations.ControlRegisterWrites := by
  intro s e f h
  refine ⟨fun c => mtc_plain f h, mtcStatus_system f h, fun hp => ⟨_, fun k => getLsbD_setBit_evten _ _, mtcStatus_user f h hp⟩,
    mtcFflags_takes f h, fun hw h3 hm => mtcFmode_takes f h ((fmodeOk_iff _).mpr ⟨hw, h3, hm⟩), fun hv => mtcFmode_traps f h ?_,
    mtcEmask_takes f h, mtcRngkey_takes f h, mtcRngsrc_takes f h, mtcRngsrc_traps f h, mtcTbudget_takes f h, mtcXcnt_takes f h,
    mtcSlotmap_takes f h, mtcSlotmap_traps f h⟩
  rw [Bool.eq_false_iff, Ne, fmodeOk_iff]
  rintro ⟨hw, h3, hm⟩
  rcases hv with hv | hv | hv
  · omega
  · exact Bool.false_ne_true (h3.symm.trans hv)
  · omega

end Sys2Proof.Machine
end

section
/-! PROOFS. The ends of bundles and tasks (R79 to R81, R230, R235, R259, R268, R272). -/

namespace Sys2Proof.Machine

/-! ### The slots that act when their bundle ends -/

theorem atEnd_joins {s : State} {e : Env} (h : Runs s e) {i : Instr} {a : EndAct}
    (hi : (i, a) ∈ [(Instr.yield, EndAct.yield), (.exit, .exit), (.rfe, .rfe), (.rfu, .rfu)]) :
    exec i s = .next ((s.modBundle e.n e.c fun b => { b with acts := b.acts ++ [a] }).advance e) := by
  simp only [List.mem_cons, Prod.mk.injEq, List.not_mem_nil, or_false] at hi
  rcases hi with ⟨rfl, rfl⟩ | ⟨rfl, rfl⟩ | ⟨rfl, rfl⟩ | ⟨rfl, rfl⟩
  · simp only [exec, execYield, runAtEnd_runs _ h]
  · simp only [exec, execExit, runAtEnd_runs _ h]
  · simp only [exec, execRfe, runAtEnd_runs _ h]
  · simp only [exec, execRfu, runAtEnd_runs _ h]

/-! ### What a bundle's end does -/

theorem State.ctx_of_ctx? {s : State} {n c : Nat} {x : Ctx} (h : s.ctx? n c = some x) : s.ctx n c = x := by
  simp [State.ctx, h]

section Ends
variable {s : State} {n c : Nat} {x : Ctx} {b : Bundle} (hx : s.ctx? n c = some x) (hb : x.bundle = some b)
include hx hb

theorem State.finish_exit (ha : b.acts = [.exit]) :
    s.finish n c = (s.modCtx n c (Ctx.charge s.clock)).endTask n c x.frame.isSome := by
  simp [State.finish, State.ctx_of_ctx? hx, hb, ha, State.finishRest]

theorem State.finish_rfe (ha : b.acts = [.rfe]) : s.finish n c = s.returnTrap n c b := by
  simp [State.finish, State.ctx_of_ctx? hx, hb, ha]

theorem State.finish_rfu (ha : b.acts = [.rfu]) (hr : x.pend.all PWrite.ready = true) :
    s.finish n c = s.returnEvent n c b := by
  simp only [State.finish, State.finishRest, State.ctx_of_ctx? hx, hb, ha, hr]
  rfl

/-- A bundle that neither exits nor returns. -/
theorem State.finish_plain (ha : EndAct.exit ∉ b.acts ∧ EndAct.rfe ∉ b.acts ∧ EndAct.rfu ∉ b.acts) :
    s.finish n c = s.finishPlain n c b := by
  simp [State.finish, State.finishRest, State.ctx_of_ctx? hx, hb, ha]

end Ends

/-! ### Giving up the core -/

/-- What the end of a bundle keeps of its context, whatever the loops and the next bundle. -/
def Ctx.SameTask (x y : Ctx) : Prop := y.regs = x.regs ∧ y.run = x.run ∧ y.fires = x.fires ∧ y.task = x.task

theorem Ctx.putQs_sameTask (x : Ctx) (qs : List (Nat × Bool)) : x.SameTask (x.putQs qs) := by
  rw [Ctx.putQs, Ctx.foldl_push fun w : Nat × Bool => RegWrite.q w.1 w.2]
  exact ⟨rfl, rfl, rfl, rfl⟩

/-- The context that holds a core gives it up (R79). -/
theorem State.release_running {s : State} {n c : Nat} (h : (s.core n).running = some c) :
    (s.release n c).core n = { s.core n with running := none, last := c } := by
  simp [State.release, State.modCore, h]

theorem Core.fire_ctxs (k : Core) (x : Ctx) : (k.fire x).ctxs = k.ctxs ∧ (k.fire x).running = k.running := by
  unfold Core.fire
  split <;> exact ⟨rfl, rfl⟩

theorem Core.foldl_fire_ctxs {α : Type} (x : Ctx) (l : List α) (k : Core) :
    (l.foldl (fun k _ => k.fire x) k).ctxs = k.ctxs ∧ (l.foldl (fun k _ => k.fire x) k).running = k.running := by
  induction l generalizing k with
  | nil => exact ⟨rfl, rfl⟩
  | cons a l ih =>
    obtain ⟨hc, hr⟩ := k.fire_ctxs x
    rw [List.foldl_cons, (ih _).1, (ih _).2, hc, hr]
    exact ⟨rfl, rfl⟩

/-- A context that gives up its core with its leg at an end. -/
theorem State.gives_up {s : State} {n c : Nat} {y : Ctx} (hy : s.ctx? n c = some y) (hr : (s.core n).running = some c) :
    let t := (s.modCtx n c fun x => { x with leg := {} }).release n c
    (t.core n).running = none ∧ (t.core n).last = c ∧ t.ctx? n c = some { y with leg := {} } := by
  have hrun : ((s.modCtx n c fun x => { x with leg := {} }).core n).running = some c := by
    rw [State.modCtx, State.core_setCtx]; exact hr
  dsimp only
  rw [State.ctx?, State.release_running hrun]
  refine ⟨rfl, rfl, ?_⟩
  rw [State.modCtx, State.core_setCtx, State.ctx_of_ctx? hy]
  exact tget_tset_self _ _ _

/-- How the loops of a context stand at the end of a bundle (R102, R105). -/
def Ctx.loopEnd (x : Ctx) (b : Bundle) : LoopEnd :=
  match b.transfer with
  | some _ => ⟨x.loops, [], none, false, x.leg.draining⟩
  | none => x.loops.endOf b.addr x.actionDue x.leg.draining

/-- A context at the end of a bundle, before the bundle's firings and yields. -/
def Ctx.bundleEnd (x : Ctx) (b : Bundle) (clock : Nat) : Ctx :=
  let e := x.loopEnd b
  let next := match b.transfer with
    | some t => t
    | none => .at (e.next.getD b.next)
  let y := ({ x with loops := e.loops, leg := { x.leg with draining := e.draining } }.putQs e.qs).afterBundle clock next
  if b.acts.contains .snap then y.takeSnapshot else y

/-- The firings of a gang member at the end of a bundle (R255, R256). -/
def State.fireAll (s : State) (n c : Nat) (x : Ctx) (fires : List Nat) : State :=
  if fires ≠ [] ∧ x.task.gslot.isSome then
    (s.modCtx n c fun x => { x with fires := x.fires + BitVec.ofNat 32 fires.length, run := .edges (fires.foldl (· + ·) 0) }).modCore
      n fun q => fires.foldl (fun q _ => q.fire x) q
  else s

theorem State.finishPlain_eq (s : State) (n c : Nat) (b : Bundle) : s.finishPlain n c b =
    let x := s.ctx n c
    let y := x.bundleEnd b s.clock
    let t := (s.setCtx n c y).fireAll n c y b.firings
    if b.firings ≠ [] ∨ b.acts.contains .yield then
      if x.actionDue then (t.takeAction n c).release n c else (t.modCtx n c fun x => { x with leg := {} }).release n c
    else if (x.loopEnd b).take then t.takeAction n c else t := rfl

theorem Ctx.bundleEnd_sameTask (x : Ctx) (b : Bundle) (clock : Nat) : x.SameTask (x.bundleEnd b clock) := by
  have h := Ctx.putQs_sameTask
    { x with loops := (x.loopEnd b).loops, leg := { x.leg with draining := (x.loopEnd b).draining } } (x.loopEnd b).qs
  unfold Ctx.bundleEnd
  dsimp only
  split <;> exact h

/-- The context of a member that fires, and that of a task that does not. -/
theorem State.fireAll_leaves {s : State} {n c : Nat} {x : Ctx} (fires : List Nat) (hx : s.ctx? n c = some x) :
    ((s.fireAll n c x fires).core n).running = (s.core n).running ∧ (s.fireAll n c x fires).ctx? n c =
      some (if fires ≠ [] ∧ x.task.gslot.isSome = true then
        { x with fires := x.fires + BitVec.ofNat 32 fires.length, run := .edges (fires.foldl (· + ·) 0) } else x) := by
  unfold State.fireAll
  split
  · obtain ⟨hc, hr⟩ := Core.foldl_fire_ctxs x fires ((s.modCtx n c fun x =>
      { x with fires := x.fires + BitVec.ofNat 32 fires.length, run := .edges (fires.foldl (· + ·) 0) }).core n)
    rw [State.ctx?, State.modCore, State.core_setCore, hc, hr, State.modCtx, State.core_setCtx, State.ctx_of_ctx? hx]
    exact ⟨rfl, tget_tset_self _ _ _⟩
  · exact ⟨rfl, hx⟩

/-- The end of a bundle that gives up the core, no action being due: what the context keeps, and its firings (R81, R255). -/
theorem State.finishPlain_gives_up {s : State} {n c : Nat} {x : Ctx} {b : Bundle} (hx : s.ctx? n c = some x)
    (hd : x.actionDue = false) (hr : (s.core n).running = some c) (hy : b.firings ≠ [] ∨ b.acts.contains .yield = true) :
    ((s.finishPlain n c b).core n).running = none ∧ ((s.finishPlain n c b).core n).last = c ∧
      ∃ y, (s.finishPlain n c b).ctx? n c = some y ∧ y.regs = x.regs ∧
        (b.firings = [] → y.run = x.run) ∧
        (b.firings ≠ [] → x.task.gslot.isSome = true → y.fires = x.fires + BitVec.ofNat 32 b.firings.length ∧
          y.run = .edges (b.firings.foldl (· + ·) 0)) := by
  obtain ⟨hregs, hrun, hfires, htask⟩ := x.bundleEnd_sameTask b s.clock
  obtain ⟨hfr, hfc⟩ := State.fireAll_leaves b.firings (State.ctx?_setCtx s n c (x.bundleEnd b s.clock))
  obtain ⟨hn, hl, ht⟩ := State.gives_up hfc (hfr.trans (by rw [State.core_setCtx]; exact hr))
  rw [State.finishPlain_eq]
  simp only [State.ctx_of_ctx? hx, hd, if_pos hy, Bool.false_eq_true, if_false]
  refine ⟨hn, hl, _, ht, ?_, fun hf => ?_, fun hf hg => ?_⟩
  · split <;> exact hregs
  · rw [if_neg fun h => h.1 hf]; exact hrun
  · rw [if_pos ⟨hf, htask ▸ hg⟩, hfires]; exact ⟨rfl, rfl⟩

/-- The passes that a firing asks for (R256). -/
def EndAct.passes (a : EndAct) : Nat :=
  match a with
  | .erIdle k => k
  | _ => 0

/-- Every slot of a bundle that fires counts once, with its passes (R255, R256). -/
theorem Bundle.firings_eq {b : Bundle} (h : ∀ a ∈ b.acts, a = .yieldEr ∨ ∃ k, a = .erIdle k) :
    b.firings = b.acts.map EndAct.passes := by
  rw [← List.filterMap_eq_map]
  refine List.filterMap_congr fun a ha => ?_
  rcases h a ha with rfl | ⟨k, rfl⟩ <;> rfl

theorem State.finish_fires {s : State} {n c : Nat} {x : Ctx} {b : Bundle} (hx : s.ctx? n c = some x) (hb : x.bundle = some b)
    (hne : b.acts ≠ []) (ha : ∀ a ∈ b.acts, a = .yieldEr ∨ ∃ k, a = .erIdle k) (hg : x.task.gslot.isSome = true)
    (hd : x.actionDue = false) (hr : (s.core n).running = some c) :
    ((s.finish n c).core n).running = none ∧ ((s.finish n c).core n).last = c ∧
      ∃ y, (s.finish n c).ctx? n c = some y ∧ y.fires = x.fires + BitVec.ofNat 32 b.acts.length ∧
        y.run = .edges (b.acts.map EndAct.passes).sum ∧ y.regs = x.regs := by
  have hplain : ∀ a ∈ [EndAct.exit, .rfe, .rfu], a ∉ b.acts := fun a hl hm => by
    rcases ha a hm with rfl | ⟨k, rfl⟩ <;> simp at hl
  have hf := Bundle.firings_eq ha
  have hfe : b.firings ≠ [] := by rw [hf]; simpa using hne
  rw [State.finish_plain hx hb ⟨hplain _ (by simp), hplain _ (by simp), hplain _ (by simp)⟩]
  obtain ⟨hn, hl, y, hy, hregs, -, hfires⟩ := State.finishPlain_gives_up hx hd hr (.inl hfe)
  obtain ⟨hcount, hrun⟩ := hfires hfe hg
  rw [hf] at hcount hrun
  exact ⟨hn, hl, y, hy, by rw [hcount, List.length_map], by rw [hrun, List.sum_eq_foldl], hregs⟩

theorem State.finish_yields {s : State} {n c : Nat} {x : Ctx} {b : Bundle} (hx : s.ctx? n c = some x) (hb : x.bundle = some b)
    (ha : b.acts = [.yield]) (hd : x.actionDue = false) (hr : (s.core n).running = some c) :
    ((s.finish n c).core n).running = none ∧ ((s.finish n c).core n).last = c ∧
      ∃ y, (s.finish n c).ctx? n c = some y ∧ y.run = x.run ∧ y.regs = x.regs := by
  rw [State.finish_plain hx hb (by simp [ha])]
  obtain ⟨hn, hl, y, hy, hregs, hrun, -⟩ := State.finishPlain_gives_up hx hd hr (b := b) (.inr (by simp [ha]))
  exact ⟨hn, hl, y, hy, hrun (by rw [Bundle.firings, ha]; rfl), hregs⟩

/-! ### The end of a task -/

/-- A context is, but for what memory accesses change by themselves, the one given. -/
def State.HasRest (s : State) (n c : Nat) (z : Ctx) : Prop := (s.ctx? n c).map Ctx.rest = some z

theorem State.HasRest.same {s t : State} {n c : Nat} {z : Ctx} (h : s.HasRest n c z) (hs : SameCores s t) : t.HasRest n c z :=
  (hs.ctx n c).trans h

/-- A change of a core that leaves its contexts but for what memory accesses change. -/
theorem State.HasRest.modCore {s : State} {n c m : Nat} {z : Ctx} {g : Core → Core} (h : s.HasRest n c z)
    (hg : ∀ k, (tget k.ctxs c).map Ctx.rest = some z → (tget (g k).ctxs c).map Ctx.rest = some z) :
    (s.modCore m g).HasRest n c z := by
  unfold State.HasRest State.ctx? State.modCore at *
  by_cases hm : n = m
  · subst hm; rw [State.core_setCore]; exact hg _ h
  · rw [State.core_setCore_ne s _ hm]; exact h

/-- A change of a task that leaves a context of no bundle as it is. -/
theorem tget_modTask_rest {k : Core} {c : Nat} {z : Ctx} (uid : Nat) {g : Ctx → Ctx}
    (hg : ∀ x : Ctx, x.rest = z → (g x).rest = z) (h : (tget k.ctxs c).map Ctx.rest = some z) :
    (tget (k.modTask uid g).ctxs c).map Ctx.rest = some z := by
  have hm : (k.modTask uid g).ctxs = k.ctxs.map fun e => (e.1, if e.2.task.uid = uid then g e.2 else e.2) := by
    simp only [Core.modTask]
    exact List.map_congr_left fun e _ => by split <;> rfl
  rw [hm, tget_map fun x : Ctx => if x.task.uid = uid then g x else x]
  obtain ⟨x, hx, hz⟩ := Option.map_eq_some_iff.mp h
  rw [hx]
  simp only [Option.map_some, Option.some.injEq]
  split
  · exact hg x hz
  · exact hz

theorem State.remoteRead_same (s : State) (a len : Nat) : SameCores s (s.remoteRead a len).1 := by
  unfold State.remoteRead
  refine SameCores.foldl_fst (fun r p => ?_) _ (s, [])
  exact State.remoteReadLine_same r.1 (lineOf p.1)

/-- The state that a translation leaves, whether it succeeds or fails. -/
def translated : Except Failure (State × Place) → State
  | .ok r => r.1
  | .error f => f.s

theorem State.pagePlace_leaves (s : State) (kind : AccessKind) (priv : Bool) (a : Nat) (x : Leaf) :
    translated (s.pagePlace kind priv a x) = s := by
  unfold State.pagePlace
  dsimp only
  (repeat' split) <;> rfl

theorem State.pageByte_same (s : State) (w : Walker) (q : Nat) (kind : AccessKind) (priv : Bool) (a : Nat) :
    SameCores s (translated (s.pageByte w q kind priv a)) := by
  unfold State.pageByte
  split
  · exact State.readEntries_same s w q a
  · split <;> rw [State.pagePlace_leaves]
    · exact .refl s
    · exact State.useLeaf_same s w q a _

theorem State.readRecord_same (s : State) (q : Nat) (a : DWord) (len : Nat) : SameCores s (s.readRecord q a len).1 := by
  have hp := State.pageByte_same s .unit q .load false a.toNat
  unfold State.readRecord
  split
  · exact .refl s
  · split <;> rename_i he <;> rw [he] at hp
    · split
      · exact hp
      · exact hp.trans (State.remoteRead_same _ _ _)
    · exact hp
    · exact hp

/-! ### The slice controller leaves a context without a bundle -/

theorem State.coarseFail_same (s : State) (h n : Nat) : SameCores s (s.coarseFail h n) := by
  unfold State.coarseFail
  split
  · exact .refl s
  · dsimp only
    split <;> exact .of_cores rfl

theorem State.walkOn_same : ∀ (fuel : Nat) (s : State) (h : Nat), SameCores s (State.walkOn fuel s h)
  | 0, s, _ => .refl s
  | fuel + 1, s, h => by
    unfold State.walkOn
    split
    · exact .refl s
    · rename_i c _
      split
      · split
        · exact .of_cores rfl
        · rename_i n _
          have hr : SameCores s ((s.setChain h { c with phase := .walk n (some n) }).readRecord c.ownerQueue c.crec 128).1 :=
            (SameCores.of_cores rfl).trans (State.readRecord_same _ _ _ _)
          dsimp only
          split
          · exact hr.trans (.of_cores rfl)
          · exact (hr.trans (State.coarseFail_same _ _ _)).trans (State.walkOn_same fuel _ h)
      · exact .refl s

theorem State.poolOr_same (s : State) (pa : Nat) (bits : DWord) : SameCores s (s.poolOr pa bits) := by
  unfold State.poolOr
  exact (State.reach_same s (lineOf pa)).trans (SameCores.of_cores (State.beforeWrite_cores _ pa))

theorem State.closeChain_same (s : State) (h : Nat) : SameCores s (s.closeChain h) := by
  unfold State.closeChain
  split
  · exact .refl s
  · dsimp only
    split
    · refine SameCores.trans ?_ (.of_cores rfl)
      exact (SameCores.of_cores rfl).trans (SameCores.foldl (fun s _ => State.poolOr_same s _ _) _ _)
    · exact .of_cores rfl

theorem State.closeOwned_same (s : State) (uid : Nat) : SameCores s (s.closeOwned uid) :=
  SameCores.foldl (fun s (e : Nat × Chain) => State.closeChain_same s e.1) _ s

section Slices
variable {n c : Nat} {z : Ctx} (hz : z.bundle = none) {s : State} (h : s.HasRest n c z)
include hz h

/-- An answer goes to a bundle in progress. -/
theorem State.HasRest.answerHeld (r : Held) (v : DWord) : (s.answerHeld r v).HasRest n c z := by
  refine (h.modCore fun k => tget_modTask_rest _ fun x hx => ?_).same (SameCores.raise (.refl _) _)
  have hb : x.bundle = none := (congrArg Ctx.bundle hx).trans hz
  rw [hb, ← hx]
  cases x
  cases hb
  rfl

theorem State.HasRest.serveOne {t : State} (ht : s.serveOne = some t) : t.HasRest n c z := by
  unfold State.serveOne at ht
  dsimp only at ht
  split at ht
  · rename_i r _
    obtain ⟨a, ha, rfl⟩ := Option.map_eq_some_iff.mp ht
    refine State.HasRest.answerHeld hz (h.same (.of_cores ?_)) r a.2
    unfold State.heldAnswer at ha
    grind [State.setChain]
  · split at ht
    · cases ht
      exact h.same (.of_cores rfl)
    · obtain ⟨e, -, rfl⟩ := Option.map_eq_some_iff.mp ht
      exact h.same (State.walkOn_same _ s e.1)

omit h in
theorem State.HasRest.serveAll : ∀ (fuel : Nat) {s : State}, s.HasRest n c z → (State.serveAll fuel s).HasRest n c z
  | 0, _, h => h
  | fuel + 1, s, h => by
    unfold State.serveAll
    split
    · rename_i t ht
      exact State.HasRest.serveAll fuel (State.HasRest.serveOne hz h ht)
    · exact h

theorem State.HasRest.serveSlices : s.serveSlices.HasRest n c z := State.HasRest.serveAll hz _ h

omit hz in
theorem State.HasRest.unmapAll (m uid : Nat) : (s.unmapAll m uid).HasRest n c z := by
  unfold State.unmapAll
  split
  · exact h
  · dsimp only
    exact (h.same (SameCores.foldl State.recall_same _ s)).modCore fun k =>
      tget_modTask_rest uid fun y hy => (Ctx.rest_windows y []).trans hy

/-- What an ended task gives back leaves its context (R230, R235, R259, R336). -/
theorem State.HasRest.dropHeld (m : Nat) (t : Task) : (s.dropHeld m t).HasRest n c z := by
  have hu := State.HasRest.unmapAll h m t.uid
  have hh : (if (s.unmapAll m t.uid).slicesOf t.uid then (s.unmapAll m t.uid).hearSlices m else s.unmapAll m t.uid).HasRest n c z := by
    split
    · exact hu.same (.of_cores rfl)
    · exact hu
  have hs := State.HasRest.serveSlices hz ((hh.same (State.closeOwned_same _ t.uid)).same
    (t := ((State.closeOwned _ t.uid).endClaim t.uid)) (.of_cores rfl))
  unfold State.dropHeld
  dsimp only
  split
  · exact hs
  · exact hs.modCore fun k hk => hk

end Slices

/-! ### What is left of a task that has ended -/

/-- The held stores of a buffer phase leave the contexts (R86). -/
theorem State.HasRest.issueHeld {s : State} {n c : Nat} {z : Ctx} (h : s.HasRest n c z) (x : Ctx) :
    (s.issueHeld n c x).HasRest n c z := by
  unfold State.issueHeld
  exact (h.same (State.placeAll_same.trans (SameCores.foldl (fun s _ => State.asyncWrites_same _) _ _))).modCore fun k hk => hk

/-- A context that has ended, whatever its accesses change after. -/
theorem Ctx.ended_of_rest {x y : Ctx} {trapped : Bool} (h : y.rest = (x.ended trapped).rest) :
    y.run = .ended ∧ y.pend = [] ∧ y.bundle = none ∧ y.frame = none ∧ y.eframe = none ∧ y.deferred = [] ∧
      y.trapped = trapped ∧ y.regs = x.regs ∧ y.loops = x.loops ∧ y.task = x.task := by
  have of (g : Ctx → Prop) (hg : g (x.ended trapped).rest) : g y.rest := h ▸ hg
  exact ⟨of (·.run = .ended) rfl, List.map_eq_nil_iff.mp (of (·.pend = []) rfl), of (·.bundle = none) rfl,
    Option.map_eq_none_iff.mp (of (·.frame = none) rfl), Option.map_eq_none_iff.mp (of (·.eframe = none) rfl),
    of (·.deferred = []) rfl, of (·.trapped = trapped) rfl, of (·.regs = x.regs) rfl, of (·.loops = x.loops) rfl,
    of (·.task = x.task) rfl⟩

/-- A phase-protected task that ends commits its open phase, which leaves registers, loops and task (R80, R86). -/
theorem State.commitPhase_leaves {s : State} {n c : Nat} {x : Ctx} (hx : s.ctx? n c = some x) :
    ∃ y, (s.commitPhase n c).ctx? n c = some y ∧ y.regs = x.regs ∧ y.loops = x.loops ∧ y.task = x.task := by
  have h : s.HasRest n c x.rest := by rw [State.HasRest, hx]; rfl
  obtain ⟨y, hy, hr⟩ := Option.map_eq_some_iff.mp (h.issueHeld (s.ctx n c))
  refine ⟨y.commitHeld, ?_, congrArg (·.regs) hr, congrArg (·.loops) hr, congrArg (·.task) hr⟩
  rw [State.commitPhase, State.modCtx, State.ctx_of_ctx? hy, State.ctx?_setCtx]

theorem State.endTask_leaves {s : State} {n c : Nat} {x : Ctx} (trapped : Bool) (hx : s.ctx? n c = some x) :
    ((s.endTask n c trapped).core n).running ≠ some c ∧
      ∃ y, (s.endTask n c trapped).ctx? n c = some y ∧ y.run = .ended ∧ y.pend = [] ∧ y.bundle = none ∧ y.frame = none ∧
        y.eframe = none ∧ y.deferred = [] ∧ y.trapped = trapped ∧ y.regs = x.regs ∧ y.loops = x.loops ∧ y.task = x.task := by
  have hp : ∃ y, (if x.task.record.prot then s.commitPhase n c else s).ctx? n c = some y ∧ y.regs = x.regs ∧ y.loops = x.loops ∧
      y.task = x.task := by
    split
    · exact State.commitPhase_leaves hx
    · exact ⟨x, hx, rfl, rfl, rfl⟩
  unfold State.endTask
  rw [State.ctx_of_ctx? hx]
  dsimp only
  generalize (if x.task.record.prot then s.commitPhase n c else s) = t at hp ⊢
  obtain ⟨y, hy, hregs, hloops, htask⟩ := hp
  have he : (t.modCtx n c fun x => x.ended trapped).HasRest n c (y.ended trapped).rest := by
    rw [State.HasRest, State.modCtx, State.ctx_of_ctx? hy, State.ctx?_setCtx]; rfl
  have hd := State.HasRest.dropHeld (by rfl) he n x.task
  generalize (t.modCtx n c fun x => x.ended trapped).dropHeld n x.task = u at hd ⊢
  have hr : (u.release n c).HasRest n c (y.ended trapped).rest := hd.modCore fun k hk => by split <;> exact hk
  obtain ⟨w, hw, hrest⟩ := Option.map_eq_some_iff.mp hr
  refine ⟨?_, w, hw, ?_⟩
  · rw [State.release, State.modCore, State.core_setCore]
    split
    · exact nofun
    · assumption
  · rw [← hregs, ← hloops, ← htask]
    exact Ctx.ended_of_rest hrest

/-- Settles O17: one rule for each action of a bundle's end; what an ended task gives back leaves its context, by what each unit
does to contexts without a bundle. -/
theorem endsOfBundlesAndTasks : Obligations.EndsOfBundlesAndTasks := by
  refine ⟨fun s e h i a hi => atEnd_joins h hi, fun s n c x b hx hb => ⟨fun ha => ⟨_, State.finish_exit hx hb ha⟩,
    State.finish_rfe hx hb, State.finish_rfu hx hb, State.finish_yields hx hb, State.finish_fires hx hb⟩,
    fun s n c x trapped hx => State.endTask_leaves trapped hx⟩

end Sys2Proof.Machine
end

section
/-! PROOFS. What accesses at the homes of lines leave when no stash owns a line (R328, R330, R343 to R346, R354). -/

namespace Sys2Proof.Machine

/-! ### Tables -/

/-- A listed key has a value. -/
theorem tget_isSome_of_mem {α : Type} {m : SMap α} {e : Nat × α} (h : e ∈ m) : (tget m e.1).isSome = true := by
  induction m with
  | nil => cases h
  | cons f m ih =>
    obtain ⟨j, a⟩ := f
    unfold tget
    split
    · rfl
    · rcases List.mem_cons.mp h with rfl | h
      · contradiction
      · exact ih h

/-- A table with the entries of some keys left out. -/
theorem tget_filter_key {α : Type} (p : Nat → Bool) (m : SMap α) (k : Nat) :
    tget (m.filter fun e => p e.1) k = if p k then tget m k else none := by
  induction m with
  | nil => simp
  | cons e m ih =>
    obtain ⟨j, a⟩ := e
    by_cases hj : j = k
    · subst hj
      by_cases hp : p j <;> simp [hp, ih, tget]
    · by_cases hp : p j <;> simp [hp, ih, tget, hj]

theorem mget_filter_key {α : Type} (d : α) {p : Nat → Bool} (m : SMap α) {k : Nat} (h : p k = true) :
    mget d (m.filter fun e => p e.1) k = mget d m k := by
  rw [mget, tget_filter_key, if_pos h, mget]

/-! ### The bytes of memory -/

/-- A byte at an address after pieces have been written over it, the later over the earlier. -/
def overlay (ps : List (Nat × List Byte)) (b : Nat) (d : Byte) : Byte :=
  ps.foldl (fun d p => if p.1 ≤ b ∧ b < p.1 + p.2.length then p.2.getD (b - p.1) 0 else d) d

@[simp] theorem overlay_nil (b : Nat) (d : Byte) : overlay [] b d = d := rfl

theorem overlay_cons (p : Nat × List Byte) (ps : List (Nat × List Byte)) (b : Nat) (d : Byte) : overlay (p :: ps) b d =
    overlay ps b (if p.1 ≤ b ∧ b < p.1 + p.2.length then p.2.getD (b - p.1) 0 else d) := rfl

theorem overlay_append (ps qs : List (Nat × List Byte)) (b : Nat) (d : Byte) :
    overlay (ps ++ qs) b d = overlay qs b (overlay ps b d) := List.foldl_append

theorem overlay_singleton (a : Nat) (bs : List Byte) (b : Nat) (d : Byte) :
    overlay [(a, bs)] b d = if a ≤ b ∧ b < a + bs.length then bs.getD (b - a) 0 else d := rfl

theorem mget_foldl_writeBytes (ps : List (Nat × List Byte)) (m : SMap Byte) (b : Nat) :
    mget 0 (ps.foldl (fun m p => writeBytes m p.1 p.2) m) b = overlay ps b (mget 0 m b) := by
  induction ps generalizing m with
  | nil => rfl
  | cons p ps ih => rw [List.foldl_cons, ih, mget_writeBytes, overlay_cons]

/-- The parts of a run of bytes are the run (R328). -/
theorem overlay_parts (a : Nat) (bs : List Byte) (b : Nat) (d : Byte) : ∀ {fuel p len : Nat}, a ≤ p → p - a + len = bs.length →
    (len ≠ 0 → p % 64 + len ≤ 64 * fuel) →
    overlay ((splitLines fuel p len).map fun q => (q.1, (bs.drop (q.1 - a)).take q.2)) b d =
      if p ≤ b ∧ b < p + len then bs.getD (b - a) 0 else d := by
  intro fuel
  induction fuel generalizing d with
  | zero =>
    intro p len _ _ hf
    obtain rfl : len = 0 := by omega
    rw [if_neg (by omega)]
    rfl
  | succ fuel ih =>
    intro p len hp hl hf
    unfold splitLines
    split
    · subst_vars
      rw [if_neg (by omega)]
      rfl
    · rename_i h0
      have hk : min len (64 - p % 64) ≤ len := Nat.min_le_left _ _
      rw [List.map_cons, overlay_cons, ih _ (by omega) (by omega) fun hr => ?_]
      · have hlen : ((bs.drop (p - a)).take (min len (64 - p % 64))).length = min len (64 - p % 64) := by
          rw [List.length_take, List.length_drop]; omega
        rw [hlen]
        by_cases hin : p ≤ b ∧ b < p + min len (64 - p % 64)
        · rw [if_neg (by omega), if_pos hin, if_pos (by omega), List.getD_eq_getElem?_getD, List.getD_eq_getElem?_getD,
            List.getElem?_take_of_lt (by omega), List.getElem?_drop]
          congr 2
          omega
        · by_cases hout : p + min len (64 - p % 64) ≤ b ∧ b < p + min len (64 - p % 64) + (len - min len (64 - p % 64))
          · rw [if_pos hout, if_pos (by omega)]
          · rw [if_neg hout, if_neg hin, if_neg (by omega)]
      · rw [Nat.min_eq_right (by omega)] at hr ⊢
        have := hf h0
        omega

theorem overlay_cutLines (a : Nat) (bs : List Byte) (b : Nat) (d : Byte) :
    overlay (cutLines a bs) b d = if a ≤ b ∧ b < a + bs.length then bs.getD (b - a) 0 else d :=
  overlay_parts a bs b d (Nat.le_refl a) (by omega) fun _ => by omega

/-! ### What a home keeps -/

/-- What an access at the homes of lines keeps: everything but memory, the checkpoint unit and what is sent; of those, the removed
blocks, the unit's settings and the lines that no stash owns; and it sends nothing while no copy of the shard is under way. -/
structure HomeKeeps (s t : State) : Prop where
  rest : { t with mem := s.mem, ckpt := s.ckpt, sent := s.sent } = s
  gone : t.mem.gone = s.mem.gone
  cfg : t.ckpt.cfg = s.ckpt.cfg
  own : ∀ l, (s.mem.line l).own = none → (t.mem.line l).own = none
  quiet : s.ckpt.copy = none → t.ckpt.copy = none ∧ t.sent = s.sent

/-- The bytes that an access writes, outside the undo area and removed blocks. -/
def HomeWrites (s t : State) (ps : List (Nat × List Byte)) : Prop :=
  ∀ b, ¬undoArea s b → s.mem.missing b = false → t.byte b = overlay ps b (s.byte b)

namespace HomeKeeps
variable {s t u : State}

theorem refl (s : State) : HomeKeeps s s := ⟨rfl, rfl, rfl, fun _ h => h, fun h => ⟨h, rfl⟩⟩

theorem trans (h : HomeKeeps s t) (g : HomeKeeps t u) : HomeKeeps s u where
  rest := (congrArg (fun r : State => { r with mem := s.mem, ckpt := s.ckpt, sent := s.sent }) g.rest).trans h.rest
  gone := g.gone.trans h.gone
  cfg := g.cfg.trans h.cfg
  own l hl := g.own l (h.own l hl)
  quiet hq := ⟨(g.quiet (h.quiet hq).1).1, (g.quiet (h.quiet hq).1).2.trans (h.quiet hq).2⟩

/-- A change of memory that keeps the removed blocks and the lines that no stash owns. -/
theorem mem {m : Memory} (h : HomeKeeps s t) (hg : m.gone = t.mem.gone) (ho : ∀ l, (t.mem.line l).own = none → (m.line l).own = none) :
    HomeKeeps s { t with mem := m } :=
  ⟨h.rest, hg.trans h.gone, h.cfg, fun l hl => ho l (h.own l hl), h.quiet⟩

variable (h : HomeKeeps s t)
include h

theorem cores : t.cores = s.cores := congrArg (·.cores) h.rest
theorem queues : t.queues = s.queues := congrArg (·.queues) h.rest
theorem grids : t.grids = s.grids := congrArg (·.grids) h.rest
theorem gtime : t.gtime = s.gtime := congrArg (·.gtime) h.rest
theorem fabric : t.fabric = s.fabric := congrArg (·.fabric) h.rest
theorem clock : t.clock = s.clock := congrArg (·.clock) h.rest

theorem missing (b : Nat) : t.mem.missing b = s.mem.missing b := by rw [Memory.missing, Memory.missing, h.gone]

theorem undoArea_iff (b : Nat) : undoArea t b ↔ undoArea s b := by rw [undoArea, undoArea, h.cfg]

/-- Writes one after another. -/
theorem writes {ps qs : List (Nat × List Byte)} (hs : HomeWrites s t ps) (ht : HomeWrites t u qs) : HomeWrites s u (ps ++ qs) :=
  fun b hu hm => by
    rw [ht b (fun hb => hu ((h.undoArea_iff b).mp hb)) ((h.missing b).trans hm), hs b hu hm, overlay_append]

end HomeKeeps

/-- Bytes that nothing changes. -/
theorem HomeWrites.of_bytes {s t : State} (h : t.mem.bytes = s.mem.bytes) : HomeWrites s t [] := fun b _ _ => by
  rw [State.byte, h]; rfl

/-! ### The checkpoint unit before a write (R343 to R346) -/

theorem State.copyPage_keeps (s : State) (page : Nat) : HomeKeeps s (s.copyPage page) := by
  unfold State.copyPage
  split
  · exact .refl s
  · rename_i c hc
    split
    · exact ⟨rfl, rfl, rfl, fun _ h => h, fun h => absurd (hc.symm.trans h) (Option.some_ne_none _)⟩
    · exact .refl s

theorem Ckpt.setUndo_keeps (k : Ckpt) (x : Nat) (u : UndoGen) : (k.setUndo x u).cfg = k.cfg ∧ (k.setUndo x u).copy = k.copy := by
  unfold Ckpt.setUndo
  split <;> exact ⟨rfl, rfl⟩

/-- The room for a pre-image lies in the undo area (R346). -/
theorem Ckpt.undoRoom_lt {k : Ckpt} {i : Nat} (h : k.undoRoom = some i) : i < k.cfg.undolen / 65536 := by
  unfold Ckpt.undoRoom at h
  exact of_decide_eq_true (Option.filter_eq_some_iff.mp h).2

@[simp] theorem Memory.dropGone_gone (m : Memory) : m.dropGone.gone = m.gone := by
  unfold Memory.dropGone
  split <;> rfl

theorem Memory.line_congr {m m' : Memory} (hl : m'.lines = m.lines) (ht : m'.memt = m.memt) (l : Nat) : m'.line l = m.line l := by
  rw [Memory.line, Memory.line, hl, ht]

@[simp] theorem Memory.dropGone_line (m : Memory) (l : Nat) : m.dropGone.line l = m.line l := by
  unfold Memory.dropGone
  split
  · rfl
  · exact Memory.line_congr rfl rfl l

theorem Memory.dropGone_byte {m : Memory} {b : Nat} (h : m.missing b = false) : mget 0 m.dropGone.bytes b = mget 0 m.bytes b := by
  unfold Memory.dropGone
  split
  · rfl
  · exact mget_filter_key (p := fun k => (tget m.gone (k / 256)).isNone) 0 m.bytes (by simpa [Memory.missing] using h)

/-- A page put at an address leaves every byte outside it. -/
theorem mget_putBytes (m : SMap Byte) {a b : Nat} (data : SMap Byte) (h : b < a ∨ a + 65536 ≤ b) :
    mget 0 (putBytes m a data) b = mget 0 m b := by
  unfold putBytes
  have hcut : mget 0 (mcut m a 65536) b = mget 0 m b :=
    mget_filter_key (p := fun k => !decide (a ≤ k ∧ k < a + 65536)) 0 m (by simp; omega)
  rw [← hcut]
  generalize mcut m a 65536 = m
  induction data generalizing m with
  | nil => rfl
  | cons e data ih => rw [List.foldl_cons, ih, mget_mset_ne]; omega

theorem State.keepImage_keeps (s : State) (x page : Nat) : HomeKeeps s (s.keepImage x page) := by
  unfold State.keepImage
  dsimp only
  split
  · exact .refl s
  · split
    · obtain ⟨hc, hq⟩ := s.ckpt.setUndo_keeps x { s.ckpt.undo x with incomplete := true }
      exact ⟨rfl, rfl, hc, fun _ h => h, fun h => ⟨hq.trans h, rfl⟩⟩
    · rename_i i _
      obtain ⟨hc, hq⟩ := s.ckpt.setUndo_keeps x { s.ckpt.undo x with
        pages := tset (s.ckpt.undo x).pages page (s.pageData page), places := tset (s.ckpt.undo x).places page i }
      refine ⟨rfl, Memory.dropGone_gone _, hc, fun l h => ?_, fun h => ⟨hq.trans h, rfl⟩⟩
      rw [← h]
      exact congrArg HomeLine.own ((Memory.line_congr rfl rfl l).trans (Memory.dropGone_line _ l) |>.trans (Memory.line_congr rfl rfl l))

theorem State.keepImage_writes (s : State) (x page : Nat) : HomeWrites s (s.keepImage x page) [] := by
  unfold State.keepImage
  dsimp only
  split
  · exact .of_bytes rfl
  · split
    · exact .of_bytes rfl
    · rename_i i hi
      intro b hu hm
      have := Ckpt.undoRoom_lt hi
      have hb : b < s.ckpt.cfg.undobase + 65536 * i ∨ s.ckpt.cfg.undobase + 65536 * i + 65536 ≤ b := by
        simp only [undoArea] at hu
        omega
      rw [State.byte, Memory.putBlock, Memory.unmark_bytes, Memory.dropGone_byte, mget_putBytes _ _ hb]
      · rfl
      · exact hm

theorem State.beforeWrite_keeps (s : State) (a : Nat) : HomeKeeps s (s.beforeWrite a) := by
  unfold State.beforeWrite
  split
  · exact .refl s
  · rename_i p _
    have h := ((s.copyPage_keeps p).trans ((s.copyPage p).keepImage_keeps 0 p)).trans (((s.copyPage p).keepImage 0 p).keepImage_keeps 1 p)
    exact ⟨h.rest, h.gone, h.cfg, h.own, h.quiet⟩

theorem State.beforeWrite_writes (s : State) (a : Nat) : HomeWrites s (s.beforeWrite a) [] := by
  unfold State.beforeWrite
  split
  · exact .of_bytes rfl
  · rename_i p _
    have h := s.copyPage_keeps p
    have hc : HomeWrites s (s.copyPage p) [] := .of_bytes (by unfold State.copyPage; (repeat' split) <;> rfl)
    exact (h.trans ((s.copyPage p).keepImage_keeps 0 p)).writes (h.writes hc ((s.copyPage p).keepImage_writes 0 p))
      (((s.copyPage p).keepImage 0 p).keepImage_writes 1 p)

theorem State.writeHome_keeps (s : State) (a : Nat) (bs : List Byte) : HomeKeeps s (s.writeHome a bs) :=
  (s.beforeWrite_keeps a).mem rfl fun l h => by rw [← h]; exact congrArg HomeLine.own (Memory.line_congr rfl rfl l)

theorem State.writeHome_writes (s : State) (a : Nat) (bs : List Byte) : HomeWrites s (s.writeHome a bs) [(a, bs)] := fun b hu hm => by
  rw [State.byte, State.writeHome, mget_writeBytes, overlay_singleton]
  congr 1
  exact s.beforeWrite_writes a b hu hm

theorem State.foldl_writeHome (ps : List (Nat × List Byte)) (s : State) :
    HomeKeeps s (ps.foldl (fun s p => s.writeHome p.1 p.2) s) ∧ HomeWrites s (ps.foldl (fun s p => s.writeHome p.1 p.2) s) ps := by
  induction ps generalizing s with
  | nil => exact ⟨.refl s, .of_bytes rfl⟩
  | cons p ps ih =>
    obtain ⟨hk, hw⟩ := ih (s.writeHome p.1 p.2)
    have h := s.writeHome_keeps p.1 p.2
    exact ⟨h.trans hk, h.writes (s.writeHome_writes p.1 p.2) hw⟩

/-! ### Accesses through the fabric interface (R330) -/

theorem Memory.own_setLine (m : Memory) {l k : Nat} {x : HomeLine} (hx : x.own = none) (h : (m.line k).own = none) :
    ((m.setLine l x).line k).own = none := by
  by_cases hk : k = l
  · subst hk; rwa [Memory.line_setLine_self]
  · rwa [Memory.own_setLine_ne _ _ hk]

/-- An eviction changes the lines and MEMT alone (R325). -/
theorem Memory.evict_rest {m m' : Memory} {l : Nat} (h : m.evict l = some m') : { m' with lines := m.lines, memt := m.memt } = m := by
  unfold Memory.evict at h
  obtain ⟨x, -, h⟩ := Option.bind_eq_some_iff.mp h
  split at h
  · cases h
  · cases h; rfl

theorem Memory.makeRoom_rest (m : Memory) (clock l : Nat) : { m.makeRoom clock l with lines := m.lines, memt := m.memt } = m := by
  unfold Memory.makeRoom
  dsimp only
  split
  · rfl
  · split
    · cases h : m.evict _ with
      | none => rfl
      | some m' => exact Memory.evict_rest h
    · rfl

@[simp] theorem Memory.makeRoom_gone (m : Memory) (clock l : Nat) : (m.makeRoom clock l).gone = m.gone := by
  have h := congrArg Memory.gone (m.makeRoom_rest clock l)
  exact h

@[simp] theorem Memory.makeRoom_bad (m : Memory) (clock l : Nat) : (m.makeRoom clock l).bad = m.bad := by
  have h := congrArg Memory.bad (m.makeRoom_rest clock l)
  exact h

/-- A line that no stash owns is reached by making room for it. -/
theorem State.reach_unowned {s : State} {l : Nat} (h : (s.mem.line l).own = none) :
    s.reach l = { s with mem := s.mem.makeRoom s.clock l } := by
  simp [State.reach, State.recall, h]

theorem State.reach_keeps {s : State} {l : Nat} (h : (s.mem.line l).own = none) :
    HomeKeeps s (s.reach l) ∧ (s.reach l).mem.bytes = s.mem.bytes ∧ (s.reach l).mem.bad = s.mem.bad := by
  rw [State.reach_unowned h]
  exact ⟨(HomeKeeps.refl s).mem (Memory.makeRoom_gone _ _ _) fun k => Memory.own_makeRoom s.clock l, Memory.makeRoom_bytes _ _ _,
    Memory.makeRoom_bad _ _ _⟩

/-- Pieces written to a line through the fabric interface. -/
theorem State.remotePieces_keeps {s : State} {l : Nat} (ps : List (Nat × List Byte)) (h : (s.mem.line l).own = none) :
    HomeKeeps s (s.remotePieces l ps) ∧ HomeWrites s (s.remotePieces l ps) ps := by
  obtain ⟨hr, hb, -⟩ := State.reach_keeps h
  obtain ⟨hk, hw⟩ := State.foldl_writeHome ps (s.reach l)
  have hw : HomeWrites s (ps.foldl (fun s p => s.writeHome p.1 p.2) (s.reach l)) ps := hr.writes (.of_bytes hb) hw
  refine ⟨(hr.trans hk).mem rfl fun k hn => ?_, hw⟩
  exact Memory.own_setLine _ (hr.own l h) hn

theorem State.foldl_remoteWriteLine (ps : List (Nat × List Byte)) {s : State} (h : ∀ l, (s.mem.line l).own = none) :
    HomeKeeps s (ps.foldl (fun s p => s.remoteWriteLine p.1 p.2) s) ∧
      HomeWrites s (ps.foldl (fun s p => s.remoteWriteLine p.1 p.2) s) ps := by
  induction ps generalizing s with
  | nil => exact ⟨.refl s, .of_bytes rfl⟩
  | cons p ps ih =>
    obtain ⟨hk, hw⟩ := State.remotePieces_keeps (l := lineOf p.1) [p] (h _)
    obtain ⟨hks, hws⟩ := ih fun l => hk.own l (h l)
    exact ⟨hk.trans hks, hk.writes hw hws⟩

theorem State.remoteWrite_keeps {s : State} (a : Nat) (bs : List Byte) (h : ∀ l, (s.mem.line l).own = none) :
    HomeKeeps s (s.remoteWrite a bs) ∧ HomeWrites s (s.remoteWrite a bs) (cutLines a bs) :=
  State.foldl_remoteWriteLine (cutLines a bs) h

theorem State.unitWrite_keeps {s : State} (a : Nat) (bs : List Byte) (h : ∀ l, (s.mem.line l).own = none) :
    HomeKeeps s (s.unitWrite a bs) := by
  unfold State.unitWrite
  split
  · exact .refl s
  · exact (State.remoteWrite_keeps a bs h).1

/-- A write of the dispatcher within one block of 256 bytes: the block takes it, or has been removed (R354). -/
theorem State.unitWrite_writes {s : State} {a : Nat} {bs : List Byte} (h : ∀ l, (s.mem.line l).own = none)
    (ha : a % 256 + bs.length ≤ 256) : HomeWrites s (s.unitWrite a bs) [(a, bs)] := fun b hu hm => by
  unfold State.unitWrite
  rw [overlay_singleton]
  split
  · rename_i hg
    obtain ⟨e, he, hin⟩ := List.any_eq_true.mp hg
    simp only [Bool.and_eq_true, decide_eq_true_eq] at hin
    rw [if_neg]
    rintro ⟨hlo, hhi⟩
    have hblock : b / 256 = e.1 := by omega
    simp [Memory.missing, hblock, tget_isSome_of_mem he] at hm
  · rw [(State.remoteWrite_keeps a bs h).2 b hu hm, overlay_cutLines]

end Sys2Proof.Machine
end

section
/-! PROOFS. The launch queues (R67 to R72). -/

namespace Sys2Proof.Machine

/-- An event with what it brings (log 1). -/
theorem runEvent_input {s : State} {i : Input} (h : s.input = i) (g : Input → State → Option State) :
    runEvent s g = .next ((g i (used s)).getD (used s)) := by
  subst h; rfl

@[simp] theorem used_queue (s : State) (q : Nat) : (used s).queue q = s.queue q := rfl

/-! ### Reading a queue after one has been written -/

@[simp] theorem State.queue_setQueue (s : State) (q : Nat) (x : Queue) : (s.setQueue q x).queue q = x := mget_mset_self _ _ q x

theorem State.queue_setQueue_ne (s : State) {q p : Nat} (x : Queue) (h : p ≠ q) : (s.setQueue q x).queue p = s.queue p :=
  mget_mset_ne _ _ x h

theorem HomeKeeps.queue {s t : State} (h : HomeKeeps s t) (q : Nat) : t.queue q = s.queue q := by
  rw [State.queue, State.queue, h.queues]

/-- A queue written twice, in a table in its canonical form. -/
theorem State.setQueue_setQueue {s : State} (h : s.canonical) (q : Nat) (x y : Queue) :
    (s.setQueue q x).setQueue q y = s.setQueue q y := by
  have hm : mset {} (mset {} s.queues q x) q y = mset {} s.queues q y := by
    refine mwf_ext (mwf_mset (mwf_mset h.2 q x) q y) (mwf_mset h.2 q y) fun k => ?_
    by_cases hk : k = q
    · subst hk; simp
    · simp [mget_mset_ne, hk]
  exact congrArg (fun m => { s with queues := m }) hm

/-! ### Settings (R67) -/

/-- A queue without accepted work has nothing to discard (R67). -/
theorem State.discardWork_quiet {s : State} {q : Nat} (hi : (s.queue q).items = []) (hw : (s.queue q).waiting = none) :
    s.discardWork q = s.setQueue q { s.queue q with items := [], timer := none, waiting := none } := by
  simp [State.discardWork, hi, hw]

theorem State.discardWork_setQueue {s : State} (hc : s.canonical) (q : Nat) {x : Queue} (hi : x.items = []) (hw : x.waiting = none) :
    (s.setQueue q x).discardWork q = s.setQueue q { x with items := [], timer := none, waiting := none } := by
  have hx := State.queue_setQueue s q x
  rw [State.discardWork_quiet (by rw [hx]; exact hi) (by rw [hx]; exact hw), hx, State.setQueue_setQueue hc]

/-- A queue without accepted work after its reset. -/
def Queue.fresh (x : Queue) : Queue :=
  { x with items := [], timer := none, waiting := none, expected := 0, consumed := 0, cdone := 0 }

/-! ### Writes of the dispatcher leave the queues, whoever owns their lines -/

theorem State.recall_queues (s : State) (l : Nat) : (s.recall l).queues = s.queues := by
  unfold State.recall
  split
  · rfl
  · split
    · rfl
    · exact (State.beforeWrite_keeps s (64 * l)).queues

theorem State.remotePieces_queues (s : State) (l : Nat) (ps : List (Nat × List Byte)) :
    (s.remotePieces l ps).queues = s.queues :=
  (State.foldl_writeHome ps (s.reach l)).1.queues.trans (s.recall_queues l)

theorem State.remoteWrite_queues (s : State) (a : Nat) (bs : List Byte) : (s.remoteWrite a bs).queues = s.queues := by
  unfold State.remoteWrite
  induction cutLines a bs generalizing s with
  | nil => rfl
  | cons p ps ih => rw [List.foldl_cons, ih]; exact State.remotePieces_queues _ _ _

theorem State.unitWrite_queue (s : State) (a : Nat) (bs : List Byte) (q : Nat) : (s.unitWrite a bs).queue q = s.queue q := by
  have h : (s.unitWrite a bs).queues = s.queues := by
    unfold State.unitWrite
    split
    · rfl
    · exact s.remoteWrite_queues a bs
  rw [State.queue, State.queue, h]

theorem State.resetQueue_queue {s : State} {q : Nat} (hi : (s.queue q).items = []) (hw : (s.queue q).waiting = none) :
    (s.resetQueue q).queue q = (s.queue q).fresh ∧ ∀ p, p ≠ q → (s.resetQueue q).queue p = s.queue p := by
  have hr : ((s.setQueue q { s.queue q with expected := 0, consumed := 0, cdone := 0 }).unitWrite (windowOf q + 0xA000)
      (natLe 8 0)).queue q = { s.queue q with expected := 0, consumed := 0, cdone := 0 } :=
    (State.unitWrite_queue _ _ _ q).trans (State.queue_setQueue s q _)
  rw [State.resetQueue]
  dsimp only
  rw [State.discardWork_quiet (by rw [hr]; exact hi) (by rw [hr]; exact hw), hr]
  refine ⟨State.queue_setQueue _ q _, fun p hp => ?_⟩
  rw [State.queue_setQueue_ne _ _ hp, State.unitWrite_queue, State.queue_setQueue_ne _ _ hp]

section Settings
variable {s : State} {q : Nat} (hq : q < 64)
include hq

/-- The line monitor looks at a queue that has been set (R67, R69). -/
def Monitored (s : State) (q : Nat) (i : Instr) (y : Queue) : Prop :=
  ∃ r : State, r.queue q = y ∧ (∀ p, p ≠ q → r.queue p = s.queue p) ∧ exec i s = .next (State.monitor 256 r q)

omit hq in
/-- A queue set after its reset. -/
theorem Monitored.reset {i : Instr} {g : Queue → Queue} (hi : (s.queue q).items = []) (hw : (s.queue q).waiting = none)
    (hx : exec i s = .next (State.monitor 256 (((used s).resetQueue q).setQueue q (g (((used s).resetQueue q).queue q))) q)) :
    Monitored s q i (g (s.queue q).fresh) := by
  obtain ⟨hr, hp⟩ := State.resetQueue_queue (s := used s) hi hw
  refine ⟨_, ?_, fun p h => ?_, hx⟩
  · rw [State.queue_setQueue, hr]; rfl
  · rw [State.queue_setQueue_ne _ _ h, hp p h]; rfl

theorem queueEnable_sets (h : s.input = .queueEnable q) (hi : (s.queue q).items = []) (hw : (s.queue q).waiting = none) :
    Monitored s q .queueEnable { (s.queue q).fresh with enable := true } :=
  Monitored.reset (g := fun x => { x with enable := true }) hi hw (by
    simp only [exec, execQueueEnable, runEvent_input h, if_neg (Nat.not_le.mpr hq), Option.getD_some])

theorem queueSetQsize_sets {n : Nat} (h : s.input = .queueSetQsize q n) (hn : n ∈ [16, 32, 64, 128, 256])
    (hi : (s.queue q).items = []) (hw : (s.queue q).waiting = none) :
    Monitored s q .queueSetQsize { (s.queue q).fresh with qsize := n } :=
  Monitored.reset (g := fun x => { x with qsize := n }) hi hw (by
    have hok : qsizeOk n = true := List.contains_iff_mem.mpr hn
    simp only [exec, execQueueSetQsize, runEvent_input h, Nat.not_le.mpr hq, hok, Bool.not_true, Bool.false_eq_true, or_self,
      if_false, Option.getD_some])

theorem queueDisable_sets (hc : s.canonical) (h : s.input = .queueDisable q) (hi : (s.queue q).items = [])
    (hw : (s.queue q).waiting = none) : exec .queueDisable s = .next ((used s).setQueue q
      { s.queue q with enable := false, items := [], timer := none, waiting := none }) := by
  simp only [exec, execQueueDisable, runEvent_input h, if_neg (Nat.not_le.mpr hq), Option.getD_some, used_queue]
  exact congrArg _ (State.discardWork_setQueue (s := used s) hc q hi hw)

theorem queueSettings_takes {c : QueueCfg} (h : s.input = .queueSettings q c) (hlo : 10000 ≤ c.timeoutNs)
    (hhi : c.timeoutNs ≤ 10000000) (hroot : c.troot % 2097152 = 0) (hmem : c.troot < Config.memBytes) :
    exec .queueSettings s = .next ((used s).setQueue q { s.queue q with cfg := c }) := by
  have hok : settingsOk c = true := by simp [settingsOk, hlo, hhi, hroot, hmem]
  simp only [exec, execQueueSettings, runEvent_input h, Nat.not_le.mpr hq, hok, Bool.not_true, Bool.false_eq_true, or_self,
    if_false, Option.getD_some]
  rfl

end Settings

/-! ### Records (R70, R72) -/

theorem recordTimeout_late {s : State} {q t : Nat} (h : s.input = .recordTimeout q) (ht : (s.queue q).timer = some t)
    (hl : t + (s.queue q).cfg.timeoutNs ≤ s.gtime.toNat) : exec .recordTimeout s = .next (State.monitor 256
      (((used s).setQueue q { s.queue q with expected := (s.queue q).expected + 1, timer := none }).complete q
        { seq := (s.queue q).expected, status := 1 }) q) := by
  have ho : (used s).timeoutOver q = true := by
    simp only [State.timeoutOver, used_queue, ht]
    exact decide_eq_true hl
  simp only [exec, execRecordTimeout, runEvent_input h, ho, if_true, Option.getD_some]
  rfl

theorem recordTimeout_early {s : State} {q t : Nat} (h : s.input = .recordTimeout q) (ht : (s.queue q).timer = some t)
    (hl : s.gtime.toNat < t + (s.queue q).cfg.timeoutNs) : exec .recordTimeout s = .next (used s) := by
  have ho : (used s).timeoutOver q = false := by
    simp only [State.timeoutOver, used_queue, ht]
    exact decide_eq_false (Nat.not_le.mpr hl)
  simp only [exec, execRecordTimeout, runEvent_input h, ho, Bool.false_eq_true, if_false, Option.getD_none]

/-- The oldest record that is still in the window, found. -/
theorem splitHeld_append {before behind : List QItem} {seq : BitVec 32} (h : ∀ r, .inWindow r ∉ before) :
    splitHeld (before ++ .inWindow seq :: behind) = some (before, seq, behind) := by
  induction before with
  | nil => rfl
  | cons i before ih =>
    have ht := ih fun r hr => h r (List.mem_cons_of_mem i hr)
    cases i with
    | inWindow r => exact absurd List.mem_cons_self (h r)
    | onChip bs => simp [splitHeld, ht]
    | walk bs w => simp [splitHeld, ht]

section Refill
variable {s : State} {q : Nat} {before behind : List QItem} {seq : BitVec 32}
  (hi : (s.queue q).items = before ++ .inWindow seq :: behind) (hb : ∀ r, .inWindow r ∉ before) (hr : (s.queue q).onChip < 16)
include hi hb hr

theorem State.refill_held : s.refill q =
    some (if fieldAt (s.slotBytes q seq) 120 4 = seq.toNat ∧ crcOk (s.slotBytes q seq) = true then
      (s.setQueue q { s.queue q with items := before ++ .onChip (s.slotBytes q seq) :: behind, consumed := seq }).unitWrite
        (windowOf q + 0xA000) (wordLe 4 seq)
    else (s.setQueue q { s.queue q with items := before ++ behind }).complete q { seq := seq, status := 6 }) := by
  simp only [State.refill, hi, splitHeld_append hb, Nat.not_le.mpr hr, if_false, Bool.and_eq_true, decide_eq_true_eq]
  split <;> rfl

variable (h : s.input = .onChipRingRefill q)
include h

theorem onChipRingRefill_eq : exec .onChipRingRefill s = .next
    (if fieldAt (s.slotBytes q seq) 120 4 = seq.toNat ∧ crcOk (s.slotBytes q seq) = true then
      ((used s).setQueue q { s.queue q with items := before ++ .onChip (s.slotBytes q seq) :: behind, consumed := seq }).unitWrite
        (windowOf q + 0xA000) (wordLe 4 seq)
    else ((used s).setQueue q { s.queue q with items := before ++ behind }).complete q { seq := seq, status := 6 }) := by
  simp only [exec, execOnChipRingRefill, runEvent_input h, State.refill_held (s := used s) hi hb hr, Option.getD_some]
  rfl

theorem onChipRingRefill_enters (hf : fieldAt (s.slotBytes q seq) 120 4 = seq.toNat) (hc : crcOk (s.slotBytes q seq) = true) :
    ∃ t, exec .onChipRingRefill s = .next t ∧
      t.queue q = { s.queue q with items := before ++ .onChip (s.slotBytes q seq) :: behind, consumed := seq } := by
  refine ⟨_, onChipRingRefill_eq hi hb hr h, ?_⟩
  rw [if_pos ⟨hf, hc⟩, State.unitWrite_queue, State.queue_setQueue]

end Refill

/-! ### The line monitor (R69) -/

section Monitor
variable {s : State} {q fuel : Nat} (he : (s.queue q).enable = true)
include he

theorem State.monitor_enabled : State.monitor (fuel + 1) s q =
    if fieldAt (s.slotBytes q (s.queue q).expected) 120 4 = (s.queue q).expected.toNat then
      if crcOk (s.slotBytes q (s.queue q).expected) then
        State.monitor fuel (s.acceptRecord q (s.slotBytes q (s.queue q).expected)) q
      else if (s.queue q).timer.isSome then s else s.setQueue q { s.queue q with timer := some s.gtime.toNat }
    else s.setQueue q { s.queue q with timer := none } := by
  simp [State.monitor, he]

end Monitor

/-- A record that is accepted while there is room on chip, and one that is not (R72). -/
theorem State.acceptRecord_queue (s : State) (q : Nat) (bs : List Byte) : (s.acceptRecord q bs).queue q =
    if (s.queue q).onChip < 16 ∧ (s.queue q).hasHeld = false then
      { s.queue q with items := (s.queue q).items ++ [.onChip bs], consumed := (s.queue q).expected
                       expected := (s.queue q).expected + 1, timer := none }
    else { s.queue q with items := (s.queue q).items ++ [.inWindow (s.queue q).expected]
                          expected := (s.queue q).expected + 1, timer := none } := by
  unfold State.acceptRecord
  have ho : ({ s.queue q with expected := (s.queue q).expected + 1, timer := none } : Queue).onChip = (s.queue q).onChip := rfl
  have hh : ({ s.queue q with expected := (s.queue q).expected + 1, timer := none } : Queue).hasHeld = (s.queue q).hasHeld := rfl
  simp only [ho, hh, Bool.not_eq_true']
  split
  · rw [State.unitWrite_queue, State.queue_setQueue]
  · rw [State.queue_setQueue]

/-! ### Completion entries (R71) -/

theorem Completion.bytes_length (c : Completion) (q : Nat) (time : DWord) : (c.bytes q time).length = 32 := by
  simp [Completion.bytes, wordLe, natLe_length]

section Complete
variable {s : State} (q : Nat) (c : Completion) (ho : ∀ l, (s.mem.line l).own = none)
include ho

/-- The two writes of a completion entry: the entry, and CDONE. -/
def completionWrites (s : State) (q : Nat) (c : Completion) : List (Nat × List Byte) :=
  [(windowOf q + 0x8000 + 32 * ((s.queue q).cdone.toNat % 256), c.bytes q s.gtime), (windowOf q + 0xA004, wordLe 4 ((s.queue q).cdone + 1))]

theorem State.complete_writes : ∃ t, HomeKeeps s t ∧ HomeWrites s t (completionWrites s q c) ∧
    s.complete q c = match (s.queue q).cfg.notify with
      | some a => (t.setQueue q { s.queue q with cdone := (s.queue q).cdone + 1 }).send (.notify a (c.bytes q s.gtime))
      | none => t.setQueue q { s.queue q with cdone := (s.queue q).cdone + 1 } := by
  have ht := State.unitWrite_keeps (windowOf q + 0x8000 + 32 * ((s.queue q).cdone.toNat % 256)) (c.bytes q s.gtime) ho
  have hto := fun l => ht.own l (ho l)
  have hu := State.unitWrite_keeps (windowOf q + 0xA004) (wordLe 4 ((s.queue q).cdone + 1)) hto
  refine ⟨_, ht.trans hu, ht.writes (State.unitWrite_writes ho ?_) (State.unitWrite_writes hto ?_), ?_⟩
  · rw [c.bytes_length, windowOf, Config.windowBase]; omega
  · rw [wordLe, natLe_length, windowOf, Config.windowBase]; omega
  · unfold State.complete
    dsimp only
    rw [(ht.trans hu).queue q] <;> rfl

theorem State.complete_leaves : (s.complete q c).queue q = { s.queue q with cdone := (s.queue q).cdone + 1 } ∧
    HomeWrites s (s.complete q c) (completionWrites s q c) ∧
    (s.ckpt.copy = none → (s.complete q c).sent = s.sent ++ (s.queue q).cfg.notify.toList.map fun a => .notify a (c.bytes q s.gtime)) := by
  obtain ⟨t, hk, hw, he⟩ := State.complete_writes q c ho
  rw [he]
  cases (s.queue q).cfg.notify with
  | none => exact ⟨State.queue_setQueue t q _, hw, fun h => by rw [State.setQueue_sent, (hk.quiet h).2]; exact (List.append_nil _).symm⟩
  | some a => exact ⟨State.queue_setQueue t q _, hw, fun h => by rw [← (hk.quiet h).2]; rfl⟩

end Complete

/-- The bytes of memory after a completion entry: the later write is that of CDONE, and they do not meet. -/
theorem overlay_completionWrites (s : State) (q : Nat) (c : Completion) (b : Nat) (d : Byte) :
    let n := (s.queue q).cdone
    let entry := windowOf q + 0x8000 + 32 * (n.toNat % 256)
    overlay (completionWrites s q c) b d = if entry ≤ b ∧ b < entry + 32 then (c.bytes q s.gtime).getD (b - entry) 0
      else if windowOf q + 0xA004 ≤ b ∧ b < windowOf q + 0xA008 then (wordLe 4 (n + 1)).getD (b - (windowOf q + 0xA004)) 0 else d := by
  dsimp only
  rw [completionWrites, overlay_cons, overlay_singleton, c.bytes_length, wordLe, natLe_length]
  by_cases h : windowOf q + 0xA004 ≤ b ∧ b < windowOf q + 0xA008
  · rw [if_pos (by omega), if_neg (by omega), if_pos h]
  · rw [if_neg (by omega), if_neg h]

/-- Settles O52: one rule for each setting and each event of a record; a completion entry by what writes at home lines leave. -/
theorem queueEvents : Obligations.QueueEvents := by
  refine ⟨fun s q hq hc => ?_, fun s q fuel hq hc he => ?_, fun s q c hq hc ho => ?_⟩
  · exact ⟨fun h hx => queueEnable_sets hq h hx.1 hx.2, fun h hx => queueDisable_sets hq hc h hx.1 hx.2,
      fun n h hn hx => queueSetQsize_sets hq h hn hx.1 hx.2, fun c => queueSettings_takes hq, fun t => recordTimeout_late,
      fun t => recordTimeout_early, fun before seq behind h hi hb hr => ⟨fun hg => onChipRingRefill_enters hi hb hr h hg.1 hg.2,
        fun hg => (onChipRingRefill_eq hi hb hr h).trans (congrArg _ (if_neg hg))⟩⟩
  · have hm := State.monitor_enabled (fuel := fuel) he
    refine ⟨fun hh hk ho hf => ⟨s.acceptRecord q (s.slotBytes q (s.queue q).expected), ?_, ?_⟩,
      fun hh hk ho => ⟨s.acceptRecord q (s.slotBytes q (s.queue q).expected), ?_, ?_⟩, fun hh hk ht => ?_, fun hh => ?_⟩
    · rw [State.acceptRecord_queue, if_pos ⟨ho, hf⟩]
    · rw [hm, if_pos hh, if_pos hk]
    · rw [State.acceptRecord_queue, if_neg]
      rintro ⟨hlt, hf⟩
      rcases ho with ho | ho
      · omega
      · rw [hf] at ho; cases ho
    · rw [hm, if_pos hh, if_pos hk]
    · rw [hm, if_pos hh, hk, ht]; rfl
    · rw [hm, if_neg hh]
  · obtain ⟨hq, hw, hs⟩ := State.complete_leaves q c ho
    exact ⟨hq, fun b hu hm => (hw b hu hm).trans (overlay_completionWrites s q c b _), hs⟩

end Sys2Proof.Machine
end

section
/-! PROOFS. The dispatcher (R74 to R80, R82, R83, R224, R255, R256). -/

namespace Sys2Proof.Machine

/-! ### The round of the queues (R74) -/

theorem mem_round {s : State} {q : Nat} : q ∈ s.round ↔ q < 64 := by
  simp only [State.round, List.mem_map, List.mem_range]
  constructor
  · rintro ⟨i, -, rfl⟩
    exact Nat.mod_lt _ (by decide)
  · intro hq
    exact ⟨(q + 63 * (s.served + 1)) % 64, Nat.mod_lt _ (by decide), by omega⟩

/-- A round in which one queue alone has something to do serves that queue. -/
theorem State.serveRound_only {s t : State} {q : Nat} (hq : s.serveQueue q = (t, true)) {qs : List Nat} (hm : q ∈ qs)
    (hidle : ∀ p ∈ qs, p ≠ q → s.serveQueue p = (s, false)) : State.serveRound qs s = { t with served := q } := by
  induction qs with
  | nil => cases hm
  | cons p qs ih =>
    by_cases hp : p = q
    · subst hp
      simp only [State.serveRound, hq]
    · have hm' : q ∈ qs := (List.mem_cons.mp hm).resolve_left (Ne.symm hp)
      simp only [State.serveRound, hidle p List.mem_cons_self hp]
      exact ih hm' fun r hr => hidle r (List.mem_cons_of_mem _ hr)

theorem State.serveQueue_idle {s : State} {q : Nat} (h : idleQueue (s.queue q)) : s.serveQueue q = (s, false) := by
  obtain ⟨hw, hrun | hhead⟩ := h
  · obtain ⟨gid, hg⟩ := Option.ne_none_iff_exists'.mp hrun
    simp only [State.serveQueue, hw, hg]
  · cases hr : (s.queue q).running <;> simp only [State.serveQueue, hw, hr, hhead]

section
variable {s : State} {q : Nat} {h : Head} {y : Queue}
  (hw : (s.queue q).waiting = none) (hrun : (s.queue q).running = none) (hh : (s.queue q).takeHead = some (h, y))
include hw hrun hh

theorem State.serveQueue_bad {t : State} {n : Nat} (hc : (s.setQueue q y).checkHead q h = (t, .bad n)) :
    s.serveQueue q = (t.refuseHead q h n, true) := by simp only [State.serveQueue, hw, hrun, hh, hc]

theorem State.serveQueue_push {t : State} {r : Record} (hc : (s.setQueue q y).checkHead q h = (t, .push r)) :
    s.serveQueue q = (t.pushRecord q h r, true) := by simp only [State.serveQueue, hw, hrun, hh, hc]

theorem State.serveQueue_grid {t : State} {r : Record} {hs : List Header}
    (hc : (s.setQueue q y).checkHead q h = (t, .grid r hs)) : s.serveQueue q = t.takeGrid q h r hs := by
  simp only [State.serveQueue, hw, hrun, hh, hc]

end

theorem Queue.takeHead_onChip {x : Queue} {bs : List Byte} {rest : List QItem} (ht : x.tail = none)
    (hi : x.items = .onChip bs :: rest) :
    x.takeHead = some ({ bytes := bs, seq := BitVec.ofNat 32 (fieldAt bs 120 4) }, { x with items := rest }) := by
  simp only [Queue.takeHead, ht, hi]

/-- What the dispatcher does with the one queue that has something to do. -/
theorem dispatchHead_serves {s t : State} {q : Nat} (hq : q < 64) (hidle : ∀ p, p < 64 → p ≠ q → idleQueue (s.queue p))
    (h : (used s).serveQueue q = (t, true)) : exec .dispatchHead s = .next { t with served := q } := by
  simp only [exec, execDispatchHead, runEvent, Option.getD_some]
  exact congrArg _ (State.serveRound_only (s := used s) h (mem_round.mpr hq) fun p hp hne =>
    State.serveQueue_idle (hidle p (mem_round.mp hp) hne))

section
variable {w : State} {q : Nat} {bs : List Byte} {seq : BitVec 32}

theorem State.checkHead_bad (hb : recordOk bs = false) :
    w.checkHead q { bytes := bs, seq := seq } = (w, .bad 2) := by simp [State.checkHead, hb]

theorem State.checkHead_push (hb : recordOk bs = true) (hk : (parseRecord bs).kind = 1) :
    w.checkHead q { bytes := bs, seq := seq } = (w, .push (parseRecord bs)) := by simp [State.checkHead, hb, hk]

theorem State.pushRecord_full {r : Record} (hl : 4096 ≤ w.heap.length) :
    w.pushRecord q { bytes := bs, seq := seq } r = w.complete q { seq := seq, status := 8 } := by
  simp only [State.pushRecord, if_pos hl, State.failWalk]

theorem State.pushRecord_silent {r : Record} (hl : w.heap.length < 4096) (hn : r.notify = false) :
    w.pushRecord q { bytes := bs, seq := seq } r = { w with heap := heapInsert (heapEntry r.deadline r.key) w.heap } := by
  simp only [State.pushRecord, if_neg (Nat.not_le.mpr hl), hn, Bool.false_eq_true, if_false, State.failWalk]

end

theorem dispatchHead_records (s : State) (q : Nat) (bs : List Byte) (rest : List QItem) (hq : q < 64)
    (hidle : ∀ p, p < 64 → p ≠ q → idleQueue (s.queue p)) (hw : (s.queue q).waiting = none)
    (hrun : (s.queue q).running = none) (ht : (s.queue q).tail = none) (hi : (s.queue q).items = .onChip bs :: rest) :
    let r := parseRecord bs
    let seq : BitVec 32 := BitVec.ofNat 32 (fieldAt bs 120 4)
    let w := (used s).setQueue q { s.queue q with items := rest }
    (recordOk bs = false → exec .dispatchHead s = .next { w.complete q { seq := seq, status := 2 } with served := q }) ∧
    (recordOk bs = true → r.kind = 1 →
      (4096 ≤ s.heap.length → exec .dispatchHead s = .next { w.complete q { seq := seq, status := 8 } with served := q }) ∧
      (s.heap.length < 4096 → r.notify = false → exec .dispatchHead s =
        .next { w with heap := heapInsert (heapEntry r.deadline r.key) s.heap, served := q })) ∧
    (∀ t hs, recordOk bs = true → r.kind ≠ 1 → w.checkHead q { bytes := bs, seq := seq } = (t, .grid r hs) →
      (t.takeGrid q { bytes := bs, seq := seq } r hs).2 = true →
      exec .dispatchHead s = .next { (t.takeGrid q { bytes := bs, seq := seq } r hs).1 with served := q }) := by
  intro r seq w
  have hh : ((used s).queue q).takeHead = _ := Queue.takeHead_onChip ht hi
  have hw' : ((used s).queue q).waiting = none := hw
  have hrun' : ((used s).queue q).running = none := hrun
  refine ⟨fun hb => ?_, fun hb hk => ?_, fun t hs _ _ hc h2 => ?_⟩
  · exact dispatchHead_serves hq hidle (State.serveQueue_bad hw' hrun' hh (State.checkHead_bad hb))
  · have hserve := State.serveQueue_push hw' hrun' hh (State.checkHead_push hb hk)
    refine ⟨fun hl => ?_, fun hl hn => ?_⟩
    · rw [State.pushRecord_full (by exact hl)] at hserve
      exact dispatchHead_serves hq hidle hserve
    · rw [State.pushRecord_silent (by exact hl) hn] at hserve
      exact dispatchHead_serves hq hidle hserve
  · have hserve := State.serveQueue_grid hw' hrun' hh hc
    exact dispatchHead_serves hq hidle (hserve.trans (Prod.ext rfl h2))

/-! ### A waiting grid in its turn (R75) -/

/-- How far a queue stands behind the queue served last. -/
def State.turnOf (s : State) (q : Nat) : Nat := (q + 63 - s.served) % 64

theorem State.servable_iff {s : State} {q : Nat} : s.servable q = true ↔ mayServe s q := by
  unfold State.servable mayServe
  cases hw : (s.queue q).waiting with
  | some gid => cases ht : s.tryPlace gid <;> simp [hw, ht]
  | none => cases hr : (s.queue q).running <;> simp [hw, hr, Option.isSome_iff_ne_none]

/-- The queue served next is the first of the round that can be served. -/
theorem State.nextServed_eq_some {s : State} {q : Nat} (hs : s.served < 64) (hq : q < 64) : s.nextServed = some q ↔
    mayServe s q ∧ ∀ p, p < 64 → s.turnOf p < s.turnOf q → ¬mayServe s p := by
  have hplace (p : Nat) (hp : p < 64) : (s.served + 1 + s.turnOf p) % 64 = p := by
    unfold State.turnOf; omega
  have hturn (i : Nat) (hi : i < 64) : s.turnOf ((s.served + 1 + i) % 64) = i := by
    unfold State.turnOf; omega
  have hlt (p : Nat) : s.turnOf p < 64 := Nat.mod_lt _ (by decide)
  simp only [State.nextServed, State.round, List.find?_map, Option.map_eq_some_iff, List.find?_range_eq_some,
    Function.comp_apply, List.mem_range, State.servable_iff, Bool.not_eq_true', ← Bool.not_eq_true]
  constructor
  · rintro ⟨i, ⟨hserve, hi, hfirst⟩, rfl⟩
    refine ⟨hserve, fun p hp hpi => ?_⟩
    rw [hturn i hi] at hpi
    simpa only [hplace p hp] using hfirst _ hpi
  · rintro ⟨hserve, hfirst⟩
    refine ⟨s.turnOf q, ⟨by rwa [hplace q hq], hlt q, fun i hi => hfirst _ (Nat.mod_lt _ (by decide)) ?_⟩, hplace q hq⟩
    rwa [hturn i (Nat.lt_trans hi (hlt q))]

theorem placementRetry_runs {s : State} {q gid : Nat} (h : s.input = .placementRetry q)
    (hw : (s.queue q).waiting = some gid) : exec .placementRetry s = .next
      (if (used s).nextServed = some q then { ((used s).searchAgain q gid).1 with served := q } else used s) := by
  have hw' : ((used s).queue q).waiting = some gid := hw
  simp only [exec, execPlacementRetry, runEvent_input h]
  by_cases hn : (used s).nextServed = some q
  · simp only [if_pos hn, hw', Option.map_some, Option.getD_some]
  · simp only [if_neg hn, Option.getD_none]

theorem placementRetry_searches (s : State) (q gid : Nat) (h : s.input = .placementRetry q)
    (hw : (s.queue q).waiting = some gid) (hq : q < 64) (hs : s.served < 64) :
    let u := used s
    let turn : Prop := ∀ p, p < 64 → (p + 63 - s.served) % 64 < (q + 63 - s.served) % 64 → ¬mayServe u p
    (u.tryPlace gid = .none ∨ ¬turn → exec .placementRetry s = .next u) ∧
    (turn → (∀ t, u.tryPlace gid = .some t → exec .placementRetry s = .next { t with served := q }) ∧
      (u.tryPlace gid = .cycle → exec .placementRetry s = .next { u.refuseCycle q gid with served := q })) := by
  intro u turn
  have hw' : (u.queue q).waiting = some gid := hw
  have hserve : mayServe u q ↔ u.tryPlace gid ≠ .none := by simp only [mayServe, hw']
  have hnext : u.nextServed = some q ↔ mayServe u q ∧ turn := State.nextServed_eq_some (s := u) hs hq
  have hrun : exec .placementRetry s = .next
      (if u.nextServed = some q then { (u.searchAgain q gid).1 with served := q } else u) := placementRetry_runs h hw
  refine ⟨fun hno => ?_, fun hturn => ⟨fun t ht => ?_, fun ht => ?_⟩⟩
  · rw [hrun, if_neg]
    rw [hnext, hserve]
    exact fun hboth => hno.elim hboth.1 fun hnt => hnt hboth.2
  all_goals
    have hn : u.nextServed = some q := hnext.mpr ⟨hserve.mpr (by rw [ht]; exact Tried.noConfusion), hturn⟩
    rw [hrun, if_pos hn, State.searchAgain, ht]

/-! ### A task is placed (R75 to R78) -/

@[simp] theorem State.core_modCore (s : State) (n : Nat) (g : Core → Core) : (s.modCore n g).core n = g (s.core n) :=
  State.core_setCore s n _

@[simp] theorem State.core_raiseT (s : State) (n t : Nat) :
    (s.raiseT n t).core n = { s.core n with t := max (s.core n).t t } := State.core_modCore s n _

/-- The context on which a task of no gang is placed is ready. -/
theorem State.placeMember_sole (s : State) (n c : Nat) {t : Task} (hg : t.gslot = none)
    (hown : ∀ l, (s.mem.line l).own = none) :
    let x := firstCtx t n c (s.queue t.queue).cfg.legmax true
    (s.placeMember n c t).core n = { s.core n with ctxs := tset (s.core n).ctxs c x } ∧
      (s.placeMember n c t).dispT = s.dispT ∧ (s.placeMember n c t).clock = s.clock := by
  intro x
  have hfirst := State.unitWrite_keeps (s := s.setCtx n c x) (x.saveAt 41) [0] hown
  have hkeeps := hfirst.trans
    (State.unitWrite_keeps (x.saveAt 48) (natLe 8 0) fun l => hfirst.own l (hown l))
  have hx : s.placeMember n c t = ((s.setCtx n c x).unitWrite (x.saveAt 41) [0]).unitWrite (x.saveAt 48) (natLe 8 0) := by
    simp only [State.placeMember, hg]
    rfl
  rw [hx]
  refine ⟨?_, by have h := congrArg State.dispT hkeeps.rest; exact h, hkeeps.clock⟩
  rw [State.core, hkeeps.cores]
  exact State.core_setCtx s n c x

/-- A grid of which one more instance has been placed, on a core at a step. -/
def Grid.onePlaced (g : Grid) (n clock : Nat) : Grid :=
  { g with
    placed := g.placed + 1, live := g.live + g.hdrs.length, from_ := n + 1, born := if g.placed = 0 then clock else g.born }

/-- The end of a placement: the grid has one more instance, and the core hears the dispatcher. -/
def State.closePlacement (s : State) (gid n : Nat) (g : Grid) : State :=
  let s := ({ s with grids := tset s.grids gid (g.onePlaced n s.clock) } : State).handOff n
  if g.walk.isSome then s.raiseT n s.slcTime else s

theorem State.closePlacement_core (s : State) (gid n : Nat) (g : Grid) : ∃ t, s.dispT ≤ t ∧
    (s.closePlacement gid n g).core n = { s.core n with t := t } := by
  simp only [State.closePlacement]
  split
  · exact ⟨_, le_max_of_le_left (le_max_of_le_right (le_max_left _ _)), by rw [core_raiseT, State.handOff, core_raiseT]; rfl⟩
  · exact ⟨_, le_max_of_le_right (le_max_left _ _), by rw [State.handOff, core_raiseT]; rfl⟩

theorem State.closePlacement_grids (s : State) (gid n : Nat) (g : Grid) :
    (s.closePlacement gid n g).grids = tset s.grids gid (g.onePlaced n s.clock) := by
  simp only [State.closePlacement]
  split <;> rfl

/-- The members of an instance with their uids, on the state that places them. -/
def State.newMembers (s : State) (g : Grid) : List (Header × Nat) := g.hdrs.zipIdx.map fun h => (h.1, s.fresh + h.2)

/-- The local pipes of an instance on the core that takes it. -/
def State.newPipes (s : State) (g : Grid) (n : Nat) : List PipeEnd × List PipeEnd :=
  bindPipes (s.core n).pipes g.hdrs g.record.pipemap

/-- The task of a member. -/
def State.newTask (s : State) (gid : Nat) (g : Grid) (n : Nat) (m : Header × Nat) : Task :=
  { uid := m.2, grid := gid, index := g.placed, hdr := m.1, record := g.record, queue := g.queue
    spBase := 4194304 * s.fresh, spSize := total (g.hdrs.map (·.scratch))
    gslot := if g.hdrs.length = 1 then none else some (if (s.core n).gangHeld 0 then 1 else 0)
    mates := if g.hdrs.length = 1 then [] else (s.newMembers g).map (·.2)
    pushEnd := endsOf (s.newPipes g n).1 m.1.role, popEnd := endsOf (s.newPipes g n).2 m.1.role }

/-- The core that takes an instance, before its members are on their contexts. -/
def State.openPlacement (s : State) (g : Grid) (n : Nat) : State :=
  ({ s with fresh := s.fresh + g.hdrs.length } : State).setCore n
    { s.core n with pipes := openPipes (s.core n).pipes (s.newMembers g) (s.newPipes g n), icache := [] }

theorem State.placeOn_eq (s : State) (gid : Nat) (g : Grid) (n : Nat) : s.placeOn gid g n =
    (((s.newMembers g).zip ((s.core n).freeSlots g.taken)).foldl (fun t m => t.placeMember n m.2 (s.newTask gid g n m.1))
      (s.openPlacement g n)).closePlacement gid n g :=
  rfl

theorem State.placeOn_sole {s : State} {gid n c : Nat} {g : Grid} {h : Header} {cs : List Nat} (hh : g.hdrs = [h])
    (hfree : (s.core n).freeSlots g.taken = c :: cs) :
    s.placeOn gid g n = ((s.openPlacement g n).placeMember n c (s.newTask gid g n (h, s.fresh))).closePlacement gid n g := by
  rw [State.placeOn_eq, hfree, State.newMembers, hh]
  rfl

theorem State.placeTask_sole (s : State) (gid n : Nat) (g : Grid) (h : Header) (cores : List Nat)
    (hg : tget s.grids gid = some g) (hh : g.hdrs = [h])
    (hfind : (searchOrder cores g.from_).find? (fun m => (s.core m).canPlace gid g) = some n)
    (hown : ∀ l, (s.mem.line l).own = none) :
    ∃ t c x, s.placeTask cores gid = some t ∧ ((s.core n).freeSlots g.taken).head? = some c ∧ t.ctx? n c = some x ∧
      x.task.hdr = h ∧ x.task.index = g.placed ∧ x.task.record = g.record ∧ x.run = .ready ∧ x.pc = .at h.code ∧
      x.regs.s = mset 0 (mset 0 [] 1 (BitVec.ofNat 64 g.placed)) 2 g.record.param ∧ x.regs.v = [] ∧ x.pend = [] ∧
      x.ctl.status = 0 ∧ x.ctl.fmode = 0 ∧ x.ctl.equota = g.record.equota ∧
      tget t.grids gid = some { g with
        placed := g.placed + 1, live := g.live + 1, from_ := n + 1, born := if g.placed = 0 then s.clock else g.born } ∧
      (t.core n).icache = [] ∧ s.dispT ≤ (t.core n).t := by
  have hcan : (s.core n).canPlace gid g = true := List.find?_some (p := fun m => (s.core m).canPlace gid g) hfind
  have hlen : 0 < ((s.core n).freeSlots g.taken).length := by
    simp only [Core.canPlace, Core.hasSlots, hh, List.length_singleton, Bool.and_eq_true, decide_eq_true_eq] at hcan
    exact hcan.1
  obtain ⟨c, cs, hfree⟩ := List.exists_cons_of_length_pos hlen
  have hplace := State.placeOn_sole (gid := gid) hh hfree
  have hslot : (s.newTask gid g n (h, s.fresh)).gslot = none := if_pos (by rw [hh]; rfl)
  obtain ⟨hcore, hheard, hclock⟩ := State.placeMember_sole (s.openPlacement g n) n c hslot hown
  obtain ⟨u, hu, hclose⟩ := State.closePlacement_core
    ((s.openPlacement g n).placeMember n c (s.newTask gid g n (h, s.fresh))) gid n g
  rw [← hplace, hcore] at hclose
  refine ⟨s.placeOn gid g n, c, firstCtx (s.newTask gid g n (h, s.fresh)) n c (s.queue g.queue).cfg.legmax true, ?_,
    by rw [hfree, List.head?_cons], ?_, rfl, rfl, rfl, rfl, rfl, rfl, rfl, rfl, rfl, rfl, rfl, ?_, ?_, ?_⟩
  · simp only [State.placeTask, hg, hfind, Option.map_some]
  · rw [State.ctx?, hclose, tget_tset_self]
    rfl
  · rw [hplace, State.closePlacement_grids, tget_tset_self, hclock, Grid.onePlaced, hh]
    rfl
  · rw [hclose, State.openPlacement, State.core_setCore]
  · rw [hclose]
    exact hheard ▸ hu

/-! ### A context is freed (R80) -/

theorem Ctx.over_iff {x : Ctx} : x.over = true ↔ x.run = .ended ∧ x.cnt.st = 0 ∧ x.cnt.rm = 0 ∧ x.cnt.as = 0 := by
  simp [Ctx.over, and_assoc]

theorem State.freeOver_none {s : State} {n c : Nat} {x : Ctx} (hx : s.ctx? n c = some x) (hover : x.over = false)
    (hsus : ∀ o ∈ (s.core n).suspended, o.2.slot ≠ c) : s.freeOver n c = none := by
  have hfind : (s.core n).suspended.find? (fun e => e.2.slot = c && e.2.ctx.over) = none := by
    simp only [List.find?_eq_none, Bool.and_eq_true, decide_eq_true_eq, not_and]
    exact fun o ho hslot => absurd hslot (hsus o ho)
  simp only [State.freeOver, hx, Option.any_some, hover, Bool.false_eq_true, if_false, hfind, Option.map_none]

theorem State.retireOver_live {s : State} {gid : Nat} {g : Grid} (hg : tget s.grids gid = some g) (hl : g.live ≠ 0) :
    s.retireOver gid = s := by simp only [State.retireOver, hg, hl, false_and, if_false]

/-- The counts of a grid one of whose tasks has been freed (R71). -/
def Grid.oneFreed (g : Grid) (x : Ctx) : Grid :=
  { g with live := g.live - 1, done := g.done + (if x.trapped then 0 else 1), ended := g.ended + (if x.trapped then 1 else 0) }

theorem State.countFreed_live {s : State} {x : Ctx} {g : Grid} (hg : tget s.grids x.task.grid = some g) (h1 : g.live ≠ 1)
    (hpos : 1 ≤ g.live) : s.countFreed x = { s with grids := tset s.grids x.task.grid (g.oneFreed x) } := by
  simp only [State.countFreed, hg]
  exact State.retireOver_live (tget_tset_self _ _ _) (show g.live - 1 ≠ 0 by omega)

theorem contextFree_frees (s : State) (n c : Nat) (x : Ctx) (g : Grid) (h : s.input = .contextFree n c)
    (hx : s.ctx? n c = some x) :
    let u := used s
    let done : Prop := x.run = .ended ∧ x.cnt.st = 0 ∧ x.cnt.rm = 0 ∧ x.cnt.as = 0
    (¬done → (∀ o ∈ (s.core n).suspended, o.2.slot ≠ c) → exec .contextFree s = .next u) ∧
    (done → tget s.grids x.task.grid = some g → g.live ≠ 1 → 1 ≤ g.live → exec .contextFree s = .next
      { u.setCore n ((s.core n).dropCtx c x) with
        dispT := max s.dispT (s.core n).t
        grids := tset s.grids x.task.grid { g with
          live := g.live - 1, done := g.done + (if x.trapped then 0 else 1),
            ended := g.ended + (if x.trapped then 1 else 0) } }) := by
  intro u done
  have hx' : u.ctx? n c = some x := hx
  simp only [exec, execContextFree, runEvent_input h]
  refine ⟨fun hnot hsus => ?_, fun hdone hg h1 hpos => ?_⟩
  · rw [State.freeOver_none hx' (Bool.eq_false_iff.mpr (mt Ctx.over_iff.mp hnot)) hsus, Option.getD_none]
  · have hover : (u.ctx? n c).any Ctx.over = true := by rw [hx', Option.any_some, Ctx.over_iff.mpr hdone]
    rw [State.freeOver, if_pos hover, Option.getD_some, State.freeContext, State.ctx, hx', Option.getD_some]
    exact congrArg Host.Outcome.next (State.countFreed_live hg h1 hpos)

/-! ### Barriers (R83) -/

theorem State.allArrived_iff {s : State} {b : Barrier} : s.allArrived b = true ↔
    b.arrived ≠ [] ∧ ∀ m ∈ s.members b.grid b.level b.dom, m ∈ b.arrived := by
  simp [State.allArrived]

section
variable {s : State} {b : Barrier}

theorem State.barrierStep_early (h : ¬s.allArrived b = true) : s.barrierStep b = none := by
  simp only [State.barrierStep, Bool.not_eq_true _ |>.mp h, Bool.not_false, if_true]

theorem State.barrierStep_near (h : s.allArrived b = true) (hl : b.level ≠ 5) :
    s.barrierStep b = some (s.releaseBarrier b) := by
  simp only [State.barrierStep, h, Bool.not_true, Bool.false_eq_true, if_false, if_pos hl]

/-- Level 5: the arrivals are sent once, and the generation releases with those of the peers. -/
theorem State.barrierStep_far (h : s.allArrived b = true) (hl : b.level = 5) : s.barrierStep b =
    if 0 < b.peers then some ((if b.sent then s else s.sendArrivals b).releaseBarrier b)
    else if b.sent then none else some (s.sendArrivals b) := by
  simp only [State.barrierStep, h, Bool.not_true, Bool.false_eq_true, if_false, hl, ne_eq, not_true_eq_false]
  cases b.sent <;> rfl

end

theorem State.sendArrivals_sends {s : State} {b : Barrier} {g : Grid} (hg : tget s.grids b.grid = some g) :
    (s.sendArrivals b).sent = s.sent ++ [.arrival g.record.jobtag b.n] ∧ (s.sendArrivals b).cores = s.cores := by
  simp only [State.sendArrivals, hg]
  exact ⟨rfl, rfl⟩

theorem barrierRelease_steps (s : State) (gid level dom n : Nat) (b : Barrier) (h : s.input = .barrierRelease gid level dom n)
    (hb : s.barriers.find? (fun b => b.is gid level dom n) = some b) :
    let u := used s
    let all : Prop := b.arrived ≠ [] ∧ ∀ m ∈ s.members b.grid b.level b.dom, m ∈ b.arrived
    (¬all → exec .barrierRelease s = .next u) ∧ (all → level ≠ 5 → exec .barrierRelease s = .next (u.releaseBarrier b)) ∧
    (all → level = 5 → b.sent = true → b.peers = 0 → exec .barrierRelease s = .next u) ∧
    (all → level = 5 → b.sent = true → 0 < b.peers → exec .barrierRelease s = .next (u.releaseBarrier b)) ∧
    (∀ g, all → level = 5 → b.sent = false → b.peers = 0 → tget s.grids b.grid = some g →
      ∃ t, exec .barrierRelease s = .next t ∧ t.sent = s.sent ++ [.arrival g.record.jobtag b.n] ∧ t.cores = s.cores) := by
  intro u all
  have hrun : exec .barrierRelease s = .next ((u.barrierStep b).getD u) := by
    simp only [exec, execBarrierRelease, runEvent_input h, show (used s).barriers = s.barriers from rfl, hb, Option.bind_some, u]
  have hall : u.allArrived b = true ↔ all := State.allArrived_iff
  have hlevel : b.level = level := by
    have his := List.find?_some hb
    simp only [Barrier.is, Bool.and_eq_true, decide_eq_true_eq] at his
    exact his.1.1.2
  rw [hrun]
  subst hlevel
  refine ⟨fun hnot => ?_, fun ha hl => ?_, fun ha hl hs hp => ?_, fun ha hl hs hp => ?_, fun g ha hl hs hp hg => ?_⟩
  · rw [State.barrierStep_early (mt hall.mp hnot), Option.getD_none]
  · rw [State.barrierStep_near (hall.mpr ha) hl, Option.getD_some]
  · rw [State.barrierStep_far (hall.mpr ha) hl, hp, hs]
    rfl
  · rw [State.barrierStep_far (hall.mpr ha) hl, if_pos hp, hs]
    rfl
  · rw [State.barrierStep_far (hall.mpr ha) hl, hp, hs]
    exact ⟨u.sendArrivals b, rfl, State.sendArrivals_sends (s := u) hg⟩

theorem State.peerArrivals_grid {s : State} {job : BitVec 32} {n gid : Nat} {g : Grid}
    (hg : s.grids.find? (fun g => g.2.record.jobtag = job && job != 0) = some (gid, g)) : s.peerArrivals job n =
      some { s with
        barriers := if s.barriers.any (fun b => b.is gid 5 0 n) then
            s.barriers.map fun b => if b.is gid 5 0 n then { b with peers := b.peers + 1 } else b
          else s.barriers ++ [{ grid := gid, level := 5, dom := 0, n := n, peers := 1 }] } := by
  simp only [State.peerArrivals, hg]
  split <;> rfl

theorem barD5Exchange_counts (s : State) (node job : Nat) (gid n : Nat) (g : Grid) (h : s.input = .barD5Exchange node job n) :
    ((mget {} s.fabric.nodes node).failed = true → exec .barD5Exchange s = .next (used s)) ∧
    ((mget {} s.fabric.nodes node).failed = false →
    s.grids.find? (fun g => g.2.record.jobtag = BitVec.ofNat 32 job && BitVec.ofNat 32 job != 0) = some (gid, g) →
    exec .barD5Exchange s = .next { used s with
      barriers := if s.barriers.any (fun b => b.is gid 5 0 n) then
          s.barriers.map fun b => if b.is gid 5 0 n then { b with peers := b.peers + 1 } else b
        else s.barriers ++ [{ grid := gid, level := 5, dom := 0, n := n, peers := 1 }] }) := by
  simp only [exec, execBarD5Exchange, runEvent_input h]
  have hears : (used s).hearsNode node = !(mget {} s.fabric.nodes node).failed := rfl
  refine ⟨fun hf => ?_, fun hf hg => ?_⟩
  · simp only [hears, hf, Bool.not_true, Bool.false_eq_true, if_false, Option.getD_none]
  · simp only [hears, hf, Bool.not_false, if_true]
    exact congrArg (fun o : Option State => Host.Outcome.next (o.getD (used s))) (State.peerArrivals_grid (s := used s) hg)

/-! ### Answers, idle passes and walks (R82, R224, R256) -/

theorem dispatchAnswer_answers {s : State} {n c : Nat} {x : Ctx} (hx : s.ctx? n c = some x) (h : s.input = .dispatchAnswer n c) :
    (x.run = .blocked .answer → x.bundle.all Bundle.answered = true →
      exec .dispatchAnswer s = .next ((used s).setCtx n c { x with run := .ready })) ∧
    (x.run ≠ .blocked .answer ∨ x.bundle.all Bundle.answered = false → exec .dispatchAnswer s = .next (used s)) := by
  have hx' : (used s).ctx? n c = some x := hx
  simp only [exec, execDispatchAnswer, runEvent_input h, hx', Option.bind_some]
  refine ⟨fun hr hb => ?_, fun hno => ?_⟩
  · rw [if_pos ⟨hr, hb⟩, Option.getD_some]
  · rw [if_neg fun hyes => hno.elim (fun hr => hr hyes.1) fun hb => Bool.false_ne_true (hb.symm.trans hyes.2), Option.getD_none]

theorem edgeIdlePass_passes {s : State} {n c p g : Nat} {x : Ctx} (hx : s.ctx? n c = some x) (h : s.input = .edgeIdlePass n c)
    (hr : x.run = .edges (p + 1)) (hg : x.task.gslot = some g) (hready : (s.core n).edgeReady g x.task.hdr.role = true) :
    exec .edgeIdlePass s = .next ((used s).modCore n fun k =>
      (k.modTask x.task.uid fun y => { y with run := .edges p, fires := y.fires + 1 }).fire x) := by
  have hx' : tget ((used s).core n).ctxs c = some x := hx
  have hready' : ((used s).core n).edgeReady g x.task.hdr.role = true := hready
  simp only [exec, execEdgeIdlePass, runEvent_input h, State.passEdges, Core.tasksAt, hx', Option.toList_some,
    List.singleton_append, List.findSome?_cons, hr, hg, hready', if_true, Option.getD_some]

theorem walkStart_serves {s : State} {h m : Nat} {c : Chain} (hi : s.input = .walkStart h) (hc : tget s.chains h = some c)
    (hp : c.phase = .walk m none) : exec .walkStart s = .next (used s).serveSlices := by
  simp only [exec, execWalkStart, runEvent_input hi, show tget (used s).chains h = some c from hc, Option.bind_some, hp,
    Option.getD_some]

section
variable {s : State} {h m : Nat} {c : Chain} (fuel : Nat) (hc : tget s.chains h = some c) (hp : c.phase = .walk m none)
include hc hp

theorem State.walkOn_ends (hn : c.nextStep m = none) :
    State.walkOn (fuel + 1) s h = s.setChain h { c with phase := .hold, news := true } := by
  simp only [State.walkOn, hc, hp, hn]

theorem State.walkOn_queues {n : Nat} {t : State} {bs : List Byte} (hn : c.nextStep m = some n)
    (hread : (s.setChain h { c with phase := .walk n (some n) }).readRecord c.ownerQueue c.crec 128 = (t, some bs))
    (he : (t.queue c.cq).enable = true) : State.walkOn (fuel + 1) s h = t.setQueue c.cq { t.queue c.cq with
      items := (t.queue c.cq).items ++ [.walk bs ⟨h, n, c.opened, c.walks⟩] } := by
  simp only [State.walkOn, hc, hp, hn, hread, he]

end

/-! ### Edges (R252, R255) -/

/-- A table whose values are changed by functions of their keys. -/
theorem tget_map_keyed {α : Type} (f : Nat → α → α) (m : SMap α) (i : Nat) :
    tget (m.map fun e => (e.1, f e.1 e.2)) i = (tget m i).map (f i) := by
  induction m with
  | nil => rfl
  | cons e m ih =>
    by_cases h : e.1 = i
    · subst h
      simp only [List.map_cons, tget, if_true, Option.map_some]
    · simp only [List.map_cons, tget, if_neg h, ih]

theorem Core.settleEdges_nil (k : Core) (g : Nat) : k.settleEdges g [] = k := by
  simp [Core.settleEdges]

/-- An edge after a member has fired. -/
def firedEdge (g role i : Nat) (w : DWord) : DWord :=
  if i / 32 = g ∧ edgeIncident w role ∧ edgePoints w = role then edgeTurn w else w

theorem firedEdge_zero (g role i : Nat) : firedEdge g role i 0 = 0 :=
  if_neg fun h => absurd h.2.1 (by simp [edgeIncident, edgeValid])

theorem Core.mget_fireEdges (k : Core) (g role i : Nat) :
    mget 0 (k.fireEdges g role).edges i = firedEdge g role i (mget 0 k.edges i) := by
  have hmap : (k.fireEdges g role).edges = k.edges.map fun e => (e.1, firedEdge g role e.1 e.2) := by
    simp only [Core.fireEdges, firedEdge]
    exact List.map_congr_left fun e _ => by split <;> rfl
  rw [mget, mget, hmap, tget_map_keyed]
  cases tget k.edges i with
  | none => exact (firedEdge_zero g role i).symm
  | some w => rfl

theorem Core.mget_fire {k : Core} {x : Ctx} {g : Nat} (i : Nat) (hg : x.task.gslot = some g)
    (hd : k.deadRoles x.task.mates = []) :
    mget 0 (k.fire x).edges i = firedEdge g x.task.hdr.role i (mget 0 k.edges i) := by
  simp only [Core.fire, hg, hd, Core.settleEdges_nil, Core.mget_fireEdges]

/-- Settles O53: the dispatcher's events, each through what its function does with the state. -/
theorem dispatcherEvents : Obligations.DispatcherEvents := by
  unfold Obligations.DispatcherEvents
  refine ⟨fun s q bs rest hq _ hidle hw hrun ht hi => dispatchHead_records s q bs rest hq hidle hw hrun ht hi,
    placementRetry_searches, State.placeTask_sole, contextFree_frees, barrierRelease_steps, barD5Exchange_counts,
    fun s n c x hx => ⟨fun h => (dispatchAnswer_answers hx h).1, fun h => (dispatchAnswer_answers hx h).2,
      fun p g h hr hg hready => edgeIdlePass_passes hx h hr hg hready⟩,
    fun s h m c hi hc hp => walkStart_serves hi hc hp,
    fun s h m fuel c hc hp => ⟨State.walkOn_ends fuel hc hp, fun n t bs => State.walkOn_queues fuel hc hp⟩,
    fun k x g i hg hd => Core.mget_fire i hg hd⟩

end Sys2Proof.Machine
end

section
/-! PROOFS. Accesses that arrive through the fabric interface (R313, R330, R339, R353). -/

namespace Sys2Proof.Machine

/-! ### Bytes that exist (R319, R354) -/

theorem Memory.anyGone_iff {m : Memory} {a len : Nat} (hl : len ≠ 0) :
    m.anyGone a len = true ↔ ∃ i < len, m.missing (a + i) = true := by
  simp only [Memory.anyGone, List.any_eq_true, Bool.and_eq_true, decide_eq_true_eq, Memory.missing]
  constructor
  · rintro ⟨e, he, hlo, hhi⟩
    refine ⟨max a (256 * e.1) - a, by omega, ?_⟩
    rw [show (a + (max a (256 * e.1) - a)) / 256 = e.1 by omega]
    exact tget_isSome_of_mem he
  · rintro ⟨i, hi, hgone⟩
    obtain ⟨u, hu⟩ := Option.isSome_iff_exists.mp hgone
    exact ⟨_, tget_mem hu, by dsimp only; omega, by dsimp only; omega⟩

theorem Memory.has_iff {s : State} {a len : Nat} : s.mem.has a len = true ↔ ¬nowhere s a len := by
  simp only [Memory.has, inMemory, nowhere, Bool.and_eq_true, Bool.or_eq_true, decide_eq_true_eq, not_or, Nat.not_lt]
  refine and_congr_right fun _ => ?_
  by_cases hl : len = 0
  · simp [hl]
  · simp only [hl, false_or, Bool.not_eq_true', ← Bool.not_eq_true, Memory.anyGone_iff hl]

/-! ### Marked blocks (R353) -/

theorem Memory.isBad_add (m : Memory) (a k n : Nat) : m.isBad a (k + n) = (m.isBad a k || m.isBad (a + k) n) := by
  rw [Bool.eq_iff_iff, Bool.or_eq_true]
  simp only [Memory.isBad, List.any_eq_true, Bool.and_eq_true, decide_eq_true_eq]
  constructor
  · rintro ⟨e, he, hlo, hhi⟩
    by_cases hk : 256 * e.1 < a + k
    · exact .inl ⟨e, he, hk, hhi⟩
    · exact .inr ⟨e, he, by omega, by omega⟩
  · rintro (⟨e, he, hlo, hhi⟩ | ⟨e, he, hlo, hhi⟩) <;> exact ⟨e, he, by omega, by omega⟩

theorem Memory.any_isBad_splitLines (m : Memory) : ∀ {fuel a len : Nat}, len ≠ 0 → a % 64 + len ≤ 64 * fuel →
    (splitLines fuel a len).any (fun p => m.isBad p.1 p.2) = m.isBad a len
  | 0, a, len, hl, hf => by omega
  | fuel + 1, a, len, hl, hf => by
    have hmin : min len (64 - a % 64) ≤ len := Nat.min_le_left _ _
    rw [splitLines, if_neg hl, List.any_cons]
    by_cases hr : len - min len (64 - a % 64) = 0
    · rw [hr, show min len (64 - a % 64) = len by omega]
      cases fuel <;> simp [splitLines]
    · rw [m.any_isBad_splitLines hr (by omega), ← Memory.isBad_add, Nat.add_sub_cancel' hmin]

/-! ### The parts of a range -/

theorem splitLines_rising : ∀ {fuel a len : Nat}, (splitLines fuel a len).Pairwise fun p q => lineOf p.1 < lineOf q.1
  | 0, _, _ => .nil
  | fuel + 1, a, len => by
    unfold splitLines
    split
    · exact .nil
    · refine .cons (fun q hq => ?_) splitLines_rising
      have := mem_splitLines hq
      simp only [lineOf]
      omega

/-- A range within one line is one part. -/
theorem lineParts_within {a len : Nat} (h : a % 64 + len ≤ 64) : lineParts a len = if len = 0 then [] else [(a, len)] := by
  unfold lineParts splitLines
  split
  · rfl
  · simp only [Nat.min_eq_left (show len ≤ 64 - a % 64 by omega), Nat.sub_self]
    cases len / 64 + 1 <;> simp [splitLines]

theorem tset_append {α : Type} {m : SMap α} {k : Nat} (a : α) (h : ∀ e ∈ m, e.1 < k) : tset m k a = m ++ [(k, a)] := by
  induction m with
  | nil => rfl
  | cons e m ih =>
    have := h e List.mem_cons_self
    rw [tset, if_neg (by omega), if_neg (by omega), ih fun f hf => h f (List.mem_cons_of_mem _ hf)]
    rfl

theorem tget_eq_none {α : Type} {m : SMap α} {k : Nat} (h : ∀ e ∈ m, e.1 ≠ k) : tget m k = none := by
  cases hk : tget m k with
  | none => rfl
  | some a => exact absurd rfl (h _ (tget_mem hk))

/-- Pieces of rising lines, each by its line. -/
theorem foldl_byLine {ps : List (Nat × List Byte)} (hp : ps.Pairwise fun p q => lineOf p.1 < lineOf q.1)
    {m : SMap (List (Nat × List Byte))} (hm : ∀ e ∈ m, ∀ p ∈ ps, e.1 < lineOf p.1) :
    ps.foldl (fun m p => mmod [] m (lineOf p.1) (· ++ [p])) m = m ++ ps.map fun p => (lineOf p.1, [p]) := by
  induction ps generalizing m with
  | nil => simp
  | cons p ps ih =>
    have hnew : mmod [] m (lineOf p.1) (· ++ [p]) = m ++ [(lineOf p.1, [p])] := by
      have hnone : tget m (lineOf p.1) = none := tget_eq_none fun e he => Nat.ne_of_lt (hm e he p List.mem_cons_self)
      simp only [mmod, mset, mget, hnone, Option.getD_none, List.nil_append, List.cons_ne_nil, if_false]
      exact tset_append _ fun e he => hm e he p List.mem_cons_self
    rw [List.foldl_cons, hnew, ih (List.pairwise_cons.mp hp).2, List.append_assoc]
    · rfl
    · intro e he q hq
      rcases List.mem_append.mp he with he | he
      · exact hm e he q (List.mem_cons_of_mem _ hq)
      · rw [List.mem_singleton.mp he]
        exact (List.pairwise_cons.mp hp).1 q hq

theorem byLine_cutLines (a : Nat) (bs : List Byte) :
    byLine (cutLines a bs) = (cutLines a bs).map fun p => (lineOf p.1, [p]) :=
  foldl_byLine (m := []) (List.pairwise_map.mpr splitLines_rising) (by simp)

/-! ### One line of an access -/

theorem State.peek_unowned {s : State} (h : ∀ l, (s.mem.line l).own = none) (a len : Nat) :
    s.peek a len = readBytes s.mem.bytes a len := by
  refine List.map_congr_left fun i _ => ?_
  have hown := h (lineOf (a + i))
  unfold Memory.line at hown
  split
  · rename_i heq
    rw [heq] at hown
    cases hown
  · rfl

/-- What a read by the fabric interface keeps. -/
structure FabricReads (s t : State) : Prop where
  keeps : HomeKeeps s t
  bytes : t.mem.bytes = s.mem.bytes
  bad : t.mem.bad = s.mem.bad

theorem FabricReads.refl (s : State) : FabricReads s s := ⟨.refl s, rfl, rfl⟩

theorem FabricReads.trans {s t u : State} (h : FabricReads s t) (g : FabricReads t u) : FabricReads s u :=
  ⟨h.keeps.trans g.keeps, g.bytes.trans h.bytes, g.bad.trans h.bad⟩

theorem State.remoteReadLine_reads {s : State} {l : Nat} (h : (s.mem.line l).own = none) :
    FabricReads s (s.remoteReadLine l).1 ∧ (s.remoteReadLine l).2 = readBytes s.mem.bytes (64 * l) 64 := by
  obtain ⟨hk, hb, hbad⟩ := State.reach_keeps h
  refine ⟨⟨hk.mem rfl fun k hn => ?_, hb, hbad⟩, by rw [← hb]; rfl⟩
  have hset := Memory.own_setLine (s.reach l).mem (l := l) (x := { (s.reach l).mem.line l with
    r := max ((s.reach l).mem.line l).r (max (s.reach l).mem.rt (((s.reach l).mem.line l).w + 1)) }) (hk.own l h) hn
  rw [← hset]
  exact congrArg HomeLine.own (Memory.line_congr rfl rfl k)

/-- An access with its next line read. -/
def Arriving.readOn (x : Arriving) (m : Memory) (a n : Nat) (rs : List (Nat × Nat)) : Arriving :=
  let bad := x.bad || m.isBad a n
  { x with reads := rs, data := x.data.map (· ++ if bad then [] else readBytes m.bytes a n), bad := bad }

theorem State.arriveLine_read {s : State} {x : Arriving} {a n : Nat} {rs : List (Nat × Nat)} (hx : x.reads = (a, n) :: rs)
    (ha : a % 64 + n ≤ 64) (h : ∀ l, (s.mem.line l).own = none) :
    s.arriveLine x = ((s.remoteReadLine (lineOf a)).1, x.readOn s.mem a n rs) := by
  have hdata : ((s.remoteReadLine (lineOf a)).2.drop (a % 64)).take n = readBytes s.mem.bytes a n := by
    rw [(State.remoteReadLine_reads (h (lineOf a))).2, readBytes_part _ _ _ ha, lineOf, Nat.div_add_mod]
  simp only [State.arriveLine, hx, hdata, Arriving.readOn]

theorem State.monitorWrite_below {s : State} {a len : Nat} (h : a + len ≤ Config.windowBase) : s.monitorWrite a len = s :=
  if_pos (.inr (.inl h))

theorem State.foldl_monitorWrite_below (ps : List (Nat × List Byte)) (s : State)
    (h : ∀ p ∈ ps, p.1 + p.2.length ≤ Config.windowBase) :
    ps.foldl (fun s p => s.monitorWrite p.1 p.2.length) s = s := by
  induction ps with
  | nil => rfl
  | cons p ps ih =>
    rw [List.foldl_cons, State.monitorWrite_below (h p List.mem_cons_self)]
    exact ih fun q hq => h q (List.mem_cons_of_mem _ hq)

theorem State.arriveLine_write {s : State} {x : Arriving} {l : Nat} {ps : List (Nat × List Byte)}
    {ws : List (Nat × List (Nat × List Byte))} (hr : x.reads = []) (hx : x.writes = (l, ps) :: ws)
    (h : ∀ p ∈ ps, p.1 + p.2.length ≤ Config.windowBase) :
    s.arriveLine x = (s.remotePieces l ps, { x with writes := ws }) := by
  simp only [State.arriveLine, hr, hx, State.foldl_monitorWrite_below ps _ h]

/-! ### An access of the host: every line of it in one event (R92, log 27) -/

/-- A write through the fabric interface and its answer. -/
def Wrote (s t : State) (a : Nat) (bs : List Byte) (m : Message) : Prop :=
  t.sent = s.sent ++ [m] ∧ t.cores = s.cores ∧ ∀ b, ¬undoArea s b → s.mem.missing b = false →
    t.byte b = if a ≤ b ∧ b < a + bs.length then bs.getD (b - a) 0 else s.byte b

/-- A read through the fabric interface and its answer. -/
def AnsweredRead (s t : State) (a len : Nat) : Prop :=
  t.cores = s.cores ∧ (∀ b, t.byte b = s.byte b) ∧
    (s.mem.isBad a len = false → t.sent = s.sent ++ [.data ((List.range len).map fun i => s.byte (a + i)) false]) ∧
    (s.mem.isBad a len = true → 0 < len → ∃ d, t.sent = s.sent ++ [.data d true])

/-- Every line of an access that is left. -/
def State.arriveAll (s : State) (x : Arriving) : Nat → State × Arriving
  | 0 => (s, x)
  | n + 1 => State.arriveAll (s.arriveLine x).1 (s.arriveLine x).2 n

theorem State.foldl_arriveLine (n : Nat) (s : State) (x : Arriving) :
    (List.range n).foldl (fun (r : State × Arriving) _ => r.1.arriveLine r.2) (s, x) = s.arriveAll x n := by
  induction n generalizing s x with
  | zero => rfl
  | succ n ih => rw [List.range_succ_eq_map, List.foldl_cons, List.foldl_map, ih]; rfl

theorem State.arriveWhole_eq (s : State) (x : Arriving) : s.arriveWhole x =
    (s.arriveAll x (x.reads.length + x.writes.length)).1.arriveEnd (s.arriveAll x (x.reads.length + x.writes.length)).2 := by
  rw [State.arriveWhole, State.foldl_arriveLine]

/-- The writes of an access that lie below the launch window. -/
def belowWindow (ws : List (Nat × List (Nat × List Byte))) : Prop :=
  ∀ e ∈ ws, ∀ p ∈ e.2, p.1 + p.2.length ≤ Config.windowBase

theorem State.arriveAll_writes {ws : List (Nat × List (Nat × List Byte))} (hw : belowWindow ws) {s : State} {x : Arriving}
    (hr : x.reads = []) (hx : x.writes = ws) (h : ∀ l, (s.mem.line l).own = none) :
    ∃ t, s.arriveAll x ws.length = (t, { x with writes := [] }) ∧ HomeKeeps s t ∧ HomeWrites s t (ws.flatMap (·.2)) := by
  induction ws generalizing s x with
  | nil =>
    have hsame : x = { x with writes := [] } := by rw [← hx]
    exact ⟨s, congrArg (Prod.mk s) hsame, .refl s, .of_bytes rfl⟩
  | cons e ws ih =>
    obtain ⟨hk, hws⟩ := State.remotePieces_keeps (l := e.1) e.2 (h e.1)
    obtain ⟨t, ht, hkt, hwt⟩ := ih (fun f hf => hw f (List.mem_cons_of_mem _ hf)) (s := s.remotePieces e.1 e.2)
      (x := { x with writes := ws }) hr rfl fun l => hk.own l (h l)
    refine ⟨t, ?_, hk.trans hkt, hk.writes hws hwt⟩
    rw [List.length_cons, State.arriveAll, State.arriveLine_write hr hx (hw e List.mem_cons_self)]
    exact ht

theorem State.arriveAll_reads {rs : List (Nat × Nat)} (hrs : ∀ p ∈ rs, p.1 % 64 + p.2 ≤ 64) {s : State} {x : Arriving}
    {d : List Byte} (hx : x.reads = rs) (hw : x.writes = []) (hd : x.data = some d) (h : ∀ l, (s.mem.line l).own = none) :
    ∃ t y, s.arriveAll x rs.length = (t, y) ∧ FabricReads s t ∧ y.bad = (x.bad || rs.any fun p => s.mem.isBad p.1 p.2) ∧
      ∃ got, y.data = some got ∧ (y.bad = false → got = d ++ rs.flatMap fun p => readBytes s.mem.bytes p.1 p.2) := by
  induction rs generalizing s x d with
  | nil => exact ⟨s, x, rfl, .refl s, by simp, d, hd, fun _ => by simp⟩
  | cons p rs ih =>
    obtain ⟨hread, -⟩ := State.remoteReadLine_reads (h (lineOf p.1))
    have hline := State.arriveLine_read (s := s) hx (hrs p List.mem_cons_self) h
    obtain ⟨t, y, ht, hrt, hbad, got, hgot, hgood⟩ := ih (fun q hq => hrs q (List.mem_cons_of_mem _ hq))
      (s := (s.remoteReadLine (lineOf p.1)).1) (x := x.readOn s.mem p.1 p.2 rs) rfl hw (congrArg (Option.map _) hd)
      fun l => hread.keeps.own l (h l)
    have hbad' : y.bad = (x.bad || (p :: rs).any fun p => s.mem.isBad p.1 p.2) := by
      rw [hbad, List.any_cons, ← Bool.or_assoc]
      simp only [Memory.isBad, hread.bad, Arriving.readOn]
    refine ⟨t, y, ?_, hread.trans hrt, hbad', got, hgot, fun hy => ?_⟩
    · rw [List.length_cons, State.arriveAll, hline]
      exact ht
    · have hp : (x.bad || s.mem.isBad p.1 p.2) = false := by
        rw [hbad', List.any_cons, ← Bool.or_assoc] at hy
        exact (Bool.or_eq_false_iff.mp hy).1
      rw [hgood hy, List.flatMap_cons, ← List.append_assoc, hread.bytes]
      simp [hp]

theorem Wrote.ack {s t : State} {a : Nat} {bs : List Byte} {ps : List (Nat × List Byte)} {x : Arriving} (hd : x.data = none)
    (hsent : t.sent = s.sent) (hcores : t.cores = s.cores) (hw : HomeWrites s t ps)
    (hps : ∀ b d, overlay ps b d = if a ≤ b ∧ b < a + bs.length then bs.getD (b - a) 0 else d) :
    Wrote s (t.arriveEnd x) a bs .ack := by
  simp only [State.arriveEnd, hd]
  refine ⟨congrArg (· ++ [_]) hsent, hcores, fun b hu hm => ?_⟩
  rw [← hps, ← hw b hu hm]
  rfl

/-- The lines of a write of one range. -/
def rangeLines (a : Nat) (bs : List Byte) : List (Nat × List (Nat × List Byte)) := (cutLines a bs).map fun p => (lineOf p.1, [p])

theorem arrivingOf_range (a : Nat) (bs : List Byte) :
    arrivingOf (.store [(a, bs)]) = { writes := rangeLines a bs, pieces := [(a, bs)] } := by
  simp only [arrivingOf, List.flatMap_cons, List.flatMap_nil, List.append_nil, byLine_cutLines, rangeLines]

theorem rangeLines_pieces (a : Nat) (bs : List Byte) : (rangeLines a bs).flatMap (·.2) = cutLines a bs := by
  simp [rangeLines, List.flatMap_map]

theorem belowWindow_range {a : Nat} {bs : List Byte} (ha : a + bs.length ≤ Config.windowBase) :
    belowWindow (rangeLines a bs) := by
  intro e he p hp
  obtain ⟨q, hq, rfl⟩ := List.mem_map.mp he
  obtain ⟨r, hr, rfl⟩ := List.mem_map.mp hq
  obtain ⟨-, hlo, hhi⟩ := mem_splitLines hr
  rw [List.mem_singleton.mp hp, List.length_take, List.length_drop]
  dsimp only
  omega

theorem hostWrite_wrote {s : State} {a : Nat} {bs : List Byte} (ha : a + bs.length ≤ Config.windowBase)
    (h : ∀ l, (s.mem.line l).own = none) (hc : s.ckpt.copy = none) :
    Wrote s (s.arriveWhole (arrivingOf (.store [(a, bs)]))) a bs .ack := by
  rw [arrivingOf_range]
  obtain ⟨t, ht, hk, hw⟩ := State.arriveAll_writes (belowWindow_range ha) (s := s)
    (x := { writes := rangeLines a bs, pieces := [(a, bs)] }) rfl rfl h
  rw [rangeLines_pieces] at hw
  rw [State.arriveWhole_eq, List.length_nil, Nat.zero_add, ht]
  exact .ack rfl (hk.quiet hc).2 hk.cores hw fun b d => overlay_cutLines a bs b d

theorem AnsweredRead.data {s t : State} {a len : Nat} {y : Arriving} {got : List Byte} (hsent : t.sent = s.sent)
    (hcores : t.cores = s.cores) (hbytes : t.mem.bytes = s.mem.bytes) (hgot : y.data = some got) (hbad : len ≠ 0 → y.bad = s.mem.isBad a len)
    (hnone : len = 0 → y.bad = false) (hgood : y.bad = false → got = readBytes s.mem.bytes a len) :
    AnsweredRead s (t.arriveEnd y) a len := by
  have hdata : (t.arriveEnd y).sent = s.sent ++ [.data got y.bad] := by
    simp only [State.arriveEnd, hgot]
    exact congrArg (· ++ [_]) hsent
  have hrest : (t.arriveEnd y).cores = t.cores ∧ (t.arriveEnd y).mem = t.mem := by
    simp only [State.arriveEnd, hgot]
    exact ⟨rfl, rfl⟩
  refine ⟨hrest.1.trans hcores, fun b => ?_, fun hclean => ?_, fun hmarked hl => ⟨got, ?_⟩⟩
  · rw [State.byte, State.byte, hrest.2, hbytes]
  · have hy : y.bad = false := (Decidable.em (len = 0)).elim hnone fun hl => (hbad hl).trans hclean
    rw [hdata, hy, hgood hy]
    rfl
  · rw [hdata, hbad (Nat.ne_of_gt hl), hmarked]

theorem any_isBad_lineParts (m : Memory) {a len : Nat} (hl : len ≠ 0) :
    ((lineParts a len).any fun p => m.isBad p.1 p.2) = m.isBad a len := m.any_isBad_splitLines hl (by omega)

theorem hostRead_answered {s : State} (a len : Nat) (h : ∀ l, (s.mem.line l).own = none) (hc : s.ckpt.copy = none) :
    AnsweredRead s (s.arriveWhole (arrivingOf (.load a len))) a len := by
  obtain ⟨t, y, ht, hr, hbad, got, hgot, hgood⟩ := State.arriveAll_reads (rs := lineParts a len)
    (fun p hp => (mem_splitLines hp).1) (s := s) (x := arrivingOf (.load a len)) rfl rfl rfl h
  have hlines : s.arriveAll (arrivingOf (.load a len)) ((arrivingOf (.load a len)).reads.length +
    (arrivingOf (.load a len)).writes.length) = (t, y) := ht
  rw [State.arriveWhole_eq, hlines]
  refine .data (hr.keeps.quiet hc).2 hr.keeps.cores hr.bytes hgot (fun hl => ?_) (fun hl => ?_) fun hy => ?_
  · rw [hbad, any_isBad_lineParts s.mem hl]
    rfl
  · rw [hbad, hl]
    rfl
  · rw [hgood hy, List.nil_append]
    exact flatMap_splitLines s.mem.bytes fun _ => by omega

/-! ### An access of a peer, line by line (R313, R330) -/

section
variable {s : State} {id : Nat} {x : Arriving}

theorem State.arriveOn_ends {t : State} {y : Arriving} (hl : s.arriveLine x = (t, y)) (hr : y.reads = []) (hw : y.writes = []) :
    s.arriveOn id x = ({ t with fabric := { t.fabric with arriving := tdel t.fabric.arriving id } } : State).arriveEnd y := by
  simp only [State.arriveOn, hl, hr, hw, and_self, if_true]

theorem State.arriveOn_empty (hr : x.reads = []) (hw : x.writes = []) : s.arriveOn id x =
    ({ s with fabric := { s.fabric with arriving := tdel s.fabric.arriving id } } : State).arriveEnd x :=
  State.arriveOn_ends (by simp only [State.arriveLine, hr, hw]) hr hw

theorem State.arriveOn_goes_on {t : State} {y : Arriving} (hl : s.arriveLine x = (t, y)) (h : ¬(y.reads = [] ∧ y.writes = [])) :
    s.arriveOn id x = { t with fabric := { t.fabric with arriving := tset t.fabric.arriving id y } } := by
  simp only [State.arriveOn, hl, if_neg h]

end

theorem rangeLines_within {a : Nat} {bs : List Byte} (ha : a % 64 + bs.length ≤ 64) :
    rangeLines a bs = if bs = [] then [] else [(lineOf a, [(a, bs)])] := by
  unfold rangeLines cutLines
  rw [lineParts_within ha]
  cases bs with
  | nil => rfl
  | cons b bs => simp

theorem State.arriveOn_wrote {a : Nat} {bs : List Byte} (ha : a + bs.length ≤ Config.windowBase)
    (hline : a % 64 + bs.length ≤ 64) {s : State} (id : Nat) (h : ∀ l, (s.mem.line l).own = none) (hc : s.ckpt.copy = none) :
    Wrote s (s.arriveOn id (arrivingOf (.store [(a, bs)]))) a bs .ack := by
  rw [arrivingOf_range, rangeLines_within hline]
  by_cases hb : bs = []
  · rw [if_pos hb, State.arriveOn_empty rfl rfl]
    exact .ack (ps := []) rfl rfl rfl (.of_bytes rfl) fun b d => by simp [hb]
  · obtain ⟨hk, hw⟩ := State.remotePieces_keeps [(a, bs)] (h (lineOf a))
    rw [if_neg hb, State.arriveOn_ends (State.arriveLine_write rfl rfl (by simpa using ha)) rfl rfl]
    exact .ack (ps := [(a, bs)]) rfl (hk.quiet hc).2 hk.cores hw fun b d => overlay_singleton a bs b d

theorem Arriving.readOn_good {x : Arriving} {m : Memory} {a n : Nat} {rs : List (Nat × Nat)} {d : List Byte}
    (hd : x.data = some d) (hb : (x.readOn m a n rs).bad = false) :
    (x.readOn m a n rs).data = some (d ++ readBytes m.bytes a n) := by
  simp only [Arriving.readOn] at hb ⊢
  rw [hd, hb]
  rfl

theorem State.arriveOn_answered {a len : Nat} (hline : a % 64 + len ≤ 64) {s : State} (id : Nat)
    (h : ∀ l, (s.mem.line l).own = none) (hc : s.ckpt.copy = none) :
    AnsweredRead s (s.arriveOn id (arrivingOf (.load a len))) a len := by
  have hx : arrivingOf (.load a len) = { reads := if len = 0 then [] else [(a, len)], data := some [] } := by
    rw [← lineParts_within hline]; rfl
  rw [hx]
  by_cases hl : len = 0
  · rw [if_pos hl, State.arriveOn_empty rfl rfl]
    exact .data rfl rfl rfl rfl (fun hn => absurd hl hn) (fun _ => rfl) fun _ => by rw [hl]; rfl
  · obtain ⟨hr, -⟩ := State.remoteReadLine_reads (h (lineOf a))
    rw [if_neg hl, State.arriveOn_ends (State.arriveLine_read rfl hline h) rfl rfl]
    refine .data (hr.keeps.quiet hc).2 hr.keeps.cores hr.bytes rfl (fun _ => Bool.false_or _) (fun hn => absurd hn hl) fun hy => ?_
    exact Option.some.inj (Arriving.readOn_good (d := []) rfl hy)

/-! ### Atomics of peers (R115, R330) -/

theorem Amo.bytes_le (m : Amo) : m.bytes ≤ 8 := by
  unfold Amo.bytes
  split <;> decide

theorem take_natLe : ∀ {k n : Nat} (v : Nat), k ≤ n → (natLe n v).take k = natLe k v
  | 0, _, _, _ => List.take_zero
  | _ + 1, _ + 1, v, h => congrArg _ (take_natLe (v / 256) (Nat.le_of_succ_le_succ h))

theorem State.arriveAtomic_wrote {s : State} {m : Amo} {a : Nat} {bs : List Byte} (ha : a + 8 ≤ Config.windowBase)
    (h : ∀ l, (s.mem.line l).own = none) (hc : s.ckpt.copy = none)
    (hbs : bs = (wordLe 8 (m.new (leWord 64 (readBytes s.mem.bytes a m.bytes)))).take m.bytes) :
    Wrote s (s.arriveAtomic m a) a bs (.data (if s.mem.isBad a m.bytes then []
      else wordLe 8 (m.result (leWord 64 (readBytes s.mem.bytes a m.bytes)))) (s.mem.isBad a m.bytes)) := by
  have hnew : wordLe m.bytes (m.new (leWord 64 (readBytes s.mem.bytes a m.bytes))) = bs := by
    rw [hbs]
    exact (take_natLe _ m.bytes_le).symm
  have hlen : a + bs.length ≤ Config.windowBase := by
    have := m.bytes_le
    rw [hbs, List.length_take]
    omega
  obtain ⟨hk, hw⟩ := State.remotePieces_keeps [(a, bs)] (h (lineOf a))
  simp only [State.arriveAtomic, State.peek_unowned h, hnew, State.remoteWriteLine, State.monitorWrite_below hlen]
  refine ⟨congrArg (· ++ [_]) (hk.quiet hc).2, hk.cores, fun b hu hm => ?_⟩
  rw [← overlay_singleton, ← hw b hu hm]
  rfl

/-! ### The events of the fabric interface -/

section
variable {s : State} {node a : Nat}

theorem hostRmaWrite_host {bs : List Byte} (h : s.input = .hostRmaWrite none a bs) (hn : ¬nowhere s a bs.length) :
    exec .hostRmaWrite s = .next ((used s).arriveWhole (arrivingOf (.store [(a, bs)]))) := by
  simp only [exec, execHostRmaWrite, h, Memory.has_iff.mpr hn, Bool.not_true, Bool.false_eq_true, if_false, runEvent_input h,
    Option.getD_some]

theorem hostRmaWrite_peer {bs : List Byte} (h : s.input = .hostRmaWrite (some node) a bs) (hn : ¬nowhere s a bs.length) :
    exec .hostRmaWrite s =
      .next (if (used s).hearsNode node then (used s).arrivePeer (.store [(a, bs)]) else used s) := by
  simp only [exec, execHostRmaWrite, h, Memory.has_iff.mpr hn, Bool.not_true, Bool.false_eq_true, if_false, runEvent_input h]
  cases (used s).hearsNode node <;> rfl

theorem hostRmaRead_host {len : Nat} (h : s.input = .hostRmaRead a len) (hn : ¬nowhere s a len) :
    exec .hostRmaRead s = .next ((used s).arriveWhole (arrivingOf (.load a len))) := by
  simp only [exec, execHostRmaRead, h, Memory.has_iff.mpr hn, Bool.not_true, Bool.false_eq_true, if_false, runEvent_input h,
    Option.getD_some]

theorem remoteAccessArrival_first {acc : RemoteAccess} (h : s.input = .remoteAccessArrival node acc)
    (ha : s.mem.hasAll acc = true) :
    exec .remoteAccessArrival s = .next (if (used s).hearsNode node then (used s).arriveAccess acc else used s) := by
  simp only [exec, execRemoteAccessArrival, h, ha, Bool.not_true, Bool.false_eq_true, if_false, runEvent_input h]
  cases (used s).hearsNode node <;> rfl

theorem remoteAccessArrival_line {id : Nat} {x : Arriving} (h : s.input = .remoteAccessLine id)
    (hx : tget s.fabric.arriving id = some x) : exec .remoteAccessArrival s = .next ((used s).arriveOn id x) := by
  have hx' : tget (used s).fabric.arriving id = some x := hx
  simp only [exec, execRemoteAccessArrival, h, runEvent_input h, hx', Option.map_some, Option.getD_some]

theorem used_hears (hf : (mget {} s.fabric.nodes node).failed = false) : (used s).hearsNode node = true := by
  simp only [State.hearsNode, Bool.not_eq_true']
  exact hf

theorem used_deaf (hf : (mget {} s.fabric.nodes node).failed ≠ false) : (used s).hearsNode node = false := by
  simp only [State.hearsNode, Bool.not_eq_false']
  exact Bool.of_not_eq_false hf

theorem hasAll_range {bs : List Byte} (hn : ¬nowhere s a bs.length) : s.mem.hasAll (.store [(a, bs)]) = true := by
  simp only [Memory.hasAll, List.all_cons, Memory.has_iff.mpr hn, List.all_nil, Bool.and_self]

end

/-! ### An access of a peer is under way for itself (R313): nothing else reads the table of such accesses -/

/-- The package with another fabric interface. -/
def State.withFabric (s : State) (F : Fabric) : State := { s with fabric := F }

section
variable (s : State) (F : Fabric)

theorem State.copyPage_withFabric (p : Nat) : (s.withFabric F).copyPage p = (s.copyPage p).withFabric F := by
  unfold State.copyPage
  dsimp only [State.withFabric]
  split
  · rfl
  · split <;> rfl

theorem State.keepImage_withFabric (x p : Nat) : (s.withFabric F).keepImage x p = (s.keepImage x p).withFabric F := by
  unfold State.keepImage
  dsimp only [State.withFabric]
  split
  · rfl
  · split <;> rfl

theorem State.beforeWrite_withFabric (a : Nat) : (s.withFabric F).beforeWrite a = (s.beforeWrite a).withFabric F := by
  have hpage : (s.withFabric F).ckpt.page a = s.ckpt.page a := rfl
  unfold State.beforeWrite
  rw [hpage]
  cases s.ckpt.page a with
  | none => rfl
  | some p =>
    simp only [State.copyPage_withFabric, State.keepImage_withFabric]
    rfl

theorem State.writeHome_withFabric (a : Nat) (bs : List Byte) :
    (s.withFabric F).writeHome a bs = (s.writeHome a bs).withFabric F := by
  simp only [State.writeHome, State.beforeWrite_withFabric]
  rfl

theorem State.foldl_writeHome_withFabric (ps : List (Nat × List Byte)) :
    ps.foldl (fun s p => s.writeHome p.1 p.2) (s.withFabric F) =
      (ps.foldl (fun s p => s.writeHome p.1 p.2) s).withFabric F :=
  List.foldl_hom (State.withFabric · F) fun s p => State.writeHome_withFabric s F p.1 p.2

theorem State.recall_withFabric (l : Nat) : (s.withFabric F).recall l = (s.recall l).withFabric F := by
  have hmem : (s.withFabric F).mem = s.mem := rfl
  have hcore (n : Nat) : (s.withFabric F).core n = s.core n := rfl
  unfold State.recall
  simp only [hmem, hcore, State.writeHome_withFabric]
  split
  · rfl
  · split <;> rfl

theorem State.reach_withFabric (l : Nat) : (s.withFabric F).reach l = (s.reach l).withFabric F := by
  simp only [State.reach, State.recall_withFabric]
  rfl

theorem State.remoteReadLine_withFabric (l : Nat) :
    (s.withFabric F).remoteReadLine l = ((s.remoteReadLine l).1.withFabric F, (s.remoteReadLine l).2) := by
  simp only [State.remoteReadLine, State.reach_withFabric]
  rfl

theorem State.remotePieces_withFabric (l : Nat) (ps : List (Nat × List Byte)) :
    (s.withFabric F).remotePieces l ps = (s.remotePieces l ps).withFabric F := by
  simp only [State.remotePieces, State.reach_withFabric, State.foldl_writeHome_withFabric]
  rfl

theorem State.unitWrite_withFabric (a : Nat) (bs : List Byte) :
    (s.withFabric F).unitWrite a bs = (s.unitWrite a bs).withFabric F := by
  have hmem : (s.withFabric F).mem = s.mem := rfl
  unfold State.unitWrite
  rw [hmem]
  split
  · rfl
  · exact List.foldl_hom (State.withFabric · F) fun s p => State.remotePieces_withFabric s F (lineOf p.1) [p]

theorem State.acceptRecord_withFabric (q : Nat) (bs : List Byte) :
    (s.withFabric F).acceptRecord q bs = (s.acceptRecord q bs).withFabric F := by
  have hqueue : (s.withFabric F).queue q = s.queue q := rfl
  unfold State.acceptRecord
  simp only [hqueue]
  split
  · exact State.unitWrite_withFabric (s.setQueue q _) F _ _
  · rfl

end

theorem State.monitor_withFabric (fuel : Nat) (s : State) (F : Fabric) (q : Nat) :
    State.monitor fuel (s.withFabric F) q = (State.monitor fuel s q).withFabric F := by
  induction fuel generalizing s with
  | zero => rfl
  | succ fuel ih =>
    have hqueue : (s.withFabric F).queue q = s.queue q := rfl
    have hslot : (s.withFabric F).slotBytes q (s.queue q).expected = s.slotBytes q (s.queue q).expected := rfl
    simp only [State.monitor, hqueue, hslot, State.acceptRecord_withFabric, ih]
    repeat' split
    all_goals rfl

theorem State.monitorWrite_withFabric (s : State) (F : Fabric) (a len : Nat) :
    (s.withFabric F).monitorWrite a len = (s.monitorWrite a len).withFabric F := by
  unfold State.monitorWrite
  split
  · rfl
  · refine List.foldl_hom (State.withFabric · F) fun s q => ?_
    split
    · exact State.monitor_withFabric _ s F q
    · rfl

/-- The line of an access that arrives is read or written without the table of the accesses that are under way. -/
theorem State.arriveLine_withFabric (s : State) (F : Fabric) (x : Arriving) :
    (s.withFabric F).arriveLine x = ((s.arriveLine x).1.withFabric F, (s.arriveLine x).2) := by
  have hmem : (s.withFabric F).mem = s.mem := rfl
  unfold State.arriveLine
  simp only [State.remoteReadLine_withFabric, State.remotePieces_withFabric, hmem]
  split
  · rfl
  · exact Prod.ext (List.foldl_hom (State.withFabric · F) fun s p => State.monitorWrite_withFabric s F p.1 p.2.length) rfl
  · rfl

theorem State.arriveLine_fabric (s : State) (x : Arriving) : (s.arriveLine x).1.fabric = s.fabric :=
  congrArg (fun r => r.1.fabric) (State.arriveLine_withFabric s s.fabric x)

theorem tdel_tset {α : Type} (m : SMap α) (k : Nat) (a : α) : tdel (tset m k a) k = tdel m k := by
  induction m with
  | nil => simp [tset, tdel]
  | cons e m ih =>
    obtain ⟨j, b⟩ := e
    unfold tset
    split
    · simp [tdel]
    · split <;> simp [tdel, *]

/-- An access that is already listed goes on as one that is not. -/
theorem State.arriveOn_listed (s : State) (id : Nat) (x y : Arriving) :
    (s.withFabric { s.fabric with arriving := tset s.fabric.arriving id y }).arriveOn id x = s.arriveOn id x := by
  unfold State.arriveOn
  rw [State.arriveLine_withFabric]
  have hfabric := s.arriveLine_fabric x
  generalize hr : s.arriveLine x = r at hfabric
  obtain ⟨t, z⟩ := r
  dsimp only at hfabric ⊢
  split
  · simp only [State.withFabric, tdel_tset, ← hfabric]
  · simp only [State.withFabric, tset_tset, ← hfabric]

/-- A read or a write that arrives is an access of a peer under its next number. -/
theorem State.arriveAccess_peer {acc : RemoteAccess} (h : ∀ op md a b cmp, acc ≠ .atomic op md a b cmp) (s : State) :
    s.arriveAccess acc = s.arrivePeer acc := by
  cases acc with
  | atomic op md a b cmp => exact absurd rfl (h op md a b cmp)
  | _ => rfl

theorem peer_first_line (s : State) (node : Nat) (acc : RemoteAccess) (h : s.input = .remoteAccessArrival node acc)
    (ha : s.mem.hasAll acc = true) (hacc : ∀ op md a b cmp, acc ≠ .atomic op md a b cmp)
    (hf : (mget {} s.fabric.nodes node).failed = false) :
    exec .remoteAccessArrival s = exec .remoteAccessArrival { s with
      input := .remoteAccessLine s.fresh, fresh := s.fresh + 1
      fabric := { s.fabric with arriving := tset s.fabric.arriving s.fresh (arrivingOf acc) } } := by
  rw [remoteAccessArrival_first h ha, if_pos (used_hears hf), State.arriveAccess_peer hacc,
    remoteAccessArrival_line (id := s.fresh) rfl (tget_tset_self _ _ _)]
  exact congrArg _ (State.arriveOn_listed { used s with fresh := s.fresh + 1 } s.fresh (arrivingOf acc) (arrivingOf acc)).symm

/-! ### A later line of an access of a peer -/

theorem remoteAccessLine_writes {s : State} {id : Nat} {x : Arriving} (hi : s.input = .remoteAccessLine id)
    (hx : tget s.fabric.arriving id = some x) (h : ∀ l, (s.mem.line l).own = none) (hc : s.ckpt.copy = none)
    {l : Nat} {ps : List (Nat × List Byte)} {ws : List (Nat × List (Nat × List Byte))} (hr : x.reads = []) (hd : x.data = none)
    (hw : x.writes = (l, ps) :: ws)
    (hps : ∀ p ∈ ps, lineOf p.1 = l ∧ p.1 % 64 + p.2.length ≤ 64 ∧ p.1 + p.2.length ≤ Config.windowBase) :
    ∃ t, exec .remoteAccessArrival s = .next t ∧ t.cores = s.cores ∧
      (∀ b, ¬undoArea s b → s.mem.missing b = false →
        t.byte b = mget 0 (ps.foldl (fun m p => writeBytes m p.1 p.2) s.mem.bytes) b) ∧
      tget t.fabric.arriving id = (if ws = [] then none else some { x with writes := ws }) ∧
      t.sent = s.sent ++ if ws = [] then [.ack] else [] := by
  obtain ⟨hk, hbytes⟩ := State.remotePieces_keeps (s := used s) ps (h l)
  have hline := State.arriveLine_write (s := used s) hr hw fun p hp => (hps p hp).2.2
  have hsent : ((used s).remotePieces l ps).sent = s.sent := (hk.quiet hc).2
  have hwrote (b : Nat) (hu : ¬undoArea s b) (hm : s.mem.missing b = false) : ((used s).remotePieces l ps).byte b =
      mget 0 (ps.foldl (fun m p => writeBytes m p.1 p.2) s.mem.bytes) b := by
    rw [mget_foldl_writeBytes]
    exact hbytes b hu hm
  refine ⟨_, remoteAccessArrival_line hi hx, ?_⟩
  by_cases hws : ws = []
  · rw [State.arriveOn_ends hline hr hws]
    simp only [State.arriveEnd, hd, if_pos hws]
    exact ⟨hk.cores, hwrote, tget_tdel_self _ _, congrArg (· ++ [_]) hsent⟩
  · rw [State.arriveOn_goes_on hline fun hno => hws hno.2, if_neg hws, if_neg hws, List.append_nil]
    exact ⟨hk.cores, hwrote, tget_tset_self _ _ _, hsent⟩

theorem remoteAccessLine_reads {s : State} {id : Nat} {x : Arriving} (hi : s.input = .remoteAccessLine id)
    (hx : tget s.fabric.arriving id = some x) (h : ∀ l, (s.mem.line l).own = none) (hc : s.ckpt.copy = none)
    {a n : Nat} {rs : List (Nat × Nat)} {d : List Byte} (hr : x.reads = (a, n) :: rs) (hw : x.writes = [])
    (hd : x.data = some d) (ha : a % 64 + n ≤ 64) :
    let bad := x.bad || s.mem.isBad a n
    let got := d ++ if bad then [] else (List.range n).map fun i => s.byte (a + i)
    ∃ t, exec .remoteAccessArrival s = .next t ∧ t.cores = s.cores ∧ (∀ b, t.byte b = s.byte b) ∧
      tget t.fabric.arriving id = (if rs = [] then none else some { x with reads := rs, data := some got, bad := bad }) ∧
      t.sent = s.sent ++ if rs = [] then [.data got bad] else [] := by
  intro bad got
  obtain ⟨hread, -⟩ := State.remoteReadLine_reads (s := used s) (h (lineOf a))
  have hx' : x.readOn (used s).mem a n rs = { x with reads := rs, data := some got, bad := bad } := by
    simp only [Arriving.readOn, hd, Option.map_some]
    rfl
  have hline := State.arriveLine_read (s := used s) hr ha h
  rw [hx'] at hline
  have hsent : ((used s).remoteReadLine (lineOf a)).1.sent = s.sent := (hread.keeps.quiet hc).2
  have hbytes (b : Nat) : ((used s).remoteReadLine (lineOf a)).1.byte b = s.byte b := congrArg (mget 0 · b) hread.bytes
  refine ⟨_, remoteAccessArrival_line hi hx, ?_⟩
  by_cases hrs : rs = []
  · rw [State.arriveOn_ends hline hrs hw, if_pos hrs, if_pos hrs]
    exact ⟨hread.keeps.cores, hbytes, tget_tdel_self _ _, congrArg (· ++ [_]) hsent⟩
  · rw [State.arriveOn_goes_on hline fun hno => hrs hno.1, if_neg hrs, if_neg hrs, List.append_nil]
    exact ⟨hread.keeps.cores, hbytes, tget_tset_self _ _ _, hsent⟩

end Sys2Proof.Machine
end

section
/-! PROOFS. The memory system and the engines by themselves (R86, R109, R110, R112 to R115, R121, R192 to R197, R322 to R335). -/

namespace Sys2Proof.Machine

/-! ### The accesses of a core (R112, R114, R327) -/

section
variable {s : State} {n : Nat} {a : Access} {as : List Access}

theorem State.retireAccess_placed (hq : (s.core n).outq = a :: as) (hp : a.placed = true) :
    s.retireAccess n a.amo.isSome =
      (s.modCore n fun k => { k with outq := k.outq.filter fun b => b.id != a.id }).leaveCounter n a.uid 0 := by
  simp only [State.retireAccess, hq, hp, ne_eq, not_true_eq_false, if_false, if_true]

theorem storePerform_head (hi : s.input = .storePerform n) (hq : (s.core n).outq = a :: as) : exec .storePerform s =
    .next (if a.amo = none then (used s).retireAccess n false else used s) := by
  have hq' : ((used s).core n).outq = a :: as := hq
  simp only [exec, execStorePerform, runEvent_input hi, Core.oldestIs, hq']
  cases a.amo <;> rfl

theorem atomicPerform_head (hi : s.input = .atomicPerform n) (hq : (s.core n).outq = a :: as) : exec .atomicPerform s =
    .next (if a.amo = none then used s else (used s).retireAccess n true) := by
  have hq' : ((used s).core n).outq = a :: as := hq
  simp only [exec, execAtomicPerform, runEvent_input hi, Core.oldestIs, hq']
  cases a.amo <;> rfl

theorem accesses_perform (hq : (s.core n).outq = a :: as) (hp : a.placed = true) :
    let u := used s
    let gone := (u.modCore n fun k => { k with outq := k.outq.filter fun b => b.id != a.id }).leaveCounter n a.uid 0
    (a.amo = none → s.input = .storePerform n → exec .storePerform s = .next gone) ∧
    (a.amo ≠ none → s.input = .storePerform n → exec .storePerform s = .next u) ∧
    (a.amo ≠ none → s.input = .atomicPerform n → exec .atomicPerform s = .next gone) ∧
    (a.amo = none → s.input = .atomicPerform n → exec .atomicPerform s = .next u) := by
  intro u gone
  have hgone : u.retireAccess n a.amo.isSome = gone := State.retireAccess_placed (s := used s) hq hp
  refine ⟨fun ha hi => ?_, fun ha hi => ?_, fun ha hi => ?_, fun ha hi => ?_⟩
  · rw [storePerform_head hi hq, if_pos ha, ← hgone, ha]
    rfl
  · rw [storePerform_head hi hq, if_neg ha]
  · rw [atomicPerform_head hi hq, if_neg ha, ← hgone, Option.isSome_iff_ne_none.mpr ha]
  · rw [atomicPerform_head hi hq, if_pos ha]

theorem homeAccess_places (hi : s.input = .homeAccess n) :
    ((∃ a ∈ (s.core n).outq, a.placed = false) → exec .homeAccess s = .next ((used s).placeNext n)) ∧
    ((∀ a ∈ (s.core n).outq, a.placed = true) → exec .homeAccess s = .next (used s)) := by
  have hany : ((used s).core n).outq.any (fun a => !a.placed) = true ↔ ∃ a ∈ (s.core n).outq, a.placed = false := by
    simp only [List.any_eq_true, Bool.not_eq_true']
    rfl
  simp only [exec, execHomeAccess, runEvent_input hi]
  refine ⟨fun hsome => ?_, fun hall => ?_⟩
  · rw [if_pos (hany.mpr hsome), Option.getD_some]
  · rw [if_neg fun h => ?_, Option.getD_none]
    obtain ⟨a, ha, hp⟩ := hany.mp h
    exact Bool.false_ne_true (hp.symm.trans (hall a ha))

theorem logicalTimeTick_ticks (hi : s.input = .logicalTimeTick n) :
    ((s.core n).ticks < (s.core n).ccyc.toNat / 128 → exec .logicalTimeTick s =
      .next ((used s).setCore n { s.core n with t := (s.core n).t + 1, ticks := (s.core n).ticks + 1 })) ∧
    ((s.core n).ccyc.toNat / 128 ≤ (s.core n).ticks → exec .logicalTimeTick s = .next (used s)) := by
  have hdue : ((used s).core n).tickDue = decide ((s.core n).ticks < (s.core n).ccyc.toNat / 128) := rfl
  simp only [exec, execLogicalTimeTick, runEvent_input hi, hdue]
  refine ⟨fun h => ?_, fun h => ?_⟩
  · rw [if_pos (decide_eq_true h)]
    rfl
  · rw [if_neg (by simpa using h)]
    rfl

end

/-! ### Engines (R86, R192 to R197, R279) -/

theorem mset_mset {α : Type} [DecidableEq α] (d : α) (m : SMap α) (k : Nat) {a : α} (b : α) (ha : a ≠ d) :
    mset d (mset d m k a) k b = mset d m k b := by
  unfold mset
  rw [if_neg ha, tdel_tset, tset_tset]

theorem State.modCore_modCore (s : State) (n : Nat) (f g : Core → Core) (h : f (s.core n) ≠ {}) :
    (s.modCore n f).modCore n g = s.modCore n fun k => g (f k) := by
  rw [State.modCore, State.core_modCore]
  simp only [State.modCore, State.setCore, mset_mset _ _ _ _ h]

@[simp] theorem Core.unmark_nil (k : Core) : k.unmark [] = k := by
  have hnone (b : Nat) : coversBlock [] b = false := rfl
  simp [Core.unmark, spansOf, hnone]

/-- Without marked rows an operation just retires. -/
theorem State.retireAsync_badRows_nil {s : State} {n : Nat} (o : Async) (h : s.core n ≠ {}) :
    (s.badRows n o []).retireAsync n o = s.retireAsync n o := by
  have hrows : s.badRows n o [] = if o.load then s.modCore n fun k => k else s := by
    simp only [State.badRows, State.writeSpad, List.filterMap_nil, List.map_nil, List.foldl_nil, Core.unmark_nil, lowestRow,
      State.uncorrAt]
  rw [hrows]
  split
  · rw [State.retireAsync, State.modCore_modCore _ _ _ _ h]
    rfl
  · rfl

section
variable {s : State} {n id : Nat} {o : Async} (ho : (s.core n).asyncOp id = some o)
include ho

theorem tileLoadComplete_loads {bad : List Nat} (hi : s.input = .tileLoadComplete n id bad) (hl : o.load = true) :
    exec .tileLoadComplete s = .next (((used s).badRows n o (o.bad ++ bad)).retireAsync n o) := by
  have ho' : ((used s).core n).asyncOp id = some o := ho
  simp only [exec, execTileLoadComplete, runEvent_input hi, ho', Option.bind_some, hl, if_true, Option.getD_some]

theorem tileStorePerform_stores (hi : s.input = .tileStorePerform n id) (hl : o.load = false) (hc : o.copy = false) :
    exec .tileStorePerform s =
      .next (((used s).modCore n fun k => k.modTask o.uid fun x => x.release id).retireAsync n o) := by
  have ho' : ((used s).core n).asyncOp id = some o := ho
  simp only [exec, execTileStorePerform, runEvent_input hi, ho', Option.bind_some, hl, hc, Bool.not_false, and_self, if_true,
    Option.getD_some]

theorem bswapCopyComplete_copies (hi : s.input = .bswapCopyComplete n id) (hc : o.copy = true) :
    (s.copyOpen id = true → exec .bswapCopyComplete s = .next (used s)) ∧
    (s.copyOpen id = false → exec .bswapCopyComplete s = .next (((used s).badRows n o o.bad).retireAsync n o)) := by
  have ho' : ((used s).core n).asyncOp id = some o := ho
  have hopen : (used s).copyOpen id = s.copyOpen id := rfl
  simp only [exec, execBswapCopyComplete, runEvent_input hi, ho', Option.bind_some, hc, hopen, true_and]
  exact ⟨fun h => by rw [h]; rfl, fun h => by rw [h]; rfl⟩

end

theorem Core.ne_of_asyncOp {k : Core} {id : Nat} {o : Async} (h : k.asyncOp id = some o) : k ≠ {} := by
  rintro rfl
  cases h

/-- A context of a core after a change of a task's contexts. -/
theorem Core.tget_modTask (k : Core) (uid : Nat) (g : Ctx → Ctx) (c : Nat) :
    tget (k.modTask uid g).ctxs c = (tget k.ctxs c).map fun x => if x.task.uid = uid then g x else x := by
  rw [← tget_map fun x => if x.task.uid = uid then g x else x]
  refine congrArg (tget · c) (List.map_congr_left fun e _ => ?_)
  split <;> rfl

theorem Core.tget_suspended_modTask {k : Core} {j : Nat} (uid : Nat) (g : Ctx → Ctx) (h : tget k.suspended j = none) :
    tget (k.modTask uid g).suspended j = none := by
  have hmap := tget_map (fun e : Suspended => if e.ctx.task.uid = uid then { e with ctx := g e.ctx } else e) k.suspended j
  rw [h] at hmap
  refine Eq.trans (congrArg (tget · j) (List.map_congr_left fun e _ => ?_)) hmap
  split <;> rfl

theorem State.retireAsync_core (s : State) (n : Nat) (o : Async) : (s.retireAsync n o).core n =
    (Core.modTask { s.core n with async := (s.core n).async.filter fun p => p.id != o.id } o.uid fun x =>
      { x with cnt := x.cnt.leave 2 }).modTask o.uid (Ctx.charge s.clock) := by
  simp only [State.retireAsync, State.chargeTask, State.leaveCounter, State.core_modCore]
  rfl

theorem State.retireAsync_leaves (s : State) (n : Nat) (o : Async) (c : Nat) (x : Ctx) (hx : s.ctx? n c = some x)
    (hu : x.task.uid = o.uid) (honly : ∀ e ∈ (s.core n).ctxs, e.2.task.uid = o.uid → e = (c, x)) :
    let t := s.retireAsync n o
    (t.core n).async = (s.core n).async.filter (fun p => p.id != o.id) ∧
    (∃ e : DWord, t.ctx? n c = some { x with cnt := x.cnt.leave 2, ctl := { x.ctl with eused := x.ctl.eused + e } }) ∧
    ∀ d, d ≠ c → t.ctx? n d = s.ctx? n d := by
  intro t
  have hctx (d : Nat) : t.ctx? n d = ((s.ctx? n d).map fun y => if y.task.uid = o.uid then { y with cnt := y.cnt.leave 2 } else y).map
      fun y => if y.task.uid = o.uid then y.charge s.clock else y := by
    rw [State.ctx?, State.retireAsync_core, Core.tget_modTask, Core.tget_modTask]
    rfl
  refine ⟨by rw [State.retireAsync_core]; rfl, ⟨BitVec.ofNat 64 (Config.energyCharge s.clock), ?_⟩, fun d hd => ?_⟩
  · rw [hctx, hx, Option.map_some, if_pos hu, Option.map_some, if_pos (show x.task.uid = o.uid from hu)]
    rfl
  · rw [hctx]
    cases hy : s.ctx? n d with
    | none => rfl
    | some y =>
      have hne : y.task.uid ≠ o.uid := fun he => hd (congrArg Prod.fst (honly (d, y) (tget_mem hy) he))
      rw [Option.map_some, if_neg hne, Option.map_some, if_neg hne]

/-! ### Data of loads (R109, R110) -/

theorem State.saveLanding_none {s : State} {n uid : Nat} (h : tget (s.core n).suspended uid = none) :
    s.saveLanding n uid = s := by simp only [State.saveLanding, h]

theorem State.saveLanding_modTask {s : State} {n uid : Nat} (g : Ctx → Ctx) (h : tget (s.core n).suspended uid = none) :
    (s.modCore n fun k => k.modTask uid g).saveLanding n uid = s.modCore n fun k => k.modTask uid g :=
  State.saveLanding_none (by rw [State.core_modCore]; exact Core.tget_suspended_modTask uid g h)

section
variable {s : State} {n c a : Nat} {data : List Byte} {st : DataStatus} (hi : s.input = .loadDataArrival n c a data st)
include hi

theorem loadDataArrival_local {x : Ctx} {l : Landing} (hx : s.ctx? n c = some x)
    (hr : ∀ r ∈ s.fabric.remotes, ¬(r.2.core = n ∧ r.2.ctx = c ∧ r.2.addr.toNat = a ∧ r.2.counts = false)) :
    (s.localWait n x a = some l → tget (s.core n).suspended x.task.uid = none → exec .loadDataArrival s = .next
      ((used s).modCore n fun k => k.modTask x.task.uid fun y =>
        y.modLanding l.id fun m d => ({ m with status := m.status.after st false }, d))) ∧
    ((∀ y ∈ (s.core n).tasksAt c, s.localWait n y a = none) → exec .loadDataArrival s = .next (used s)) := by
  have hnone : s.fabric.remotes.find? (fun r =>
      r.2.core = n && r.2.ctx = c && r.2.addr.toNat = a && !r.2.counts) = none := by
    simpa [List.find?_eq_none, and_assoc] using hr
  have hfind : (used s).fabric.remotes.find? (fun r =>
      r.2.core = n && r.2.ctx = c && r.2.addr.toNat = a && !r.2.counts) = none := hnone
  have htasks : ((used s).core n).tasksAt c = (s.core n).tasksAt c := rfl
  have hwait (y : Ctx) : (used s).localWait n y a = s.localWait n y a := rfl
  simp only [exec, execLoadDataArrival, runEvent_input hi, State.dataArrives, hfind, htasks, hwait]
  refine ⟨fun hl hsus => ?_, fun hnone => ?_⟩
  · have hat : (s.core n).tasksAt c = x :: ((s.core n).suspended.filter fun e => e.2.slot = c).map (·.2.ctx) := by
      rw [Core.tasksAt, show tget (s.core n).ctxs c = some x from hx]
      rfl
    rw [hat, List.findSome?_cons]
    simp only [hl, Option.map_some, Option.getD_some]
    exact congrArg _ (State.saveLanding_modTask (s := used s) _ hsus)
  · rw [List.findSome?_eq_none_iff.mpr fun y hy => by rw [hnone y hy, Option.map_none], Option.getD_none]

theorem loadDataArrival_peer {id : Nat} {r : Remote}
    (hf : s.fabric.remotes.find? (fun r => r.2.core = n && r.2.ctx = c && r.2.addr.toNat = a && !r.2.counts) = some (id, r)) :
    (st = .good → data.length ≠ r.len → exec .loadDataArrival s = .next (used s)) ∧
    (st ≠ .good ∨ data.length = r.len → exec .loadDataArrival s = .next ((used s).remoteData id r data st)) := by
  have hf' : (used s).fabric.remotes.find? (fun r =>
      r.2.core = n && r.2.ctx = c && r.2.addr.toNat = a && !r.2.counts) = some (id, r) := hf
  simp only [exec, execLoadDataArrival, runEvent_input hi, State.dataArrives, hf']
  refine ⟨fun hg hl => ?_, fun h => ?_⟩
  · rw [if_pos ⟨hg, hl⟩, Option.getD_none]
  · rw [if_neg fun hno => h.elim (fun hg => hg hno.1) fun hl => hno.2 hl, Option.getD_some]

end

theorem Arrival.after_cases (a : Arrival) : Arrival.after .waiting .good false = .arrived ∧ Arrival.after .waiting .good true = .waiting ∧
    a.after .failed false = .failed ∧ Arrival.after .waiting .uncorrectable false = .uncorrectable :=
  ⟨rfl, rfl, by cases a <;> rfl, rfl⟩

/-! ### Stash lines and evictions (R191, R325, R335) -/

theorem stashFill_fills {s : State} {n c off j : Nat} {x y : Ctx} {w : Window} (hi : s.input = .stashFill n c off)
    (hx : s.ctx? n c = some x) (hw : (s.core n).windowAt x.task.spBase off = some (y, j, w)) :
    let i := (off - 65536 * w.spg) / 64
    let busy := (s.core n).windowBusy y.task.uid j (64 * i) 64
    ((tget w.lines i).isSome = true ∨ busy = true → exec .stashFill s = .next (used s)) ∧
    (tget w.lines i = none → busy = false → exec .stashFill s = .next ((used s).stashFillLine n y.task.uid j i)) := by
  intro i busy
  have hx' : (used s).ctx? n c = some x := hx
  have hw' : ((used s).core n).windowAt x.task.spBase off = some (y, j, w) := hw
  have hbusy : ((used s).core n).windowBusy y.task.uid j (64 * ((off - 65536 * w.spg) / 64)) 64 = busy := rfl
  simp only [exec, execStashFill, runEvent_input hi, hx', Option.bind_some, State.fillAt, hw', hbusy]
  refine ⟨fun h => ?_, fun hl hb => ?_⟩
  · rw [if_pos h, Option.getD_none]
  · rw [if_neg, Option.getD_some]
    exact fun h => h.elim (fun hs => by rw [hl] at hs; cases hs) fun ht => Bool.false_ne_true (hb.symm.trans ht)

theorem l2Eviction_evicts {s : State} {l : Nat} {h : HomeLine} (hi : s.input = .l2Eviction l) (hl : tget s.mem.lines l = some h) :
    (h.own ≠ none → exec .l2Eviction s = .next (used s)) ∧
    (h.own = none → ∃ m : Memory, m.lines = tdel s.mem.lines l ∧
      m.memt = mset 0 s.mem.memt (homeSlice (64 * l)) (max (mget 0 s.mem.memt (homeSlice (64 * l))) h.r) ∧
      { m with lines := s.mem.lines, memt := s.mem.memt } = s.mem ∧ exec .l2Eviction s = .next { used s with mem := m }) := by
  have hl' : tget (used s).mem.lines l = some h := hl
  simp only [exec, execL2Eviction, runEvent_input hi, Memory.evict, hl', Option.bind_some]
  refine ⟨fun ho => ?_, fun ho => ⟨{ s.mem with
    lines := tdel s.mem.lines l
    memt := mset 0 s.mem.memt (homeSlice (64 * l)) (max (mget 0 s.mem.memt (homeSlice (64 * l))) h.r) }, rfl, rfl, rfl, ?_⟩⟩
  · rw [if_pos (Option.isSome_iff_ne_none.mpr ho)]
    rfl
  · rw [ho]
    rfl

/-! ### Answers of peers (R110, R112, R121) -/

section
variable {s : State} {id : Nat} {v : DWord} {r : Remote} (hi : s.input = .remoteCompletion id v)
  (hr : tget s.fabric.remotes id = some r)
include hi hr

theorem remoteCompletion_runs : exec .remoteCompletion s = .next (if r.counts then (used s).remoteDone id r v else used s) := by
  have hr' : tget (used s).fabric.remotes id = some r := hr
  simp only [exec, execRemoteCompletion, runEvent_input hi, hr', Option.bind_some]
  cases r.counts <;> rfl

theorem remoteCompletion_completes :
    let t := { used s with fabric := { s.fabric with remotes := tdel s.fabric.remotes id } }
    let more : Prop := r.group ≠ 0 ∧ ∃ q ∈ t.fabric.remotes, q.2.group = r.group
    (r.counts = false → exec .remoteCompletion s = .next (used s)) ∧
    (r.counts = true → r.landing = none → (¬more → exec .remoteCompletion s = .next (t.leaveCounter r.core r.uid 1)) ∧
      (more → exec .remoteCompletion s = .next t)) ∧
    ∀ l, r.counts = true → r.landing = some l → r.group = 0 → tget (s.core r.core).suspended r.uid = none →
      exec .remoteCompletion s = .next ((t.modCore r.core fun k => k.modTask r.uid fun x =>
        x.modLanding l fun m d => ({ m with status := m.status.after .good false },
          d.patch m 0 (wordLe 8 v))).leaveCounter r.core r.uid 1) := by
  intro t more
  have hmore : r.group ≠ 0 ∧ t.fabric.remotes.any (fun q => q.2.group = r.group) = true ↔ more := by
    simp only [List.any_eq_true, decide_eq_true_eq, more]
  have hdrop : (used s).dropRemote id = t := rfl
  rw [remoteCompletion_runs hi hr]
  refine ⟨fun hc => by rw [hc]; rfl, fun hc hl => ?_, fun l hc hl hg hsus => ?_⟩
  · rw [if_pos hc]
    simp only [State.remoteDone, hdrop, hl, State.leaveRemote]
    exact ⟨fun hno => by rw [if_neg (mt hmore.mp hno)], fun hyes => by rw [if_pos (hmore.mpr hyes)]⟩
  · rw [if_pos hc]
    simp only [State.remoteDone, hdrop, hl, State.leaveRemote, hg, ne_eq, not_true_eq_false, false_and, if_false]
    rw [State.saveLanding_modTask (s := t) _ hsus]

end

/-! ### Invalidations (R322) -/

theorem Ctx.quiet_iff {x : Ctx} : x.quiet = true ↔ x.cnt.st = 0 ∧ x.cnt.rm = 0 ∧ x.cnt.as = 0 ∧ x.buf.held = [] ∧
    ∀ b, x.bundle = some b → ∀ a ∈ b.answers, ∀ src dst len ps, a.2 ≠ .copy src dst len ps := by
  have hcopy (a : Answer) : (match a with | .copy _ _ _ _ => false | _ => true) = true ↔
      ∀ src dst len ps, a ≠ .copy src dst len ps := by cases a <;> simp
  simp only [Ctx.quiet, Bool.and_eq_true, decide_eq_true_eq, Option.all_eq_true, List.all_eq_true, and_assoc]
  exact and_congr_right' (and_congr_right' (and_congr_right' (and_congr_right'
    (forall₂_congr fun b _ => forall₂_congr fun a _ => hcopy a.2))))

theorem State.remoteOf_eq_false {s : State} {q : Nat} {r : Remote} : (!s.remoteOf q r) = true ↔
    ∃ x, (s.core r.core).findTask r.uid = some x ∧ x.task.queue ≠ q := by
  unfold State.remoteOf
  cases (s.core r.core).findTask r.uid <;> simp

theorem State.queueQuiet_iff {s : State} {q : Nat} : s.queueQuiet q = true ↔
    (∀ k ∈ s.cores, ∀ x ∈ k.2.tasks, x.task.queue = q → x.cnt.st = 0 ∧ x.cnt.rm = 0 ∧ x.cnt.as = 0 ∧ x.buf.held = [] ∧
      ∀ b, x.bundle = some b → ∀ a ∈ b.answers, ∀ src dst len ps, a.2 ≠ .copy src dst len ps) ∧
    ∀ r ∈ s.fabric.remotes, ∃ x, (s.core r.2.core).findTask r.2.uid = some x ∧ x.task.queue ≠ q := by
  have himp (x : Ctx) : (x.task.queue != q || x.quiet) = true ↔ (x.task.queue = q → x.quiet = true) := by
    by_cases hq : x.task.queue = q <;> simp [hq]
  simp only [State.queueQuiet, Bool.and_eq_true, List.all_eq_true, State.remoteOf_eq_false, himp, Ctx.quiet_iff]

theorem tlbInvalidate_waits {s : State} {q base len : Nat} (hq : q < 64) (hi : s.input = .tlbInvalidate q base len) :
    exec .tlbInvalidate s = .next { used s with mem := { s.mem with invals := s.mem.invals ++ [(q, base, len)] } } := by
  simp only [exec, execTlbInvalidate, runEvent_input hi, hq, if_true, Option.getD_some]
  rfl

theorem tlbInvalidateComplete_drops {s : State} {q base len : Nat} (hi : s.input = .tlbInvalidateComplete q base len)
    (hm : (q, base, len) ∈ s.mem.invals) :
    (s.queueQuiet q = false → exec .tlbInvalidateComplete s = .next (used s)) ∧
    (s.queueQuiet q = true → exec .tlbInvalidateComplete s = .next { used s with mem := { s.mem with
      tlbs := s.mem.tlbs.filterMap fun t =>
        let es := t.2.filter fun e => !(e.queue = q && decide (e.base < base + len) && decide (base < e.base + 2 ^ e.bits))
        if es = [] then none else some (t.1, es)
      invals := s.mem.invals.erase (q, base, len) } }) := by
  have hquiet : (used s).queueQuiet q = s.queueQuiet q := rfl
  have hlisted : (used s).mem.invals.contains (q, base, len) = true := List.contains_iff_mem.mpr hm
  simp only [exec, execTlbInvalidateComplete, runEvent_input hi, hquiet, hlisted, true_and]
  refine ⟨fun h => ?_, fun h => ?_⟩
  · rw [h]
    rfl
  · rw [if_pos h]
    rfl

/-! ### The obligation -/

/-- The events of one core: its accesses and its engines. -/
theorem core_events (s : State) (n : Nat) :
    let u := used s
    let k := s.core n
    (∀ a as, k.outq = a :: as → a.placed = true →
      let gone := (u.modCore n fun k => { k with outq := k.outq.filter fun b => b.id != a.id }).leaveCounter n a.uid 0
      (a.amo = none → s.input = .storePerform n → exec .storePerform s = .next gone) ∧
      (a.amo ≠ none → s.input = .storePerform n → exec .storePerform s = .next u) ∧
      (a.amo ≠ none → s.input = .atomicPerform n → exec .atomicPerform s = .next gone) ∧
      (a.amo = none → s.input = .atomicPerform n → exec .atomicPerform s = .next u)) ∧
    (s.input = .homeAccess n → (∃ a ∈ k.outq, a.placed = false) → exec .homeAccess s = .next (u.placeNext n)) ∧
    (s.input = .homeAccess n → (∀ a ∈ k.outq, a.placed = true) → exec .homeAccess s = .next u) ∧
    (s.input = .logicalTimeTick n → (k.ticks < k.ccyc.toNat / 128 →
        exec .logicalTimeTick s = .next (u.setCore n { k with t := k.t + 1, ticks := k.ticks + 1 })) ∧
      (k.ccyc.toNat / 128 ≤ k.ticks → exec .logicalTimeTick s = .next u)) ∧
    (∀ id bad o, s.input = .tileLoadComplete n id bad → k.asyncOp id = some o → o.load = true →
      exec .tileLoadComplete s = .next ((u.badRows n o (o.bad ++ bad)).retireAsync n o) ∧
      (o.bad ++ bad = [] → exec .tileLoadComplete s = .next (u.retireAsync n o))) ∧
    (∀ id o, s.input = .tileStorePerform n id → k.asyncOp id = some o → o.load = false → o.copy = false →
      exec .tileStorePerform s = .next ((u.modCore n fun k => k.modTask o.uid fun x => x.release id).retireAsync n o)) ∧
    (∀ id o, s.input = .bswapCopyComplete n id → k.asyncOp id = some o → o.copy = true →
      (s.copyOpen id = true → exec .bswapCopyComplete s = .next u) ∧
      (s.copyOpen id = false → exec .bswapCopyComplete s = .next ((u.badRows n o o.bad).retireAsync n o))) := by
  intro u k
  refine ⟨fun a as hq hp => accesses_perform hq hp, fun hi => (homeAccess_places hi).1, fun hi => (homeAccess_places hi).2,
    fun hi => logicalTimeTick_ticks hi, fun id bad o hi ho hl => ?_, fun id o hi ho hl hc => tileStorePerform_stores ho hi hl hc,
    fun id o hi ho hc => bswapCopyComplete_copies ho hi hc⟩
  have hload := tileLoadComplete_loads ho hi hl
  refine ⟨hload, fun hnone => ?_⟩
  rw [hload, hnone, State.retireAsync_badRows_nil (s := used s) o (Core.ne_of_asyncOp (id := id) ho)]

theorem remoteAccessArrival_heard {s : State} {node : Nat} {acc : RemoteAccess} (h : s.input = .remoteAccessArrival node acc)
    (ha : s.mem.hasAll acc = true) (hear : (mget {} s.fabric.nodes node).failed = false) :
    exec .remoteAccessArrival s = .next ((used s).arriveAccess acc) := by
  rw [remoteAccessArrival_first h ha, if_pos (used_hears hear)]

section
variable {s : State} {a : Nat} (h : ∀ l, (s.mem.line l).own = none) (hc : s.ckpt.copy = none)
include h hc

/-- Writes of the host, and those of peers that lie in one line. -/
theorem fabric_writes {bs : List Byte} (ha : a + bs.length ≤ Config.windowBase) (hn : ¬nowhere s a bs.length) :
    let heard (node : Nat) : Prop := (mget {} s.fabric.nodes node).failed = false
    (s.input = .hostRmaWrite none a bs → ∃ t, exec .hostRmaWrite s = .next t ∧ Wrote s t a bs .ack) ∧
    ∀ node, (s.input = .remoteAccessArrival node (.store [(a, bs)]) →
        (¬heard node → exec .remoteAccessArrival s = .next (used s)) ∧
        (heard node → a % 64 + bs.length ≤ 64 → ∃ t, exec .remoteAccessArrival s = .next t ∧ Wrote s t a bs .ack)) ∧
      (s.input = .hostRmaWrite (some node) a bs → (¬heard node → exec .hostRmaWrite s = .next (used s)) ∧
        (heard node → exec .hostRmaWrite s =
          exec .remoteAccessArrival { s with input := .remoteAccessArrival node (.store [(a, bs)]) })) := by
  intro heard
  refine ⟨fun hi => ⟨_, hostRmaWrite_host hi hn, hostWrite_wrote (s := used s) ha h hc⟩, fun node =>
    ⟨fun hi => ⟨fun hdeaf => ?_, fun hear hline => ⟨_, remoteAccessArrival_heard hi (hasAll_range hn) hear,
      State.arriveOn_wrote ha hline s.fresh (s := { used s with fresh := s.fresh + 1 }) h hc⟩⟩,
    fun hi => ⟨fun hdeaf => ?_, fun hear => ?_⟩⟩⟩
  · rw [remoteAccessArrival_first hi (hasAll_range hn), used_deaf hdeaf]
    rfl
  · rw [hostRmaWrite_peer hi hn, used_deaf hdeaf]
    rfl
  · rw [hostRmaWrite_peer hi hn, if_pos (used_hears hear)]
    exact (remoteAccessArrival_heard (s := { s with input := .remoteAccessArrival node (.store [(a, bs)]) }) rfl
      (hasAll_range hn) hear).symm

/-- Reads of the host, and those of peers that lie in one line. -/
theorem fabric_reads {len : Nat} (hn : ¬nowhere s a len) :
    (s.input = .hostRmaRead a len → ∃ t, exec .hostRmaRead s = .next t ∧ AnsweredRead s t a len) ∧
    ∀ node, s.input = .remoteAccessArrival node (.load a len) → (mget {} s.fabric.nodes node).failed = false →
      a % 64 + len ≤ 64 → ∃ t, exec .remoteAccessArrival s = .next t ∧ AnsweredRead s t a len :=
  ⟨fun hi => ⟨_, hostRmaRead_host hi hn, hostRead_answered (s := used s) a len h hc⟩,
    fun _ hi hear hline => ⟨_, remoteAccessArrival_heard hi (Memory.has_iff.mpr hn) hear,
      State.arriveOn_answered hline s.fresh (s := { used s with fresh := s.fresh + 1 }) h hc⟩⟩

/-- Atomics of peers. -/
theorem fabric_atomics {node : Nat} {op : AmoOp} {md : Bool} {b cmp : DWord} {bs : List Byte}
    (hi : s.input = .remoteAccessArrival node (.atomic op md a b cmp)) (hear : (mget {} s.fabric.nodes node).failed = false)
    (ha : a + 8 ≤ Config.windowBase) :
    let m : Amo := ⟨op, md, b, cmp⟩
    ¬nowhere s a m.bytes →
    let old : DWord := leWord 64 ((List.range m.bytes).map fun i => s.byte (a + i))
    let bad := s.mem.isBad a m.bytes
    bs = (wordLe 8 (m.new old)).take m.bytes → ∃ t, exec .remoteAccessArrival s = .next t ∧
      Wrote s t a bs (.data (if bad then [] else wordLe 8 (m.result old)) bad) := fun hn hbs =>
  ⟨_, remoteAccessArrival_heard hi (Memory.has_iff.mpr hn) hear,
    State.arriveAtomic_wrote (s := used s) (m := ⟨op, md, b, cmp⟩) ha h hc hbs⟩

end

/-- Settles O55: each event of the memory system, the engines and the fabric interface through what its function does. -/
theorem memoryEvents : Obligations.MemoryEvents := by
  unfold Obligations.MemoryEvents
  refine ⟨fun s n => ?_, fun s n c a x l data st hx hi hr => loadDataArrival_local hi hx hr,
    fun s n c a id r data st hi hf => loadDataArrival_peer hi hf, Arrival.after_cases,
    fun s n c off j x y w hi hx hw => stashFill_fills hi hx hw, fun s l h hi hl => l2Eviction_evicts hi hl,
    fun s a len bs h hc => ⟨fun ha hn => fabric_writes h hc ha hn, fun hn => fabric_reads h hc hn,
      fun node op md b cmp hi hear ha => by
        intro m hn old bad _ hbs
        exact fabric_atomics h hc hi hear ha hn hbs⟩, peer_first_line,
    fun s id x hi hx h hc => ⟨fun l ps ws hr hd hw hps => remoteAccessLine_writes hi hx h hc hr hd hw hps,
      fun a n rs d hr hw hd ha => remoteAccessLine_reads hi hx h hc hr hw hd ha⟩,
    fun s id v r hi hr => remoteCompletion_completes hi hr,
    fun s q base len hq => ⟨fun hi => tlbInvalidate_waits hq hi, fun hi hm => ⟨State.queueQuiet_iff,
      tlbInvalidateComplete_drops hi hm⟩⟩⟩
  obtain ⟨hperform, hplace, hplaced, htick, hload, hstore, hcopy⟩ := core_events s n
  exact ⟨hperform, hplace, hplaced, htick, hload, hstore, hcopy,
    fun o c x hx hu honly _ => State.retireAsync_leaves s n o c x hx hu honly⟩

end Sys2Proof.Machine
end
